-- ==== Sys2Proof/Word.lean ====
section
/-! DEFINITION. The word types of the KVX-7100 series, the bit-field constant of a register map, and the sparse map type.
Device registers are 64 bits wide and little-endian (R11). -/

namespace Sys2Proof

/-- A 64-bit register or address-sized value (R11, R54). -/
abbrev Word := BitVec 64
/-- One byte of memory. -/
abbrev Byte := BitVec 8
/-- The 64 bytes of one line, byte 0 in the least significant bits. -/
abbrev LineData := BitVec 512
/-- A long-vector or mask register (R95). -/
abbrev VecData := BitVec 4096

/-- A bit field `NAME[hi:lo]` of a register (the notation of 00_scope.md). -/
structure Fld where
  hi : Nat
  lo : Nat
  deriving DecidableEq, Repr

/-- A sparse map by natural-number key, held as a list of pairs with strictly rising keys in which no entry
equals what an unlisted key reads as. -/
abbrev KMap (α : Type) := List (Nat × α)

end Sys2Proof
end

