-- ==== Sys2Proof/Config.lean ====
section
/-! DEFINITION. What an instance fixes, and the free values: constants with no body, which no proof can see, for the values
that the spec leaves open. -/

namespace Sys2Proof

/-- The fixed configuration of a system: the dies of each package (R1, R2) and the master package named by strap (R4). -/
structure SysCfg where
  /-- Dies of packages 0 to 3; 0 for an absent package. -/
  dies : List Nat
  /-- The master package. -/
  master : Nat
  /-- Dies whose fused spares are not the default ones, with the tiles whose core and whose slice is a spare (R18, R21). -/
  spares : List (Nat × List Nat × List Nat)
  deriving DecidableEq, Repr

/-- The tiles of a die whose core, and whose slice, is a spare when the die is new; unlisted dies have the highest-numbered ones
(DESIGN CHOICE, log entry 3). -/
def SysCfg.sparesOf (c : SysCfg) (D : Nat) : List Nat × List Nat :=
  match c.spares.find? (fun e => e.1 == D) with | some e => e.2 | none => ([40, 41, 42, 43], [42, 43])

/-- The number of dies of a package; 0 when it is absent. -/
def SysCfg.ndie (c : SysCfg) (p : Nat) : Nat := min 8 (c.dies.getD p 0)

/-- Whether die number `D` = p × 8 + d is present. -/
def SysCfg.present (c : SysCfg) (D : Nat) : Bool := decide (D % 8 < c.ndie (D / 8))

/-- The present dies of a package, as system die numbers. -/
def SysCfg.diesOf (c : SysCfg) (p : Nat) : List Nat := (List.range (c.ndie p)).map (fun d => p * 8 + d)

/-- Every present die of the system. -/
def SysCfg.allDies (c : SysCfg) : List Nat := (List.range 4).flatMap c.diesOf

/-- A free value: what the spec leaves undefined, by the number of the draw (log entry 2). -/
opaque Config.freeWord : Nat → Word
/-- A free natural number, by the number of the draw (log entry 2). -/
opaque Config.freeNat : Nat → Nat
/-- A free truth value, by the number of the draw (log entry 2). -/
opaque Config.freeBool : Nat → Bool

/-- Whether tininess is detected after rounding, a choice that IEEE 754-2019 leaves to the implementation and R61 does not
make (log entry 8). -/
opaque Config.tinyAfter : Bool
/-- Whether a fused multiply-add of an infinity, a zero and a quiet NaN raises NV, a choice that IEEE 754-2019 leaves to the
implementation and R61 does not make (log entry 8). -/
opaque Config.fmaNanNV : Bool
/-- The order of the bits of the class mask of `FCLASS`, which R60 does not give: the bit of each of the ten classes
(log entry 8). -/
opaque Config.classBit : Nat → Nat

/-- The LLC set of a line, by line key; R163 gives 3,072 sets and no index (log entry 9). -/
opaque Config.llcSet : Nat → Nat
/-- The L2 set of a line, by line key; the cache table of 05_core.md gives 1,024 sets and no index (log entry 9). -/
opaque Config.l2Set : Nat → Nat

/-- The L1D set of a line, by line key; 05_core.md gives 128 sets and no index (log entry 9). -/
opaque Config.l1dSet : Nat → Nat
/-- The L1I set of a line, by line key; 05_core.md gives 256 sets and no index (log entry 9). -/
opaque Config.l1iSet : Nat → Nat
/-- The check-cache set of a check line; R299 gives 8 ways of 1,024 lines and no index (log entry 9). -/
opaque Config.checkSet : Nat → Nat

/-- The pace tokens of one register operation where R129 states none, by major opcode × 256 + operation, and element width
(log entry 12). -/
opaque Config.vecTokens : Nat → Nat → Nat

/-- Read-only words of PCI Express configuration spaces that the spec does not state, by kind of function (0 PF0, 1 PF1, 2 VF, 3 root
port) and word number (log entry 15). -/
opaque Config.cfgConst : Nat → Nat → Nat

/-- The fused minimum retention voltage of a domain in mV, by die and domain (R372, log entry 16). -/
opaque Config.retVmin : Nat → Nat → Nat

/-- The boot ROM of a Crown, by offset (R413): the spec does not give its contents. -/
opaque Config.romByte : Nat → Byte

/-- SHA-384 of a byte string (R421, R422), a standard that the spec cites and this model does not evaluate. -/
opaque Config.sha384 : List Byte → List Byte

/-- Whether an ECDSA P-384 signature over a byte string verifies under a public key (R332, R422): a standard that the spec cites and
this model does not evaluate. Arguments: public key, signature, message. -/
opaque Config.ecdsaOk : List Byte → List Byte → List Byte → Bool

/-- The fused hash of a key slot of a package (R422): 0 Lerdoup root, 1 platform owner. -/
opaque Config.fuseHash : Nat → Nat → List Byte

/-- The fused hash of a debug key slot of a package, and the public key whose hash it is (R332). -/
opaque Config.dbgKey : Nat → Nat → List Byte

/-- The serial number of a package (R434, R482). -/
opaque Config.serial : Nat → Word

/-- The UUID of a package's management endpoint (R429). -/
opaque Config.uuid : Nat → Nat

/-- Whether the State field of a die's status reads 3, failed, where the die is not up: R434 does not say which faults that takes. By
die and GENERATION (log entry 21). -/
opaque Config.dieFailed : Nat → Nat → Bool

/-- The paired-core flags of a die's status, which R434 names only, by die and GENERATION (log entry 21). -/
opaque Config.pairedFlags : Nat → Nat → Nat

/-- What a PLDM sensor ID names: 0 to 7 the junction of that die, 8 VIN, 9 VIN current, 10 VSB, 11 package power, 12 the state sensor
of the package; none for an ID that names no sensor. R430 lists the sensors and gives no IDs (log entry 22). -/
opaque Config.sensor : Nat → Option (Fin 13)

/-- The value of the package's state sensor, by STAGE and whether the package is in Reserve mode; R430 gives none (log entry 22). -/
opaque Config.pkgState : Nat → Bool → Nat

/-- MCTP versions supported (R429), PLDM terminus ID, PLDM version of a type, and platform descriptor records (R430): contents of
standards that the spec names without values (log entry 22). -/
opaque Config.mctpVersions : List Nat
opaque Config.pldmTid : Nat → Nat
opaque Config.pldmVersion : Nat → Nat
opaque Config.pldmPdr : Nat → Nat → List Nat

/-- The boot ROM version (R434). -/
opaque Config.romVersion : Nat

end Sys2Proof
end

