-- ==== Sys2Proof/Syntax.lean ====
section
/-! DEFINITION. The commands of the block: one constructor of `Instr` for each row of the operation table, with the row's
operands, and the types those operands are made of. A row's operands are what its sender chooses: the core, die or unit
concerned, the fields of an instruction's encoding, the value written to a register, and what comes from outside the
device (a sensor sample, a received frame, a pin). -/

namespace Sys2Proof

/-- A die of the system: p × 8 + d for die d of package p (R2, R23). -/
abbrev Die := Fin 32
/-- A package (R4). -/
abbrev Pkg := Fin 4
/-- A logical core by its system-wide number p × 320 + d × 40 + c (R21). -/
abbrev CoreId := Fin 1280
/-- A logical slice: (p × 8 + d) × 42 + s. -/
abbrev SliceId := Fin 1344
/-- A physical tile: (p × 8 + d) × 44 + t (R19). -/
abbrev TileId := Fin 1408
/-- A physical memory port: (p × 8 + d) × 7 + n (R29). -/
abbrev PortId := Fin 224

/-- The partition and the address world that an access carries (R311). -/
structure Who where
  part : BitVec 6
  ns : Bool
  deriving DecidableEq, Repr

/-- The partition and world of the Crowns, the error banks and secure PL3 (R311). -/
def Who.platform : Who := ⟨0, false⟩

/-- A sender or receiver of coherence messages (R199, R201): a core, a home slice, the keeper of package `p` for lines
homed in package `q`, a memory port, a high-speed port or a Crown. -/
inductive Agent where
  | core (c : Nat)
  | home (g : Nat)
  | keeper (p q : Nat)
  | port (k : Nat)
  | hsp (D : Nat)
  | crown (D : Nat)
  deriving DecidableEq, Repr

/-- The operations of `AMO` (R72). -/
inductive AmoOp where
  | add | swap | cas | min | max | and | or
  deriving DecidableEq, Repr

/-- An atomic operation on one location: `size` in bytes (4, 8 or 16), `uns` for an unsigned comparison, the operand and,
for `cas`, the value compared with (R72). `fp` marks a floating-point scatter-reduction element with its rounding mode
(R125). -/
structure Atom where
  op : AmoOp
  size : Nat
  uns : Bool
  fp : Option Nat
  val : Nat
  cmp : Nat
  deriving DecidableEq, Repr

/-- One element of a `Gather`, `Scatter` or `ScatterRed` packet (R200): its slot, physical address, size code, element
number and data word. -/
structure Elem where
  slot : Nat
  addr : Nat
  size : Nat
  num : Nat
  data : Word
  deriving DecidableEq, Repr

/-- The coherence messages (R201). -/
inductive COp where
  | rdShared | rdUnique | upgrade | rdOnce | wrFull | wrPartial | atomicHome | atomicMem | gather | scatter | scatterRed
  | cmoClean | cmoInv | cmoFlush | lock | unlock | wbDirty | evictClean | keeperEvict
  | snpShared | snpUnique | snpInv | snpPeek | snpClean | recall
  | compAck | wbAck | snpResp | comp | grant | defer | resume
  | data | snpData | wbData | respData
  deriving DecidableEq, Repr

/-- A coherence message (R199, R200): its header fields and what follows the header. `st` is the STATE field, `arg` the ARG
field (lock outcome, credit-list entry, conversion of R206), `line` the 64-byte line with its poison mark, `be` the byte
enables of a `WrPartial`, `elems` the packet slots, `atom` the operation of an atomic, and `fwd` the requester on whose behalf a snoop is sent. -/
structure Msg where
  op : COp
  src : Agent
  dst : Agent
  txn : Nat
  addr : Nat
  who : Who
  qos : Nat
  st : Nat
  arg : Nat
  line : LineData
  poison : Bool
  be : BitVec 64
  elems : List Elem
  atom : Option Atom
  fwd : Option Agent
  deriving DecidableEq, Repr

/-- What a memory port does for a request (R276, R280, R302): a read, a whole-line write with its poison mark, a partial
write by byte enables, or an atomic. -/
inductive MemOp where
  | read
  | write (data : LineData) (poison : Bool)
  | partialWrite (data : LineData) (be : BitVec 64)
  | atomic (off : Nat) (a : Atom)
  deriving DecidableEq, Repr

/-- A request at a memory port: its sender and tag, what it does, the port data address of its line, its world and
partition, its QoS class, the time of its acceptance (R276 to R278), and what it reads. -/
structure MemReq where
  src : Agent
  tag : Nat
  op : MemOp
  d : Nat
  pa : Nat
  who : Who
  qos : Nat
  at' : Nat
  val : Option (LineData × Bool)
  deriving DecidableEq, Repr

/-- The operand fields of a format A word (R56). -/
structure FmtA where
  rd : BitVec 5
  rs1 : BitVec 5
  rs2 : BitVec 5
  func : BitVec 11
  deriving DecidableEq, Repr

/-- The operand fields of a format I word (R56). -/
structure FmtI where
  rd : BitVec 5
  rs1 : BitVec 5
  func : BitVec 2
  imm : BitVec 14
  deriving DecidableEq, Repr

/-- The operand fields of a format M word (R56). -/
structure FmtM where
  rd : BitVec 5
  rs1 : BitVec 5
  u : Bool
  size : BitVec 3
  off : BitVec 12
  deriving DecidableEq, Repr

/-- The operand fields of a format M word whose bit 15 or SIZE tells its row (R62, R74). -/
structure OpM where
  rd : BitVec 5
  rs1 : BitVec 5
  size : BitVec 3
  off : BitVec 12
  deriving DecidableEq, Repr

/-- The operand fields of a format M word whose SIZE tells its row (R74). -/
structure OpC where
  rd : BitVec 5
  rs1 : BitVec 5
  u : Bool
  off : BitVec 12
  deriving DecidableEq, Repr

/-- The operand fields of a format B word (R56). -/
structure FmtB where
  rs : BitVec 5
  h : BitVec 2
  off : BitVec 19
  deriving DecidableEq, Repr

/-- The operand fields of a format V word of a row with several VFUNC values (R56). -/
structure FmtV where
  vd : BitVec 5
  vs1 : BitVec 5
  vs2 : BitVec 5
  mask : BitVec 3
  vfunc : BitVec 8
  deriving DecidableEq, Repr

/-- The operand fields of a format V word whose VFUNC is its row's (R56). -/
structure OpV where
  vd : BitVec 5
  vs1 : BitVec 5
  vs2 : BitVec 5
  mask : BitVec 3
  deriving DecidableEq, Repr

/-- The operand fields of a format Q word (R56). -/
structure OpQ where
  rd : BitVec 5
  rq : BitVec 5
  rs : BitVec 5
  z : BitVec 7
  deriving DecidableEq, Repr

/-- The operand fields of a format S word (R56). -/
structure OpS where
  rd : BitVec 5
  rs1 : BitVec 5
  imm : BitVec 12
  deriving DecidableEq, Repr


/-- An error in an array of a core (R149), with the line key (line address / 64 × 2 + world) or the set and way concerned:
L1I parity; L1D data single-bit and double-bit; L1D tag parity; L2 data single-bit and double-bit (with its 8-byte granule);
L2 tag or state parity, clean and again on the re-read; a register file, reorder buffer, load queue or store buffer. -/
inductive CoreErr where
  | l1i (k : Nat)
  | l1dOne (k : Nat)
  | l1dTwo (k : Nat)
  | l1dTag (k : Nat)
  | l2One (k : Nat)
  | l2Two (k : Nat) (g : Fin 8)
  | l2TagOnce (k : Nat)
  | l2TagTwice (set : Fin 1024) (way : Fin 16)
  | regs
  deriving DecidableEq, Repr

/-- An error in an array of a slice (R174, R188): data of a line (by line key) single-bit and double-bit; tag or state parity of a
line in one copy, and of a set and way in both; scratchpad data single-bit and double-bit, by line of the window. -/
inductive SliceErr where
  | dataOne (k : Nat)
  | dataTwo (k : Nat)
  | tagOne (k : Nat)
  | tagTwo (set : Fin 3072) (way : Fin 16)
  | spadOne (u : Fin 24576)
  | spadTwo (u : Fin 24576)
  deriving DecidableEq, Repr

/-- Where a TLP from the link goes: an offset in a BAR of its function (endpoint mode; the standard's BAR decode has been done), or a
bus address (root mode). -/
inductive HostTgt where
  | bar (b off : Nat)
  | bus (addr : Nat)
  deriving DecidableEq, Repr

/-- Why the Crown restitches a unit (R443): wear, an uncorrected error of the unit, more than 4 L2 ways disabled, the RESTITCH
command. -/
inductive RestitchWhy where
  | wear | error | ways | command
  deriving DecidableEq, Repr

/-- How a mesh link's receiver finds a handshake (R248): good, with a corrected bit on a wire of a group, or uncorrectable. -/
inductive HsCheck where
  | good
  | corrected (group : Fin 16) (wire : Fin 46)
  | bad
  deriving DecidableEq, Repr

/-- An identity frame of a rein's partner (R261): its series (0 KVX-7100, 1 KVX-5400, else neither), whether its protocol version is
supported, its PKG_ID, die number and MASTER_SEL. -/
structure IdFrame where
  series : Nat
  proto : Bool
  pkg : Fin 4
  die : Fin 8
  master : Bool
  deriving DecidableEq, Repr

/-- The mailboxes (R425): the CRN mailbox of a die, the host mailbox in BAR0 of PF0, the MCTP endpoint, the JTAG mailbox. -/
inductive Mbx where
  | crn | host | mctp | jtag
  deriving DecidableEq, Repr

/-- The sources of Crown events, in the order of R417's table. -/
inductive CrownEvt where
  | mailbox | channel | i3c | jtag | timer
  deriving DecidableEq, Repr

/-- What an accepted board description says (R421, R462): the number of packages, REIN_WAIT in ms, whether the package runs the
die-local interleave, PORT.CFG of each physical port by its system-wide number, the region code table as (base, limit, light), and the
rail settings as (domain, mV). -/
structure BoardDesc where
  packages : Nat
  reinWait : Nat
  dieLocal : Bool
  ports : List (Nat × Word)
  codes : List (Nat × Nat × Bool)
  rails : List (Nat × Nat)
  deriving DecidableEq, Repr

/-- A message of the PLDM firmware update flow (R430) for the component of an image type: the update begins, a block of the image
arrives, the transfer ends, the image is verified, applied, and the update is cancelled. -/
inductive PldmFw where
  | update (typ : Fin 4)
  | data (b : List Byte)
  | transferComplete
  | verifyComplete
  | applyComplete
  | cancel
  deriving DecidableEq, Repr

/-- How the initial training of a populated port ends (R269, R271, R285): at a data rate per pin in Gb/s, whether its components are on
the qualified list, and the temperature captured; it fails, or does not match the other ports; its components do not answer. -/
inductive TrainRes where
  | trained (rate : Fin 64) (qual : Bool) (temp : BitVec 8)
  | failed
  | absent
  deriving DecidableEq, Repr

/-- How the loaded verify pass of an active port ends (R285): passed, after retries or without, a fallback to a lower rate, or the port
cannot train at 20 Gb/s. -/
inductive VerifyRes where
  | passed
  | fallback (rate : Fin 64)
  | failed
  deriving DecidableEq, Repr


/-- A register number of the Crown core, c0 to c15 (R413). -/
abbrev CReg := BitVec 4

/-- The members of the Crown's format C32I (R414). -/
inductive CrnImm where
  | addi | andi | ori | xori | slti | lui
  deriving DecidableEq, Repr

/-- The conditions of the Crown's format C32B (R414). -/
inductive CrnCond where
  | beq | bne | blt | bge | bltu | bgeu
  deriving DecidableEq, Repr

/-- The commands: one constructor for each row of the operation table, in its order. -/
inductive Instr where
  /-- `REGISTER_WRITE` (R13): A write to a device register that has no row of its own updates its writable fields together, as each field's access code gives. -/
  | registerWrite (D : Die) (off : BitVec 32) (v : Word) (by' : Who)
  /-- `PACE_CREDIT` (R37): Every 10 ns the pace governor credits its token bucket, up to the burst depth, and applies any new EFFECTIVE rate. -/
  | paceCredit (c : CoreId)
  /-- `ARBREC_OFF` (R45): A write of MODE 0b00 to MSH.ARBREC_CTL stops recording or replay. -/
  | arbrecOff (D : Die) (v : Word)
  /-- `ARBREC_RECORD` (R48): A write of MODE 0b01 starts arbitration recording if the debug enables permit it, and otherwise sets DENIED. -/
  | arbrecRecord (D : Die) (v : Word)
  /-- `ARBREC_REPLAY` (R48): A write of MODE 0b10 starts arbitration replay if both control enables are set, and otherwise sets DENIED. -/
  | arbrecReplay (D : Die) (v : Word)
  /-- `REPLAY_TIMEOUT` (R47): The recorded input does not request within REPLAY_TO: DIVERGED is set, MODE returns to off and an event is raised. -/
  | replayTimeout (D : Die)
  /-- `WEAR_MEASUREMENT` (R53): Every PERIOD milliseconds the wear monitor measures the normalised rate and may set WARN or REPLACE, record an error and start a restitch. -/
  | wearMeasurement (D : Die) (t : Fin 44) (slice : Bool) (rate island : BitVec 16)
  /-- `INT` (R58): An integer register-register operation of the INT group. -/
  | int (c : CoreId) (a : FmtA)
  /-- `MULDIV` (R59): A multiply, divide or remainder operation. -/
  | muldiv (c : CoreId) (a : FmtA)
  /-- `ADDI` (R58): ADDI or ADDIW with a sign-extended immediate. -/
  | addi (c : CoreId) (a : FmtI)
  /-- `LOGI` (R58): ANDI, ORI or XORI with a zero-extended immediate. -/
  | logi (c : CoreId) (a : FmtI)
  /-- `SHIFTI` (R58): A shift or rotate by an immediate amount. -/
  | shifti (c : CoreId) (a : FmtI)
  /-- `CMPI` (R58): A compare against an immediate. -/
  | cmpi (c : CoreId) (a : FmtI)
  /-- `ORHI` (R58): ORs a shifted 14-bit immediate into a register. -/
  | orhi (c : CoreId) (a : FmtI)
  /-- `FP` (R61): A scalar floating-point arithmetic operation of the FP group. -/
  | fp (c : CoreId) (a : FmtA)
  /-- `FMA` (R60): A scalar fused multiply-add with one rounding. -/
  | fma (c : CoreId) (a : FmtA)
  /-- `FCVT` (R60): A scalar conversion, raw move or classification. -/
  | fcvt (c : CoreId) (a : FmtA)
  /-- `FCMP` (R60): A scalar floating-point compare that writes 0 or 1. -/
  | fcmp (c : CoreId) (a : FmtA)
  /-- `LD` (R62): A scalar load, checked for translation, permission, address map and firewall. -/
  | ld (c : CoreId) (a : FmtM)
  /-- `ST` (R62): A scalar store that enters the store buffer. -/
  | st (c : CoreId) (a : FmtM)
  /-- `LDAQ` (R68): A load with acquire ordering. -/
  | ldaq (c : CoreId) (a : OpM)
  /-- `STREL` (R68): A store with release ordering. -/
  | strel (c : CoreId) (a : OpM)
  /-- `FLD` (R62): A floating-point load into an f register. -/
  | fld (c : CoreId) (a : OpM)
  /-- `FST` (R62): A floating-point store from an f register. -/
  | fst (c : CoreId) (a : OpM)
  /-- `AMO` (R72): An atomic read-modify-write, executed at the place that its placement field selects. -/
  | amo (c : CoreId) (a : FmtA)
  /-- `CMO_CLEAN` (R74): Writes any dirty copy of a line to memory and leaves the copies valid. -/
  | cmoClean (c : CoreId) (a : OpC)
  /-- `CMO_INV` (R74): Removes every copy of a line and discards dirty data, or flushes at PL0 and PL1. -/
  | cmoInv (c : CoreId) (a : OpC)
  /-- `CMO_FLUSH` (R74): Writes dirty data of a line to memory and removes every copy. -/
  | cmoFlush (c : CoreId) (a : OpC)
  /-- `CMO_RANGE` (R75): Performs a maintenance operation on every line of an address range, one page at a time. -/
  | cmoRange (c : CoreId) (a : FmtA)
  /-- `CMO_SW` (R76): Performs a maintenance operation on one set and way of a tile cache. -/
  | cmoSw (c : CoreId) (a : OpS)
  /-- `CONDITIONAL_BRANCH` (R77): BEQZ, BNEZ, BLTZ, BGEZ, BLEZ or BGTZ compares a register with zero and branches. -/
  | conditionalBranch (c : CoreId) (cond : Fin 6) (a : FmtB)
  /-- `JAL` (R78): Writes the link address and jumps to a PC-relative target. -/
  | jal (c : CoreId) (a : FmtB)
  /-- `JALR` (R78): Jumps to a register-relative target, or takes the misaligned exception. -/
  | jalr (c : CoreId) (a : FmtI)
  /-- `MISPREDICTION` (R135): A branch resolves against its prediction; younger work is cancelled, history restored and fetch redirected. -/
  | misprediction (c : CoreId)
  /-- `SYSCALL` (R80): Takes exception 0x14. -/
  | syscall (c : CoreId) (a : OpS)
  /-- `HVCALL` (R80): Takes exception 0x15. -/
  | hvcall (c : CoreId) (a : OpS)
  /-- `MONCALL` (R320): Takes exception 0x16 to secure PL3, or returns SVC_UNAVAILABLE at once for a service in the down list. -/
  | moncall (c : CoreId) (a : OpS)
  /-- `ERET` (R81): Returns from an exception by restoring PC and PSTATE. -/
  | eret (c : CoreId) (a : OpS)
  /-- `WFE` (R82): Waits for an event, a debug halt or 1 ms. -/
  | wfe (c : CoreId) (a : OpS)
  /-- `WFE_TIMEOUT` (R82): 1 ms on the time base ends a WFE. -/
  | wfeTimeout (c : CoreId)
  /-- `BRK` (R80): Takes the breakpoint exception. -/
  | brk (c : CoreId) (a : OpS)
  /-- `RDTIME` (R83): Reads TIM.NOW in order with older and younger instructions. -/
  | rdtime (c : CoreId) (a : OpS)
  /-- `FENCE_LD` (R68): Orders earlier loads before later accesses. -/
  | fenceLd (c : CoreId) (rd rs1 : BitVec 5)
  /-- `FENCE_ST` (R68): Orders earlier stores before later stores. -/
  | fenceSt (c : CoreId) (rd rs1 : BitVec 5)
  /-- `FENCE_FULL` (R68): Completes once every earlier operation has taken effect throughout the system. -/
  | fenceFull (c : CoreId) (rd rs1 : BitVec 5)
  /-- `FENCE_I` (R69): Discards fetched instructions so that later fetches see earlier stores. -/
  | fenceI (c : CoreId) (rd rs1 : BitVec 5)
  /-- `TLBI_VA` (R94): Removes the TLB entries for one page and ASID on every core. -/
  | tlbiVa (c : CoreId) (rd rs1 : BitVec 5)
  /-- `TLBI_ASID` (R94): Removes the non-global TLB entries of one ASID. -/
  | tlbiAsid (c : CoreId) (rd rs1 : BitVec 5)
  /-- `TLBI_ALL` (R94): Removes all TLB entries of level group PL0 and PL1. -/
  | tlbiAll (c : CoreId) (rd rs1 : BitVec 5)
  /-- `TLBI_IPA` (R94): Removes stage-2 and combined entries for one IPA page. -/
  | tlbiIpa (c : CoreId) (rd rs1 : BitVec 5)
  /-- `TLBI_S2ALL` (R94): Removes all stage-2 and combined TLB entries. -/
  | tlbiS2all (c : CoreId) (rd rs1 : BitVec 5)
  /-- `TLBI_HALL` (R94): Removes all TLB entries of level group PL2. -/
  | tlbiHall (c : CoreId) (rd rs1 : BitVec 5)
  /-- `TLBI_MALL` (R94): Removes all TLB entries of level group PL3. -/
  | tlbiMall (c : CoreId) (rd rs1 : BitVec 5)
  /-- `MFSR` (R86): Reads a system register, subject to its minimum level. -/
  | mfsr (c : CoreId) (a : OpS)
  /-- `MTSR` (R86): Writes a system register, subject to its minimum level. -/
  | mtsr (c : CoreId) (a : OpS)
  /-- `TAKE_EVENT` (R354): At an instruction boundary the core takes the first eligible pending event. -/
  | takeEvent (c : CoreId)
  /-- `VCONF` (R98): Writes VCFG, sets VL from AVL or VLMAX and returns VL. -/
  | vconf (c : CoreId) (a : OpV)
  /-- `VEC0_INTEGER` (R106): A vector integer element operation of group VEC0. -/
  | vec0Integer (c : CoreId) (a : FmtV)
  /-- `VMERGE` (R106): Selects vs2 or vs1 for each element by mask. -/
  | vmerge (c : CoreId) (form : BitVec 2) (a : OpV)
  /-- `VEC1_FLOATING_POINT` (R107): A vector floating-point element operation of group VEC1. -/
  | vec1FloatingPoint (c : CoreId) (a : FmtV)
  /-- `VEC2_WIDEN_NARROW` (R108): A vector widening or narrowing integer operation. -/
  | vec2WidenNarrow (c : CoreId) (a : FmtV)
  /-- `VEC2_CONVERT` (R103): A vector type conversion, with SAT for 8-bit destinations. -/
  | vec2Convert (c : CoreId) (a : FmtV)
  /-- `VDOT` (R109): A dot-product accumulation into binary32 or 32-bit integer lanes. -/
  | vdot (c : CoreId) (a : FmtV)
  /-- `REDUCTION` (R110): A vector reduction that writes element 0 of vd. -/
  | reduction (c : CoreId) (a : FmtV)
  /-- `VSLIDEUP` (R111): Slides elements up by OFF. -/
  | vslideup (c : CoreId) (form : BitVec 2) (a : OpV)
  /-- `VSLIDEDOWN` (R111): Slides elements down by OFF, with zero fill. -/
  | vslidedown (c : CoreId) (form : BitVec 2) (a : OpV)
  /-- `VPERMX` (R111): Permutes elements by an index vector. -/
  | vpermx (c : CoreId) (a : OpV)
  /-- `VCOMPRESS` (R111): Packs the active elements to the bottom of vd. -/
  | vcompress (c : CoreId) (a : OpV)
  /-- `VECTOR_COMPARE` (R112): Compares elements and writes mask bits. -/
  | vectorCompare (c : CoreId) (a : FmtV)
  /-- `MASK_MEMBERS` (R112): KAND, KOR, KXOR, KANDN or KNOT combines mask registers. -/
  | maskMembers (c : CoreId) (a : FmtV)
  /-- `KPOPC` (R112): Writes the count of set mask bits to a general register. -/
  | kpopc (c : CoreId) (a : OpV)
  /-- `KFIRST` (R112): Writes the index of the lowest set mask bit, or −1. -/
  | kfirst (c : CoreId) (a : OpV)
  /-- `VMV_G_S` (R113): Moves element 0 to a general register. -/
  | vmvGS (c : CoreId) (a : OpV)
  /-- `VMV_S_G` (R113): Moves a general register to element 0. -/
  | vmvSG (c : CoreId) (a : OpV)
  /-- `VFMV_F_S` (R113): Moves element 0 to an f register. -/
  | vfmvFS (c : CoreId) (a : OpV)
  /-- `VFMV_S_F` (R113): Moves an f register to element 0. -/
  | vfmvSF (c : CoreId) (a : OpV)
  /-- `VID` (R113): Writes each active element's index. -/
  | vid (c : CoreId) (a : OpV)
  /-- `VLD` (R115): A unit-stride vector element load. -/
  | vld (c : CoreId) (a : OpV)
  /-- `VLD_STRIDED` (R115): A strided vector load. -/
  | vldStrided (c : CoreId) (a : OpV)
  /-- `VLD_R` (R120): Loads one whole vector register. -/
  | vldR (c : CoreId) (a : OpV)
  /-- `VLDK` (R120): Loads one mask register. -/
  | vldk (c : CoreId) (a : OpV)
  /-- `VLDX` (R121): An indexed gather, served in the core or at homes in packets. -/
  | vldx (c : CoreId) (scale : BitVec 2) (a : OpV)
  /-- `VLDX_FF` (R118): An indexed gather that shortens VL at a later-element fault. -/
  | vldxFf (c : CoreId) (scale : BitVec 2) (a : OpV)
  /-- `VST` (R115): A unit-stride vector store. -/
  | vst (c : CoreId) (a : OpV)
  /-- `VST_STRIDED` (R115): A strided vector store. -/
  | vstStrided (c : CoreId) (a : OpV)
  /-- `VST_R` (R120): Stores one whole vector register. -/
  | vstR (c : CoreId) (a : OpV)
  /-- `VSTK` (R120): Stores one mask register. -/
  | vstk (c : CoreId) (a : OpV)
  /-- `VSTX` (R124): An indexed scatter, performed in element order. -/
  | vstx (c : CoreId) (scale : BitVec 2) (a : OpV)
  /-- `VSTX_ADD` (R125): A scatter reduction that adds at the home. -/
  | vstxAdd (c : CoreId) (scale ty : BitVec 2) (a : OpV)
  /-- `VSTX_MIN` (R125): A scatter reduction that takes the minimum at the home. -/
  | vstxMin (c : CoreId) (scale ty : BitVec 2) (a : OpV)
  /-- `VSTX_MAX` (R125): A scatter reduction that takes the maximum at the home. -/
  | vstxMax (c : CoreId) (scale ty : BitVec 2) (a : OpV)
  /-- `STORE_BUFFER_DRAIN` (R142): A retired store entry leaves the store buffer to L2 once the line is held in M or E. -/
  | storeBufferDrain (c : CoreId) (i : Fin 128)
  /-- `BPCTL_FLUSH` (R138): A write of 1 to CORE.BPCTL.FLUSH flushes the predictor tables. -/
  | bpctlFlush (c : CoreId) (rs1 : BitVec 5)
  /-- `CORE_ARRAY_ERROR` (R149): An error is found in a core array and is handled, recorded and counted by array and class. -/
  | coreArrayError (c : CoreId) (e : CoreErr)
  /-- `BIND` (R157): A write of BIND = 1 requests binding of a checked pair, or is refused with a reason. -/
  | bind (D : Die) (t : Fin 44) (partner : BitVec 6)
  /-- `UNBIND` (R157): A write of BIND = 0 unbinds a stopped pair. -/
  | unbind (D : Die) (t : Fin 44)
  /-- `PAIR_SIGNATURE_COMPARE` (R155): The signatures of a retired group of a pair are compared, and the group's stores are released. -/
  | pairSignatureCompare (c : CoreId) (equal : Bool)
  /-- `LLOCK` (R177): Locks a line in its home slice and records the outcome in SYS.LLSTAT. -/
  | llock (c : CoreId) (rs1 : BitVec 5)
  /-- `LUNLOCK` (R177): Releases the lock on a line. -/
  | lunlock (c : CoreId) (rs1 : BitVec 5)
  /-- `SPAD_CTL_WRITE` (R173): A write of SLICE.SPAD_CTL starts a conversion, lowers the scratchpad count, or is ignored while busy. -/
  | spadCtlWrite (g : SliceId) (v : Word)
  /-- `SCRATCHPAD_CONVERSION` (R172): A conversion of ways to scratchpad finishes and SPAD_BUSY clears. -/
  | scratchpadConversion (g : SliceId)
  /-- `CLR` (R180): Releases every lock owned by CLR_PART in the slice. -/
  | clr (g : SliceId) (v : Word)
  /-- `CLR_ALL` (R180): Releases every lock in the slice. -/
  | clrAll (g : SliceId) (v : Word)
  /-- `MAINT_CLEAN` (R183): SLICE.MAINT GO with OP clean starts cleaning every cacheable line. -/
  | maintClean (g : SliceId)
  /-- `MAINT_FLUSH` (R183): SLICE.MAINT GO with OP flush starts flushing every unlocked line. -/
  | maintFlush (g : SliceId)
  /-- `MAINT_COMPLETE` (R183): A slice maintenance walk reaches its last set and BUSY clears. -/
  | maintComplete (g : SliceId)
  /-- `SLICE_ARRAY_ERROR` (R188): An error is found in a slice array and is handled by array and class. -/
  | sliceArrayError (g : SliceId) (e : SliceErr)
  /-- `RDSHARED` (R205): A read for a copy reaches its home and is served as the directory state gives. -/
  | rdshared (m : Msg)
  /-- `RDUNIQUE` (R205): A read for ownership reaches its home. -/
  | rdunique (m : Msg)
  /-- `UPGRADE` (R205): A request for ownership without data reaches the home. -/
  | upgrade (m : Msg)
  /-- `RDONCE` (R205): A read of a current value with no copy kept. -/
  | rdonce (m : Msg)
  /-- `WRFULL` (R205): A whole-line write at the home. -/
  | wrfull (m : Msg)
  /-- `WRPARTIAL` (R200): A byte-enabled partial write at the home. -/
  | wrpartial (m : Msg)
  /-- `ATOMICHOME` (R217): An atomic applied by the home's atomic unit. -/
  | atomichome (m : Msg)
  /-- `ATOMICMEM` (R280): An atomic applied by the memory port's atomic unit. -/
  | atomicmem (m : Msg)
  /-- `GATHER` (R217): A packet of up to 16 element reads served element by element at the home. -/
  | gather (m : Msg)
  /-- `SCATTER` (R124): A packet of up to 16 element writes at the home. -/
  | scatter (m : Msg)
  /-- `SCATTERRED` (R125): A packet of scatter-reduction elements at the home. -/
  | scatterred (m : Msg)
  /-- `CMOCLEAN` (R485): The home cleans one line with SnpClean and writes it to memory. -/
  | cmocleanMsg (m : Msg)
  /-- `CMOINV` (R485): The home invalidates every copy of a line and frees the entry. -/
  | cmoinvMsg (m : Msg)
  /-- `CMOFLUSH` (R485): The home recalls a line, writes dirty data to memory and frees the entry. -/
  | cmoflushMsg (m : Msg)
  /-- `LOCK` (R177): The home processes an LLOCK request. -/
  | lock (m : Msg)
  /-- `UNLOCK` (R177): The home processes an LUNLOCK request. -/
  | unlock (m : Msg)
  /-- `WBDIRTY` (R207): A dirty eviction reaches the home, sets WBP and is absorbed. -/
  | wbdirty (m : Msg)
  /-- `EVICTCLEAN` (R207): A clean eviction notice reaches the home. -/
  | evictclean (m : Msg)
  /-- `KEEPEREVICT` (R195): A keeper reports an evicted entry, and the home clears the PKG bit. -/
  | keeperevict (m : Msg)
  /-- `SNPSHARED` (R205): A holder supplies data and keeps a copy. -/
  | snpshared (m : Msg)
  /-- `SNPUNIQUE` (R205): A holder supplies dirty data and invalidates. -/
  | snpunique (m : Msg)
  /-- `SNPINV` (R205): A holder invalidates without supplying data. -/
  | snpinv (m : Msg)
  /-- `SNPPEEK` (R217): A holder supplies data and changes no state. -/
  | snppeek (m : Msg)
  /-- `SNPCLEAN` (R485): A holder returns dirty data; M becomes E and O becomes S. -/
  | snpclean (m : Msg)
  /-- `RECALL` (R195): A holder returns dirty data to the home and invalidates. -/
  | recall (m : Msg)
  /-- `DWELL_END` (R210): The ownership dwell runs out, and held snoops for the line are answered. -/
  | dwellEnd (c : CoreId) (k : Nat)
  /-- `COMPACK` (R203): A requester's acknowledgement closes the transaction and unblocks the line. -/
  | compack (m : Msg)
  /-- `WBACK` (R207): The home's acknowledgement frees the core's victim buffer entry. -/
  | wback (m : Msg)
  /-- `SNPRESP` (R213): A snoop result reaches the home or keeper. -/
  | snpresp (m : Msg)
  /-- `COMP` (R219): A completion of a write, maintenance or lock reaches the requester. -/
  | comp (m : Msg)
  /-- `GRANT` (R209): Ownership without data reaches the requester and starts a dwell. -/
  | grant (m : Msg)
  /-- `DEFER` (R211): In compatibility mode a refused request is held at the requester on a reserved credit. -/
  | defer (m : Msg)
  /-- `RESUME` (R211): The requester sends its deferred request again with the same TXN. -/
  | resume (m : Msg)
  /-- `DATA` (R144): Line data with its granted state is filled into L2 and L1D. -/
  | data (m : Msg)
  /-- `SNPDATA` (R205): Line data from a snooped holder reaches the requester or home. -/
  | snpdata (m : Msg)
  /-- `WBDATA` (R207): The data of a write-back or recall reaches the home. -/
  | wbdata (m : Msg)
  /-- `RESPDATA` (R200): Old atomic values or packed gather elements reach the requester. -/
  | respdata (m : Msg)
  /-- `UNRECOGNISED_MESSAGE` (R201): A message with an unlisted opcode is dropped, and a corrected error is recorded. -/
  | unrecognisedMessage (a : Agent)
  /-- `DIRECTORY_ERROR` (R197): A directory or keeper entry error is corrected, or the line is rebuilt by broadcast recall. -/
  | directoryError (g : SliceId) (k : Nat) (double : Bool)
  /-- `CREATE` (R227): The queue command CREATE writes a descriptor from the image, or gives an outcome code. -/
  | create (c : CoreId) (rs1 : BitVec 5)
  /-- `DESTROY` (R227): The queue command DESTROY invalidates a queue and discards its windows and entries. -/
  | destroy (c : CoreId) (rs1 : BitVec 5)
  /-- `QPUSH` (R232): Pushes one 64-byte entry into the tail window. -/
  | qpush (c : CoreId) (a : OpQ)
  /-- `QPUSH_W` (R236): Pushes one 8-byte word to a packed queue. -/
  | qpushW (c : CoreId) (a : OpQ)
  /-- `QPOP` (R232): Pops the head entry, or waits. -/
  | qpop (c : CoreId) (a : OpQ)
  /-- `QPOP_NB` (R232): Pops the head entry if one can be delivered now, and otherwise returns a status. -/
  | qpopNb (c : CoreId) (a : OpQ)
  /-- `QOPEN` (R233): Pushes a packet header and opens the producer's packet. -/
  | qopen (c : CoreId) (a : OpQ)
  /-- `QCLOSE` (R233): Writes the packet length and closes the packet. -/
  | qclose (c : CoreId) (a : OpQ)
  /-- `QDROP` (R235): Discards the rest of the queue's current packet. -/
  | qdrop (c : CoreId) (a : OpQ)
  /-- `QSTAT` (R237): Returns the queue status word. -/
  | qstat (c : CoreId) (a : OpQ)
  /-- `WAITING_QPUSH_COMPLETE` (R232): A QPUSH that waited on a full tail window completes when room appears. -/
  | waitingQpushComplete (c : CoreId)
  /-- `WAITING_QPOP_COMPLETE` (R232): A waiting QPOP completes when an entry it can deliver reaches the head. -/
  | waitingQpopComplete (c : CoreId)
  /-- `ENTRY_ACCEPTANCE` (R231): The head engine accepts an entry from a tail window into its head window or ring. -/
  | entryAcceptance (q : BitVec 18) (stop : Fin 6000)
  /-- `RING_REFILL` (R230): A ring read returns, and the entry refills the head window in order. -/
  | ringRefill (q : BitVec 18)
  /-- `PACK_WAIT_RELEASE` (R236): PACK_WAIT expires, and the packer releases its partial entry. -/
  | packWaitRelease (q : BitVec 18)
  /-- `OPEN_TO_TIMEOUT` (R234): An open packet reaches OPEN_TO and is closed with TIMEOUT. -/
  | openToTimeout (q : BitVec 18)
  /-- `HANDSHAKE` (R248): One message crosses a mesh link, with SECDED checking. -/
  | handshake (D : Die) (i : Fin 194) (c : HsCheck)
  /-- `SPARE_WIRE_SWITCH` (R249): The Crown switches a group's spare wire into service and resumes the link. -/
  | spareWireSwitch (D : Die) (i : Fin 194) (group : Fin 16) (found : Bool)
  /-- `BWRES_WRITE` (R252): A write of MSH.BWRES is performed, or refused when the total would exceed 60. -/
  | bwresWrite (D : Die) (p : BitVec 6) (v : Word)
  /-- `BRIDGE_FRAME` (R256): A 256-byte bridge frame is received, checked and delivered in sequence. -/
  | bridgeFrame (D : Die) (b : Fin 3) (seq : Nat) (ok : Bool) (ms : List Msg)
  /-- `NEGATIVE_ACKNOWLEDGEMENT` (R256): A NAK makes the transmitter replay from the named frame. -/
  | negativeAcknowledgement (D : Die) (b : Fin 3) (m : Fin 2) (seq : Nat)
  /-- `MODULE_RETRAIN` (R257): A bridge module finishes retraining with lane repair, or is taken out of service. -/
  | moduleRetrain (D : Die) (b : Fin 3) (m : Fin 2) (lanes : Nat) (low ok : Bool)
  /-- `MARGIN_CHECK` (R257): The periodic margin check of a bridge module runs. -/
  | marginCheck (D : Die) (b : Fin 3) (m : Fin 2) (pass : Bool)
  /-- `REROUTE` (R259): After a bridge goes down, the Crown pauses injection toward the changed routes. -/
  | reroute (D : Die) (b : Fin 3)
  /-- `REROUTE_DRAIN_COMPLETE` (R259): The old routes empty, new tables are written and injection resumes. -/
  | rerouteDrainComplete (p : Pkg)
  /-- `IDENTITY_FRAME` (R261): A rein identity frame is received and the rein is activated, made spare or refused. -/
  | identityFrame (D : Die) (f : IdFrame)
  /-- `REIN_RECOVERY` (R263): A rein finishes recovery and retraining. -/
  | reinRecovery (D : Die) (ok x8 low : Bool)
  /-- `SPARE_REIN_REPLACEMENT` (R263): A failed rein is replaced by its spare with keeper copy and resend. -/
  | spareReinReplacement (D : Die)
  /-- `HEARTBEAT` (R265): Every 100 µs the package Crown sends its heartbeat. -/
  | heartbeat (p : Pkg)
  /-- `HEARTBEAT_TIMEOUT` (R265): No heartbeat arrives for MSH.SUCC.TIMEOUT, and the Crown claims the package Crown role. -/
  | heartbeatTimeout (D : Die)
  /-- `CLAIM` (R265): A succession claim (E, k) reaches a die and is accepted or ignored. -/
  | claim (D : Die) (e : BitVec 16) (k : Fin 8)
  /-- `MEMORY_REQUEST` (R276): A memory port accepts a request into a slot, or holds it. -/
  | memoryRequest (src : Agent) (tag : Nat) (op : MemOp) (pa : Nat) (who : Who) (qos : BitVec 4)
  /-- `COMMAND_ISSUE` (R278): The port issues the next command on a channel by urgency, age and row state. -/
  | commandIssue (k : PortId) (chan : Fin 4)
  /-- `RD_WINDOW_CLEAR` (R281): Every WINDOW ms all activation counts and candidates are cleared. -/
  | rdWindowClear (k : PortId)
  /-- `THROTTLE_END` (R282): A throttle's THR_TIME runs out. -/
  | throttleEnd (k : PortId)
  /-- `PER_BANK_REFRESH` (R284): A port issues per-bank refresh at the required interval. -/
  | perBankRefresh (k : PortId) (chan : Fin 4) (bank : Fin 16)
  /-- `CONDITION_RETRAIN` (R286): The VIN current or temperature leaves its window, and the port retrains. -/
  | conditionRetrain (k : PortId) (cur : BitVec 16) (temp : BitVec 8)
  /-- `DRIFT_TRACKING` (R286): Every PERIOD ms the port tracks drift on one channel. -/
  | driftTracking (k : PortId) (chan : Fin 4)
  /-- `ROW_REMAP` (R289): A row is copied to a spare row and its remap entry set, or REMAP_FULL is raised. -/
  | rowRemap (k : PortId) (chan : Fin 4) (bank : Fin 16) (row : BitVec 16)
  /-- `SPARE_PORT_TAKEOVER` (R290): The Crown starts mirroring and a background copy of a port to the spare. -/
  | sparePortTakeover (D : Die) (n : Fin 6)
  /-- `TAKEOVER_SWITCH` (R290): After the copy, injection pauses, slots drain and the spare becomes the logical port. -/
  | takeoverSwitch (D : Die) (n : Fin 6)
  /-- `PORT_FAILURE` (R292): A port fails without copy; reads return poison and a spare is switched in if free. -/
  | portFailure (k : PortId)
  /-- `MASK_WRITE` (R275): A write of a channel or bank mask is performed, or refused with MASK_REFUSED. -/
  | maskWrite (D : Die) (n : Fin 7) (i : Fin 6) (v : Word)
  /-- `RESV_WRITE` (R279): A write of PORT.RESV is performed, or refused when the totals would be exceeded. -/
  | resvWrite (D : Die) (n : Fin 7) (m : Fin 4) (v : Word)
  /-- `LOCK_MEMMAP` (R272): A write of MSH.MEMMAP.LOCK locks the memory map until package reset. -/
  | lockMemmap (D : Die)
  /-- `REPAIR_REWRITE` (R303): A queued repair rewrite holds the line, rewrites it corrected and marks the entry REWRITTEN. -/
  | repairRewrite (k : PortId) (dd : Nat)
  /-- `PATROL_SCRUB` (R306): At even spacing the port scrubs the next data line. -/
  | patrolScrub (k : PortId)
  /-- `CHECK_CACHE_ERROR` (R299): A check-cache error is corrected, re-read, or poisons its data lines. -/
  | checkCacheError (k : PortId) (cl : Nat) (double : Bool)
  /-- `CONVERSION_GROUP` (R309): A port converts or skips one check group and advances its fence. -/
  | conversionGroup (k : PortId)
  /-- `CONVERSION_COMPLETE` (R309): Every port has walked, and the Crown writes the new CODE and clears BUSY. -/
  | conversionComplete (p : Pkg)
  /-- `SERVICE_TIMER_EXPIRY` (R318): The service timer reaches TIMEOUT, sets EXPIRED and the expiry event is taken at PL3. -/
  | serviceTimerExpiry (c : CoreId)
  /-- `FORCED_EXIT` (R319): GRACE ends with NS still 0, and the core restores the normal world. -/
  | forcedExit (c : CoreId)
  /-- `BUILD_S` (R335): A partition command that makes a FREE partition BUILDING in the secure world. -/
  | buildS (p : BitVec 6)
  /-- `BUILD_NS` (R335): A partition command that makes a FREE partition BUILDING in the normal world. -/
  | buildNs (p : BitVec 6)
  /-- `OPEN` (R335): A partition command that makes a BUILDING partition OPEN. -/
  | partOpen (p : BitVec 6)
  /-- `SEAL` (R336): A partition command that locks fields, runs the seal checks and seals the partition. -/
  | partSeal (p : BitVec 6)
  /-- `TEARDOWN` (R339): A partition command that destroys queues, releases locks, flushes slices and unlocks the fields. -/
  | partTeardown (p : BitVec 6)
  /-- `FREE` (R335): A partition command that frees a torn-down partition that nothing names. -/
  | partFree (p : BitVec 6)
  /-- `FIREWALL_WRITE` (R327): A write to a firewall region applies to every copy in one order and sets PENDING. -/
  | firewallWrite (D : Die) (f : Fin 45) (r : Fin 32) (which : Fin 3) (v : Word)
  /-- `FIREWALL_WRITE_APPLIED` (R327): Every copy has applied the write and old accesses have completed; PENDING clears. -/
  | firewallWriteApplied (p : Pkg)
  /-- `CIF_TAKE` (R355): A read takes the best eligible event and sets the running priority. -/
  | cifTake (c : CoreId) (ns : Bool)
  /-- `CIF_FINISH` (R355): A write ends the most recent active event, or sets FINISH_ERR. -/
  | cifFinish (c : CoreId) (ns : Bool) (v : Word)
  /-- `CIF_RAISE` (R350): A write raises a software event, or is refused. -/
  | cifRaise (c : CoreId) (ns : Bool) (v : Word)
  /-- `CIF_TCMP_WRITE` (R355): A write of EVC.CIF_TCMP sets the compare value and re-arms the comparator. -/
  | cifTcmpWrite (c : CoreId) (ns : Bool) (v : Word)
  /-- `TIMER_COMPARATOR` (R355): TIM.NOW reaches CIF_TCMP with TEN set, and the timer event is raised. -/
  | timerComparator (c : CoreId) (ns : Bool)
  /-- `EVENT_ARRIVAL` (R349): A raised event reaches its controller, becomes pending or merges, and is presented. -/
  | eventArrival (D : Die) (n : Fin 511)
  /-- `ROUTE_WRITE` (R352): A write of EVC.ROUTE redirects the event, including a pending one. -/
  | routeWrite (D : Die) (n : Fin 511) (v : Word)
  /-- `TIMESTAMP_EXCHANGE` (R357): Every 1 ms a follower exchanges timestamps with its leader and slews. -/
  | timestampExchange (D : Die)
  /-- `ALIGNMENT_LOST` (R357): A follower's error exceeds the bound or its path fails; it clears SYNCED and raises 504. -/
  | alignmentLost (D : Die)
  /-- `PPS_EDGE` (R358): A rising PPS edge captures TIM.NOW and raises 503. -/
  | ppsEdge
  /-- `PPS_LOSS` (R358): No PPS edge arrives within 1.1 s; PPS_LOCKED clears and 502 is raised. -/
  | ppsLoss
  /-- `ADJ_WRITE` (R358): A write of TIM.ADJ applies a phase slew and a frequency addition. -/
  | adjWrite (D : Die) (v : Word)
  /-- `INCR_WRITE` (R360): A write of TIM.REF_CFG.INCR rescales the count at the next edge. -/
  | incrWrite (D : Die) (v : Word)
  /-- `REFERENCE_STOP` (R359): The reference domain stops counting, and RTC32K counts the gap. -/
  | referenceStop (p : Pkg)
  /-- `REFERENCE_RESUME` (R359): On resume TIM.NOW advances by the gap, with the uncertainty recorded and 505 raised. -/
  | referenceResume (p : Pkg) (ticks : Nat)
  /-- `SUPPLY_SAMPLE` (R363): Every 10 µs VIN, current and VSB are sampled; three bad samples set VIN_OOR. -/
  | supplySample (p : Pkg) (vin iin vsb : Nat)
  /-- `DOMAIN_ON` (R366): A secure-side write of REQ on to PWR.DOM_CTL requests a domain on. -/
  | domainOn (D : Die) (i : Fin 101)
  /-- `DOMAIN_RETENTION` (R366): A secure-side request for retention is checked and started. -/
  | domainRetention (D : Die) (i : Fin 101)
  /-- `DOMAIN_OFF` (R366): A secure-side request for off is checked and started. -/
  | domainOff (D : Die) (i : Fin 101)
  /-- `SECURE_HOLD` (R369): Setting SECURE_HOLD protects a domain and may cancel a normal-side transition. -/
  | secureHold (D : Die) (i : Fin 101)
  /-- `VOLT_WRITE` (R375): A write of VOLT sets a domain voltage, or gives ORDER. -/
  | voltWrite (D : Die) (i : Fin 101) (mv : BitVec 12)
  /-- `NS_DOMREQ` (R366): A normal-side power request is checked and started. -/
  | nsDomreq (D : Die) (i : BitVec 7) (req : BitVec 2)
  /-- `DOMAIN_TRANSITION_END` (R371): A domain transition ends; a held request is applied and the wake is recorded. -/
  | domainTransitionEnd (D : Die) (i : Fin 101) (vlow : Nat) (lost : List Nat)
  /-- `GOVERNOR_STEP` (R381): Every 100 µs the package governor computes and writes the common cap. -/
  | governorStep (p : Pkg) (w : Nat) (hi : Nat)
  /-- `FAST_CLAMP` (R382): VIN current exceeds ICC_MAX, and every PKG_CAP is set to 64. -/
  | fastClamp (p : Pkg) (amps : Nat)
  /-- `THERMAL_SAMPLE` (R383): Junction sensors are sampled, raising 480 or 481 on threshold crossings. -/
  | thermalSample (D : Die) (sensor t : BitVec 8)
  /-- `THERMAL_TRIP` (R481): A sensor reads 115 °C; THERMTRIP_N asserts and Reserve mode is entered. -/
  | thermalTrip (D : Die) (sensor : BitVec 8)
  /-- `PHASE_FAILURE` (R362): A regulator phase fails its check and a spare phase is switched in. -/
  | phaseFailure (D : Die) (ph : Fin 36)
  /-- `RUN` (R378): A RUN command resumes or starts a core. -/
  | run (c : CoreId) (w : Who)
  /-- `STOP` (R378): A STOP command stops a core and keeps its state. -/
  | stop (c : CoreId) (wakeEv : Bool) (w : Who)
  /-- `STOP_RELEASE` (R378): A STOP_RELEASE command stops a core and discards its state. -/
  | stopRelease (c : CoreId) (w : Who)
  /-- `INBOUND_MEMORY_READ` (R391): An inbound memory read is translated through a window and served. -/
  | inboundMemoryRead (D : Die) (f : Fin 66) (tgt : HostTgt) (len : Fin 4097) (tag : Nat)
  /-- `INBOUND_MEMORY_WRITE` (R391): An inbound posted write is translated and written at its home. -/
  | inboundMemoryWrite (D : Die) (f : Fin 66) (tgt : HostTgt) (data : List (Option Byte)) (ep : Bool)
  /-- `CONFIGURATION_REQUEST` (R407): A configuration read or write is served, or answered with retry status. -/
  | configurationRequest (D : Die) (f : Fin 66) (dw : Fin 1024) (w : Option (BitVec 32 × BitVec 4)) (tag : Nat)
  /-- `DOORBELL_WRITE` (R393): A doorbell write is turned into queue pushes by FORM, or discarded. -/
  | doorbellWrite (D : Die) (f : Fin 66) (n : Fin 256) (off : Fin 4096) (data : List (Option Byte))
  /-- `DOORBELL_RELEASE` (R30): Earlier posted writes complete, and the doorbell entry is released to the queue. -/
  | doorbellRelease (D : Die)
  /-- `DOORBELL_TIMEOUT` (R394): A doorbell that waits for DB_TO is discarded. -/
  | doorbellTimeout (D : Die)
  /-- `COMPLETION_RECEIVED` (R396): A completion for an outbound or DMA read is received and its data written or returned. -/
  | completionReceived (D : Die) (tag : Nat) (st : Fin 8) (ep : Bool) (data : List Byte)
  /-- `COMPLETION_TIMEOUT` (R386): An outstanding non-posted request reaches its completion timeout. -/
  | completionTimeout (D : Die) (tag : Nat)
  /-- `BME_CLEAR` (R400): The host clears Bus Master Enable; the function quiesces and its channels halt. -/
  | bmeClear (D : Die) (f : Fin 66)
  /-- `QUIESCE_END` (R400): The last outstanding request completes or times out, and QUIESCING clears. -/
  | quiesceEnd (D : Die) (f : Fin 66)
  /-- `ENABLE_SET` (R402): Bus Master, Memory Space or VF Enable is set, possibly during a shut-down. -/
  | enableSet (D : Die) (f : Fin 66) (which : Fin 3)
  /-- `FLR` (R401): A configuration write starts Function Level Reset. -/
  | flr (D : Die) (f : Fin 66)
  /-- `FLR_COMPLETE` (R401): FLR finishes: configuration space is reset, FLR_BUSY clears and 423 is raised. -/
  | flrComplete (D : Die) (f : Fin 66)
  /-- `PERST_N_ASSERT` (R406): PERST_N asserted resets the link and functions and halts channels. -/
  | perstNAssert (D : Die)
  /-- `PERST_N_DEASSERT` (R467): PERST_N deasserted starts link training. -/
  | perstNDeassert (D : Die)
  /-- `LINK_UP` (R409): The high-speed port link comes up. -/
  | linkUp (D : Die) (w : Fin 17) (rate : Fin 7) (flit : Bool)
  /-- `LINK_DOWN` (R409): The high-speed port link goes down. -/
  | linkDown (D : Die)
  /-- `D_STATE_CHANGE` (R403): A function enters D3hot or returns to D0; its channels pause or resume. -/
  | dStateChange (D : Die) (f : Fin 66) (d3 : Bool)
  /-- `PME_TURN_OFF` (R404): The host sends PME_Turn_Off, and the port answers PME_TO_Ack. -/
  | pmeTurnOff (D : Die)
  /-- `PME_REQ` (R403): Device software requests a PME message or WAKE_N. -/
  | pmeReq (D : Die) (f : Fin 66)
  /-- `GO` (R392): A write of HSP.WIN_COMMIT.GO commits the shadow window set, or holds the commit. -/
  | go (D : Die)
  /-- `WIN_COMMIT_COMPLETE` (R392): Old-set requests complete and PENDING clears. -/
  | winCommitComplete (D : Die)
  /-- `DMA_DESCRIPTOR_POP` (R395): A channel pops its next descriptor, or completes it at once with BAD_DESC. -/
  | dmaDescriptorPop (D : Die) (ch : Fin 16)
  /-- `DMA_READ` (R396): A READ descriptor moves host data into device memory. -/
  | dmaRead (D : Die) (ch : Fin 16)
  /-- `DMA_WRITE` (R396): A WRITE descriptor moves device data to the host. -/
  | dmaWrite (D : Die) (ch : Fin 16)
  /-- `DMA_COMPLETION_PUSH` (R396): The completion entry is pushed and any MSI-X sent. -/
  | dmaCompletionPush (D : Die) (ch : Fin 16)
  /-- `DMA_RESUME` (R400): RESUME runs the halted descriptor again from its start. -/
  | dmaResume (D : Die) (ch : Fin 16)
  /-- `ABORT` (R400): ABORT completes the halted descriptor and returns the channel to IDLE. -/
  | abort (D : Die) (ch : Fin 16)
  /-- `FN_MSIX_SEND` (R398): Requests one MSI-X, sent after earlier posted requests. -/
  | fnMsixSend (D : Die) (f : Fin 66) (vec : BitVec 9)
  /-- `MESSAGE_SIGNALLED_INTERRUPT` (R408): A downstream write to the capture page raises a virtual event, or event 437. -/
  | messageSignalledInterrupt (D : Die) (v : BitVec 32)
  /-- `VIRTUAL_EVENT` (R351): A message becomes pending as a virtual event after earlier writes complete. -/
  | virtualEvent (c : CoreId) (ns : Bool) (v : BitVec 8)
  /-- `ERROR_MESSAGE_RECEIVED` (R408): Root mode receives ERR_COR, ERR_NONFATAL or ERR_FATAL. -/
  | errorMessageReceived (D : Die) (sev : Fin 3)
  /-- `PME_MESSAGE_RECEIVED` (R408): Root mode receives a PME message and raises 438. -/
  | pmeMessageReceived (D : Die)
  /-- `ROOT_RST_WRITE` (R469): A write of HSP.ROOT_RST.ASSERT drives or releases downstream PERST_N. -/
  | rootRstWrite (D : Die) (a : Bool)
  /-- `C16R_ALU` (R414): A 16-bit Crown register operation such as C.MV or C.ADD. -/
  | c16rAlu (D : Die) (func : BitVec 3) (rd rs : CReg)
  /-- `C_ADDI` (R414): Crown 16-bit add-immediate. -/
  | cAddi (D : Die) (rd : CReg) (imm : BitVec 7)
  /-- `C_LI` (R414): Crown 16-bit load-immediate. -/
  | cLi (D : Die) (rd : CReg) (imm : BitVec 7)
  /-- `C_LW` (R414): Crown stack-relative load. -/
  | cLw (D : Die) (rd : CReg) (imm : BitVec 7)
  /-- `C_SW` (R414): Crown stack-relative store. -/
  | cSw (D : Die) (rs : CReg) (imm : BitVec 7)
  /-- `C_BEQZ` (R415): Crown 16-bit branch if zero, with delay slot. -/
  | cBeqz (D : Die) (rs : CReg) (a : Bool) (off : BitVec 6)
  /-- `C_BNEZ` (R415): Crown 16-bit branch if not zero, with delay slot. -/
  | cBnez (D : Die) (rs : CReg) (a : Bool) (off : BitVec 6)
  /-- `C_JR` (R415): Crown jump to register, including C.RET. -/
  | cJr (D : Die) (func : BitVec 3) (rs : CReg)
  /-- `C32R_ALU` (R414): A 32-bit Crown register operation including MUL. -/
  | c32rAlu (D : Die) (func : BitVec 13) (rd rs1 rs2 : CReg)
  /-- `C32I_IMMEDIATE` (R414): A 32-bit Crown immediate operation including LUI. -/
  | c32iImmediate (D : Die) (op : CrnImm) (rd rs1 : CReg) (imm : BitVec 17)
  /-- `CROWN_LD` (R414): Crown load from its address space. -/
  | crownLd (D : Die) (lg : Fin 4) (rd rs1 : CReg) (off : BitVec 15)
  /-- `CROWN_ST` (R414): Crown store to its address space. -/
  | crownSt (D : Die) (lg : Fin 4) (rs rs1 : CReg) (off : BitVec 15)
  /-- `CROWN_BRANCH` (R415): A 32-bit Crown compare-and-branch, with annul bit. -/
  | crownBranch (D : Die) (cond : CrnCond) (a : Bool) (rs1 rs2 : CReg) (off : BitVec 16)
  /-- `J` (R415): Crown jump, with delay slot. -/
  | j (D : Die) (off : BitVec 24)
  /-- `CALL` (R415): Crown call that writes c15. -/
  | call (D : Die) (off : BitVec 24) (slot32 : Bool)
  /-- `CROWN_JALR` (R415): Crown jump to register with link. -/
  | crownJalr (D : Die) (rd rs1 : CReg) (slot32 : Bool)
  /-- `FREAD` (R416): Places a flash-to-SRAM read in a reservation station. -/
  | fread (D : Die) (rd rs1 : CReg) (tag : Fin 4) (imm : BitVec 15)
  /-- `MRD` (R417): Places a mesh register read in a reservation station. -/
  | mrd (D : Die) (rd rs1 : CReg) (tag : Fin 4) (imm : BitVec 15)
  /-- `MWR` (R417): Places a mesh register write in a reservation station. -/
  | mwr (D : Die) (rd rs1 : CReg) (tag : Fin 4) (imm : BitVec 15)
  /-- `CRYPT` (R416): Places a crypto-engine operation in a station. -/
  | crypt (D : Die) (rd rs1 : CReg) (tag : Fin 4) (imm : BitVec 15)
  /-- `MBX` (R416): Places a mailbox operation in a station. -/
  | mbx (D : Die) (rd rs1 : CReg) (tag : Fin 4) (imm : BitVec 15)
  /-- `FPROG` (R420): Programs or erases flash and invalidates the caches over the range. -/
  | fprog (D : Die) (rd rs1 : CReg) (tag : Fin 4) (imm : BitVec 15)
  /-- `STATION_COMPLETE` (R416): A long operation completes and releases its pending registers. -/
  | stationComplete (D : Die) (tag : Fin 4) (outcome : BitVec 4) (data : BitVec 32) (len : BitVec 18) (bytes : List (BitVec 8))
  /-- `WAITT` (R416): Waits for a station and writes its outcome to CR.RSSTAT. -/
  | waitt (D : Die) (tag : Fin 4)
  /-- `CSRR` (R417): Reads a Crown control register. -/
  | csrr (D : Die) (rd : CReg) (n : BitVec 4)
  /-- `CSRW` (R417): Writes a Crown control register. -/
  | csrw (D : Die) (n : BitVec 4) (rs : CReg)
  /-- `FLUSHI` (R419): Empties the fetch buffer and branch-target buffer after earlier stores. -/
  | flushi (D : Die)
  /-- `SLEEP` (R417): Waits until a Crown event is pending. -/
  | sleep (D : Die)
  /-- `RETI` (R415): Returns from a Crown trap or event. -/
  | reti (D : Die)
  /-- `TRAP` (R417): Takes a Crown trap with cause TRAP. -/
  | trap (D : Die)
  /-- `SRAM_UE` (R420): An uncorrectable SRAM error traps, and the Crown restarts from ROM. -/
  | sramUe (D : Die)
  /-- `CASEBACK` (R433): Takes a consistent snapshot and writes the caseback record to the requester. -/
  | caseback (D : Die) (b : Mbx) (q : BitVec 8)
  /-- `GET_STATUS` (R427): Reports the progress of a background command. -/
  | getStatus (D : Die) (b : Mbx) (q : BitVec 8) (ticket : Word)
  /-- `SENSOR_READ` (R427): Returns a sensor value and its time. -/
  | sensorRead (D : Die) (b : Mbx) (q : BitVec 8) (sensor : Word)
  /-- `SET_POWER_LIMIT` (R427): Sets PWR.PKG_LIMIT.LIMIT_W on every die. -/
  | setPowerLimit (D : Die) (b : Mbx) (q : BitVec 8) (w : Word)
  /-- `DOMAIN_REQ` (R427): Makes a normal-side power request and returns its final outcome. -/
  | domainReq (D : Die) (b : Mbx) (q : BitVec 8) (a : Word)
  /-- `CODE_CONVERT` (R308): Starts changing a region's memory code, or is refused. -/
  | codeConvert (D : Die) (b : Mbx) (q : BitVec 8) (a : Word)
  /-- `RESTITCH` (R427): Requests a restitch of a named unit. -/
  | restitch (D : Die) (b : Mbx) (q : BitVec 8) (a a1 : Word)
  /-- `RESERVE_ENTER` (R447): Requests Reserve mode for the system. -/
  | reserveEnter (D : Die) (b : Mbx) (q : BitVec 8)
  /-- `RESERVE_EXIT` (R451): Requests exit from Reserve mode, accepted if the conditions hold. -/
  | reserveExit (D : Die) (b : Mbx) (q : BitVec 8)
  /-- `FAULT_ACK` (R427): Removes an entry from the open-fault list. -/
  | faultAck (D : Die) (b : Mbx) (q : BitVec 8) (i : Word)
  /-- `SVC_DOWN_CLEAR` (R427): Clears a service-down entry on every die. -/
  | svcDownClear (D : Die) (b : Mbx) (q : BitVec 8) (svc : Word)
  /-- `FW_STAGE` (R424): Stages a firmware image into the inactive slot after verification. -/
  | fwStage (D : Die) (b : Mbx) (q : BitVec 8) (pa len : Word)
  /-- `FW_ACTIVATE` (R424): Selects the staged slot for the next package reset. -/
  | fwActivate (D : Die) (b : Mbx) (q : BitVec 8) (typ : Word)
  /-- `DBG_CHALLENGE` (R332): Returns a nonce and serial for a debug enable request. -/
  | dbgChallenge (D : Die) (b : Mbx) (q : BitVec 8) (en : Word)
  /-- `DBG_RESPONSE` (R333): Verifies a signature and sets the requested debug enables, or counts a failure. -/
  | dbgResponse (D : Die) (b : Mbx) (q : BitVec 8) (part : Word) (s1 s2 s3 s4 s5 s6 : Word)
  /-- `DBG_CLEAR` (R332): Clears debug enables. -/
  | dbgClear (D : Die) (b : Mbx) (q : BitVec 8) (en : Word)
  /-- `BACKGROUND_COMMAND_END` (R426): A background command finishes and its ticket reports the final result. -/
  | backgroundCommandEnd (p : Pkg) (ticket : Nat) (ok : Bool)
  /-- `SET_ENDPOINT_ID` (R429): MCTP control: assigns the endpoint ID. -/
  | setEndpointId (p : Pkg) (e : BitVec 8)
  /-- `GET_ENDPOINT_ID` (R429): MCTP control: returns the endpoint ID. -/
  | getEndpointId (p : Pkg)
  /-- `GET_ENDPOINT_UUID` (R429): MCTP control: returns the endpoint UUID. -/
  | getEndpointUuid (p : Pkg)
  /-- `GET_MCTP_VERSION_SUPPORT` (R429): MCTP control: returns supported versions. -/
  | getMctpVersionSupport (p : Pkg)
  /-- `GET_MESSAGE_TYPE_SUPPORT` (R429): MCTP control: returns supported message types. -/
  | getMessageTypeSupport (p : Pkg)
  /-- `GET_VENDOR_DEFINED_MESSAGE_SUPPORT` (R429): MCTP control: returns vendor-defined support. -/
  | getVendorDefinedMessageSupport (p : Pkg)
  /-- `VENDOR_DEFINED_PCI_MESSAGE` (R429): An MCTP vendor-defined message carries one mailbox command. -/
  | vendorDefinedPciMessage (p : Pkg) (code q : BitVec 8) (args : List Word)
  /-- `GETTID` (R430): PLDM base: returns the terminus ID. -/
  | gettid (p : Pkg)
  /-- `GETPLDMVERSION` (R430): PLDM base: returns the version. -/
  | getpldmversion (p : Pkg) (t : BitVec 8)
  /-- `GETPLDMTYPES` (R430): PLDM base: returns supported types. -/
  | getpldmtypes (p : Pkg)
  /-- `GETPLDMCOMMANDS` (R430): PLDM base: returns supported commands. -/
  | getpldmcommands (p : Pkg) (t : BitVec 8)
  /-- `GETPDRREPOSITORYINFO` (R430): PLDM platform: returns repository information. -/
  | getpdrrepositoryinfo (p : Pkg)
  /-- `GETPDR` (R430): PLDM platform: returns a PDR. -/
  | getpdr (p : Pkg) (h : BitVec 32)
  /-- `GETSENSORREADING` (R430): PLDM platform: returns a sensor reading. -/
  | getsensorreading (p : Pkg) (i : BitVec 16)
  /-- `SETEVENTRECEIVER` (R430): PLDM platform: sets the event receiver. -/
  | seteventreceiver (p : Pkg) (e : Option (BitVec 8))
  /-- `PLDM_FIRMWARE_UPDATE` (R430): A PLDM firmware update message advances the standard update flow. -/
  | pldmFirmwareUpdate (p : Pkg) (m : PldmFw)
  /-- `SMBUS_READ_BYTE` (R430): A legacy SMBus Read Byte returns temperature or status. -/
  | smbusReadByte (p : Pkg) (a : BitVec 7) (c : BitVec 8)
  /-- `SMBUS_READ_WORD` (R430): A legacy SMBus Read Word returns power or VIN. -/
  | smbusReadWord (p : Pkg) (a : BitVec 7) (c : BitVec 8)
  /-- `ENTDAA` (R428): I3C dynamic address assignment of the management endpoint. -/
  | entdaa (p : Pkg) (a : BitVec 7)
  /-- `ERROR_RECORD_PUSH` (R441): The error bank pushes a held record when the error-log queue has room. -/
  | errorRecordPush (D : Die)
  /-- `CORE_RESTITCH` (R444): The package Crown replaces a core by a spare tile. -/
  | coreRestitch (c : CoreId) (why : RestitchWhy)
  /-- `SLICE_RESTITCH` (R445): The Crown starts the background phase of a slice restitch. -/
  | sliceRestitch (g : SliceId) (why : RestitchWhy)
  /-- `SLICE_SWITCH` (R445): After the background walk the switch phase moves the slice to the spare. -/
  | sliceSwitch (D : Die)
  /-- `SLICE_REDIRECT` (R166): A failed slice's logical number is redirected to another active slice. -/
  | sliceRedirect (g : SliceId) (j : Fin 42)
  /-- `RESERVE_MODE_ENTRY` (R448): A cause drives the package into Reserve mode through the entry steps. -/
  | reserveModeEntry (p : Pkg) (wb : Bool)
  /-- `MASTER_LOSS` (R437): No time-base exchange from the master package for 10 ms; the package enters Reserve mode. -/
  | masterLoss (p : Pkg)
  /-- `INJECT_GO` (R452): RAS.INJECT GO arms an error injection at the unit's next access. -/
  | injectGo (D : Die) (v : Word)
  /-- `VSB_POWER_ON` (R453): VSB enters its range, causing a package reset. -/
  | vsbPowerOn (p : Pkg)
  /-- `RESET_N_ASSERTION` (R458): RESET_N asserted past the glitch filter causes a package reset. -/
  | resetNAssertion (p : Pkg) (ns : Nat)
  /-- `RESET_N_DEASSERTION` (R455): RESET_N deasserted samples the straps and starts boot. -/
  | resetNDeassertion (p : Pkg) (master : Bool) (src : Fin 4) (modes : List (Fin 4))
  /-- `PWROK_ASSERT` (R459): PWROK asserted lets boot continue past standby. -/
  | pwrokAssert (p : Pkg)
  /-- `PWROK_DEASSERT` (R459): PWROK deasserted for 20 µs enters Reserve mode or returns boot to stage 0x2. -/
  | pwrokDeassert (p : Pkg)
  /-- `VSB_LOSS` (R476): VSB leaves its range while VIN is present, causing a package reset. -/
  | vsbLoss (p : Pkg)
  /-- `CROWN_IMAGE_ACCEPTANCE` (R423): The boot ROM accepts a Crown image, or enters recovery. -/
  | crownImageAcceptance (p : Pkg)
  /-- `DIE_BRINGUP` (R460): Regulators, domains, mesh and bridges come up; stage 0x3. -/
  | dieBringup (p : Pkg) (missing : List (Fin 8)) (bad : List (Fin 8 × List (Fin 36)))
  /-- `MASTER_CONFIRMATION` (R462): The master package confirms the system and becomes the system Crown. -/
  | masterConfirmation
  /-- `REIN_WAIT_TIMEOUT` (R463): REIN_WAIT passes without the reins and confirmation, and boot stops. -/
  | reinWaitTimeout (p : Pkg)
  /-- `INITIAL_TRAINING` (R285): Every populated port completes light-load training. -/
  | initialTraining (p : Pkg) (res : List (PortId × TrainRes))
  /-- `FILL` (R307): Hardware zero-fills every row of every active port and sets FILLED. -/
  | fill (p : Pkg)
  /-- `LOADED_VERIFY` (R285): The loaded verify pass completes, retries, or falls back to a lower rate. -/
  | loadedVerify (p : Pkg) (res : List (PortId × VerifyRes))
  /-- `MONITOR_COPY` (R460): The system Crown verifies the monitor image and copies it to DRAM. -/
  | monitorCopy
  /-- `RELEASE` (R461): The system Crown releases the monitor on logical core 0 of the master die. -/
  | release
  /-- `WARM` (R465): A write of CRN.RESET_CTL.WARM requests a system warm reset, or is refused. -/
  | warm (D : Die)
  /-- `WARM_RESET_COMPLETE` (R465): The warm reset finishes its parts and the monitor is released again. -/
  | warmResetComplete
  /-- `REIN_FLIT` (R263): A FLIT received on a rein is checked, acknowledged or NAKed with replay, and counted toward REPLAY_MAX within REPLAY_WIN. -/
  | reinFlit (D : Die) (seq : Nat) (ok : Bool) (ms : List Msg)
  /-- `REFERENCE_EDGE` (R356): At each REF100 edge TIM.NOW advances by INCR plus FREQ and any pending slew of PHASE. -/
  | referenceEdge (D : Die)
  /-- `LINK_RETRAIN` (R409): The high-speed port link changes width or rate, or retrains, and raises event 417. -/
  | linkRetrain (D : Die) (w : Fin 17) (rate : Fin 7) (flit : Bool)
  /-- `ELECTRICAL_IDLE_EXIT` (R405): An exit from electrical idle on the link wakes the high-speed port domain from retention. -/
  | electricalIdleExit (D : Die)
  /-- `ILLEGAL_INSTRUCTION` (R57): An instruction word with an unassigned major opcode takes the illegal-instruction exception. -/
  | illegalInstruction (c : CoreId) (word : BitVec 32)
  /-- `DEBUG_HALT_REQUEST` (R82): A debugger's halt request through JTAG halts a core and ends a WFE. -/
  | debugHaltRequest (c : CoreId)
  /-- `CROWN_EVENT` (R417): A pending Crown event from the mailbox, management channel, I3C, JTAG or timer is taken with IE set, vectors to 0x1000_0000 and ends SLEEP. -/
  | crownEvent (D : Die) (e : CrownEvt)
  /-- `BOARD_DESCRIPTION_ACCEPTANCE` (R423): Every Crown has verified and runs the accepted image, the board description is accepted, SRAM code is copied and STAGE becomes 0x2. -/
  | boardDescriptionAcceptance (p : Pkg) (bd : BoardDesc)
  /-- `RESERVE_EXIT_COMPLETE` (R451): An accepted Reserve mode exit finishes: ports are retrained and verified, CODE 0x1B is recorded and the monitor is released. -/
  | reserveExitComplete
  /-- `RTC32K_SOURCE_DECISION` (R479): When no RTC32K edge is seen within 1 s of VSB power-up, the Crown selects the internal RC oscillator and sets TIM.RTC_CFG.RC. -/
  | rtc32kSourceDecision (p : Pkg) (edge : Bool)
  /-- `CASEBACK_GENERATION_CHANGED` (R433): When the 1 ms limit on event 500 ends after a GENERATION change, the held event 500 and MSI-X vector 1 are sent. -/
  | casebackGenerationChanged (p : Pkg)
  /-- `BAD_CMD` (R427): A mailbox write of an unassigned command code ends with result BAD_CMD. -/
  | badCmd (D : Die) (b : Mbx) (q code : BitVec 8)
  deriving DecidableEq, Repr

end Sys2Proof
end

