-- ==== Sys2Proof/WellFormed.lean ====
section
/-! DEFINITION. Which commands are well formed: the bounds that the spec puts on operands and that their types do not carry already
(fields of an encoding, numbers of units and register fields are bounded by type). A command that is not well formed names
something that no sender of this device can send; exec is total on it all the same. -/

namespace Sys2Proof

/-- A 48-bit physical address (R22). -/
def paOk (a : Nat) : Bool := decide (a < 2 ^ 48)

/-- The agents of a system of at most four packages of eight dies (R4, R201). -/
def Agent.wf : Agent → Bool
  | .core c => decide (c < 1280)
  | .home g => decide (g < 1344)
  | .keeper p q => decide (p < 4) && decide (q < 4) && p != q
  | .port k => decide (k < 224)
  | .hsp D => decide (D < 32)
  | .crown D => decide (D < 32)

/-- An atomic's operand sizes (R72). -/
def Atom.wf (a : Atom) : Bool :=
  (a.size == 1 || a.size == 2 || a.size == 4 || a.size == 8 || (a.size == 16 && a.op == .cas))
    && decide (a.val < 2 ^ (8 * a.size)) && decide (a.cmp < 2 ^ (8 * a.size))

/-- A packet slot (R200): slot 0 to 15, size code 0 to 3, element number 0 to 63. -/
def Elem.wf (e : Elem) : Bool := decide (e.slot < 16) && paOk e.addr && decide (e.size < 4) && decide (e.num < 64)

/-- A coherence message (R199, R200): the widths of its header fields and the bounds of its packet. -/
def Msg.wf (m : Msg) : Bool :=
  m.src.wf && m.dst.wf && paOk m.addr && decide (m.qos < 16) && decide (m.st < 16) && decide (m.arg < 256)
    && decide (m.elems.length ≤ 16) && m.elems.all Elem.wf && (match m.atom with | some a => a.wf | none => true)

/-- What a memory port is asked for (R276): an atomic lies within its line. -/
def MemOp.wf : MemOp → Bool
  | .atomic off a => decide (off + a.size ≤ 64) && a.wf
  | _ => true

/-- Where a TLP goes: a BAR that exists, or a 64-bit bus address (R389, R407). -/
def HostTgt.wf : HostTgt → Bool
  | .bar b off => (b == 0 || b == 2 || b == 4) && decide (off < 2 ^ 40)
  | .bus a => decide (a < 2 ^ 64)

/-- A line key names a line of the address space in one world. -/
def keyOk (k : Nat) : Bool := decide (k < 2 ^ 43)

/-- A message row's message: of the row's opcode, and well formed. -/
def rowMsg (op : COp) (m : Msg) : Bool := m.op == op && m.wf

/-- Whether a command is well formed. -/
def Instr.wf : Instr → Bool
  | .registerWrite _ off _ _ => off.toNat % 8 == 0
  | .rdshared m => rowMsg .rdShared m
  | .rdunique m => rowMsg .rdUnique m
  | .upgrade m => rowMsg .upgrade m
  | .rdonce m => rowMsg .rdOnce m
  | .wrfull m => rowMsg .wrFull m
  | .wrpartial m => rowMsg .wrPartial m
  | .atomichome m => rowMsg .atomicHome m
  | .atomicmem m => rowMsg .atomicMem m
  | .gather m => rowMsg .gather m
  | .scatter m => rowMsg .scatter m
  | .scatterred m => rowMsg .scatterRed m
  | .cmocleanMsg m => rowMsg .cmoClean m
  | .cmoinvMsg m => rowMsg .cmoInv m
  | .cmoflushMsg m => rowMsg .cmoFlush m
  | .lock m => rowMsg .lock m
  | .unlock m => rowMsg .unlock m
  | .wbdirty m => rowMsg .wbDirty m
  | .evictclean m => rowMsg .evictClean m
  | .keeperevict m => rowMsg .keeperEvict m
  | .snpshared m => rowMsg .snpShared m
  | .snpunique m => rowMsg .snpUnique m
  | .snpinv m => rowMsg .snpInv m
  | .snppeek m => rowMsg .snpPeek m
  | .snpclean m => rowMsg .snpClean m
  | .recall m => rowMsg .recall m
  | .compack m => rowMsg .compAck m
  | .wback m => rowMsg .wbAck m
  | .snpresp m => rowMsg .snpResp m
  | .comp m => rowMsg .comp m
  | .grant m => rowMsg .grant m
  | .defer m => rowMsg .defer m
  | .resume m => rowMsg .resume m
  | .data m => rowMsg .data m
  | .snpdata m => rowMsg .snpData m
  | .wbdata m => rowMsg .wbData m
  | .respdata m => rowMsg .respData m
  | .dwellEnd _ k => keyOk k
  | .directoryError _ k _ => keyOk k
  | .unrecognisedMessage a => a.wf
  | .bridgeFrame _ _ _ _ ms => ms.all Msg.wf
  | .reinFlit _ _ _ ms => ms.all Msg.wf
  | .memoryRequest src _ op pa _ _ => src.wf && op.wf && paOk pa
  | .supplySample _ vin iin vsb => decide (vin < 2 ^ 16) && decide (iin < 2 ^ 16) && decide (vsb < 2 ^ 16)
  | .inboundMemoryRead _ _ tgt len _ => tgt.wf && decide (0 < len.val)
  | .inboundMemoryWrite _ _ tgt bytes _ => tgt.wf && decide (0 < bytes.length) && decide (bytes.length ≤ 512)
  | .doorbellWrite _ _ _ off bytes => decide (0 < bytes.length) && decide (off.val + bytes.length ≤ 4096)
  | .completionReceived _ _ stat _ bytes => (stat.val == 0 || stat.val == 1 || stat.val == 2 || stat.val == 4) && decide (bytes.length ≤ 512)
  | .resetNDeassertion _ _ _ modes => decide (modes.length ≤ 8)
  | _ => true

end Sys2Proof
end

