-- ==== Sys2Proof/Decode.lean ====
section
/-! DEFINITION. The words of commands. The operation table gives no row of this block any bits: a command reaches the device as a
register write, a message, a frame, a pin or an operation of a unit, not as a word (00_scope.md; the rows' operands stand in
Syntax.lean). -/

namespace Sys2Proof

/-- The command that a word of `nbits` bits spells: none, since no row gives bits. -/
def decodeTableWord (_nbits _w : Nat) : Option Instr := none

end Sys2Proof
end

