-- ==== Sys2Proof/Machine/KMap.lean ====
section
/-! DEFINITION. The operations over a sparse map in canonical form. Every table of the machine (memory bytes, device
registers, register files, caches, queues) is one of these. -/

namespace Sys2Proof.KMap

/-- What key `k` reads as; `d` is what an unlisted key reads as. -/
def look {α : Type} (d : α) : KMap α → Nat → α
  | [], _ => d
  | (a, v) :: r, k => if a = k then v else look d r k

/-- Key `k` is unlisted afterwards. -/
def del {α : Type} (m : KMap α) (k : Nat) : KMap α := m.filter (fun e => e.1 != k)

/-- An entry for a key that is not listed, before the first greater key. -/
def ins {α : Type} : KMap α → Nat → α → KMap α
  | [], k, v => [(k, v)]
  | (a, w) :: r, k, v => if k < a then (k, v) :: (a, w) :: r else (a, w) :: ins r k v

/-- Key `k` reads as `v` afterwards; `d` is what key `k` reads as when unlisted, so writing it removes the entry. -/
def put {α : Type} [DecidableEq α] (d : α) (m : KMap α) (k : Nat) (v : α) : KMap α :=
  if v = d then del m k else ins (del m k) k v

/-- The keys rise strictly from `lo` on and no entry equals what its key reads as when unlisted. -/
def wfFrom {α : Type} [DecidableEq α] (df : Nat → α) : Nat → KMap α → Bool
  | _, [] => true
  | lo, (a, v) :: r => decide (lo ≤ a) && decide (v ≠ df a) && wfFrom df (a + 1) r

/-- The canonical form of a sparse map whose unlisted key `k` reads as `df k`. -/
def wf {α : Type} [DecidableEq α] (df : Nat → α) (m : KMap α) : Bool := wfFrom df 0 m

/-- Key `k` reads as `f` of what it read before. -/
def modify {α : Type} [DecidableEq α] (d : α) (m : KMap α) (k : Nat) (f : α → α) : KMap α :=
  put d m k (f (look d m k))

/-- Every key that satisfies `p` is unlisted afterwards. -/
def drop {α : Type} (m : KMap α) (p : Nat → Bool) : KMap α := m.filter (fun e => !p e.1)

/-- The listed keys that satisfy `p` with their values. -/
def listed {α : Type} (m : KMap α) (p : Nat → α → Bool) : List (Nat × α) := m.filter (fun e => p e.1 e.2)

end Sys2Proof.KMap
end

