-- ==== Sys2Proof/Machine/Bits.lean ====
section
/-! DEFINITION. Bit fields of words, sign extension, byte order and small numeric helpers. -/

namespace Sys2Proof

/-- How many bits a field has. -/
def Fld.width (f : Fld) : Nat := f.hi + 1 - f.lo

/-- The bits of a field in place. -/
def Fld.mask (f : Fld) : Word := BitVec.ofNat 64 ((2 ^ f.width - 1) <<< f.lo)

/-- The value of a field. -/
def getF (f : Fld) (w : Word) : Nat := (w.toNat >>> f.lo) % 2 ^ f.width

/-- The word with a field set to the low bits of `v`. -/
def setF (f : Fld) (v : Nat) (w : Word) : Word :=
  (w &&& ~~~ f.mask) ||| ((BitVec.ofNat 64 (v <<< f.lo)) &&& f.mask)

/-- A one-bit field read as a truth value. -/
def getB (f : Fld) (w : Word) : Bool := decide (getF f w ≠ 0)

/-- A truth value as a bit. -/
def b2n (b : Bool) : Nat := if b then 1 else 0

/-- The word with a one-bit field set. -/
def setB (f : Fld) (b : Bool) (w : Word) : Word := setF f (b2n b) w

/-- Add `n` to a counter field that saturates at its largest value. -/
def satAdd (f : Fld) (n : Nat) (w : Word) : Word := setF f (min (getF f w + n) (2 ^ f.width - 1)) w

/-- Bits `hi` to `lo` of a word as a number. -/
def bitsOf (w : Word) (hi lo : Nat) : Nat := getF ⟨hi, lo⟩ w

/-- One bit of a word. -/
def bitOf (w : Word) (i : Nat) : Bool := w.getLsbD i

/-- Sign extension of the low `n` bits of a number to 64 bits. -/
def sext (n : Nat) (v : Nat) : Word :=
  let u := v % 2 ^ n
  if u < 2 ^ (n - 1) then BitVec.ofNat 64 u else BitVec.ofInt 64 ((u : Int) - (2 ^ n : Nat))

/-- The `i`-th byte of a number, byte 0 least significant (R11: little-endian). -/
def byteOf (v : Nat) (i : Nat) : Byte := BitVec.ofNat 8 (v >>> (8 * i))

/-- The `n` low bytes of a number, lowest first. -/
def toBytes (n : Nat) (v : Nat) : List Byte := (List.range n).map (byteOf v)

/-- The number that bytes spell, lowest first. -/
def ofBytes : List Byte → Nat
  | [] => 0
  | b :: r => b.toNat + 256 * ofBytes r

/-- Rounded-up division. -/
def ceilDiv (a b : Nat) : Nat := (a + b - 1) / b

end Sys2Proof
end

