-- ==== Sys2Proof/Machine/RegMap.lean ====
section
/-! DEFINITION. The register map of a die: every register of the chapters' register tables with its offset in the die's
4 GiB register space (R29), its field positions, access codes (R13) and reset values (the tables' column "Reset"). A field
whose reset the spec gives as a dash is undefined until firmware writes it (00_scope.md, Registers); it is 0 here
(DESIGN CHOICE, log entry 5). The registers whose reset value depends on the instance are set in `regReset`. -/

namespace Sys2Proof

/-- Access codes of register maps (R13). -/
inductive Acc where
  | ro | rw | rwl | w1c | w1s | wo | rsvd
  deriving DecidableEq, Repr

/-- One field of a register map: position, access code and reset value. -/
structure FieldSpec where
  hi : Nat
  lo : Nat
  acc : Acc
  reset : Nat
  deriving DecidableEq, Repr

/-- One register, or one array of registers, of a register map: the offset in the die's register space of its first
instance, the (stride, count) pairs of its instances from the widest stride down, and its fields. -/
structure RegRow where
  base : Nat
  dims : List (Nat × Nat)
  fields : List FieldSpec
  deriving DecidableEq, Repr

namespace Reg

/-- `PWR.PACE_CTL` (R38, 02_selftimed_operation.md). -/
def PACE_CTL (i : Nat) : Nat := 0x320000 + i * 0x10
/-- `PWR.PACE_STATUS` (R38, 02_selftimed_operation.md). -/
def PACE_STATUS (i : Nat) : Nat := 0x320008 + i * 0x10
/-- `MSH.ARBREC_CTL` (R45, 02_selftimed_operation.md). -/
def ARBREC_CTL : Nat := 0x40F000
/-- `MSH.ARBREC_STATUS` (R45, 02_selftimed_operation.md). -/
def ARBREC_STATUS : Nat := 0x40F008
/-- `TIL.WEAR_STATUS` (R52, 02_selftimed_operation.md). -/
def WEAR_STATUS (i j : Nat) : Nat := 0x203F000 + i * 0x40000 + j * 0x20
/-- `TIL.WEAR_BASE` (R52, 02_selftimed_operation.md). -/
def WEAR_BASE (i j : Nat) : Nat := 0x203F008 + i * 0x40000 + j * 0x20
/-- `TIL.WEAR_CTL` (R52, 02_selftimed_operation.md). -/
def WEAR_CTL (i j : Nat) : Nat := 0x203F010 + i * 0x40000 + j * 0x20
/-- `TIL.CORE_STATUS` (R161, 05_core.md). -/
def CORE_STATUS (i : Nat) : Nat := 0x2000000 + i * 0x40000
/-- `TIL.CORE_ERR` (R161, 05_core.md). -/
def CORE_ERR (i : Nat) : Nat := 0x2000008 + i * 0x40000
/-- `TIL.PAIR_CTL` (R161, 05_core.md). -/
def PAIR_CTL (i : Nat) : Nat := 0x2000100 + i * 0x40000
/-- `TIL.PAIR_STATUS` (R161, 05_core.md). -/
def PAIR_STATUS (i : Nat) : Nat := 0x2000108 + i * 0x40000
/-- `MSH.HOME_REG0 to MSH.HOME_REG63` (R167, 06_llc_scratchpad.md). -/
def HOME_REG (i : Nat) : Nat := 0x402000 + i * 0x8
/-- `SLICE.STATUS` (R189, 06_llc_scratchpad.md). -/
def SLICE_STATUS (i : Nat) : Nat := 0x2010000 + i * 0x40000
/-- `SLICE.SPAD_CTL` (R189, 06_llc_scratchpad.md). -/
def SPAD_CTL (i : Nat) : Nat := 0x2010008 + i * 0x40000
/-- `SLICE.LOCK_CTL` (R189, 06_llc_scratchpad.md). -/
def LOCK_CTL (i : Nat) : Nat := 0x2010010 + i * 0x40000
/-- `SLICE.LOCK_STAT` (R189, 06_llc_scratchpad.md). -/
def LOCK_STAT (i : Nat) : Nat := 0x2010018 + i * 0x40000
/-- `SLICE.ERR` (R189, 06_llc_scratchpad.md). -/
def SLICE_ERR (i : Nat) : Nat := 0x2010020 + i * 0x40000
/-- `SLICE.MAINT` (R189, 06_llc_scratchpad.md). -/
def SLICE_MAINT (i : Nat) : Nat := 0x2010028 + i * 0x40000
/-- `SLICE.WAYPART0 to SLICE.WAYPART15` (R189, 06_llc_scratchpad.md). -/
def WAYPART (i j : Nat) : Nat := 0x2010100 + i * 0x40000 + j * 0x8
/-- `MSH.COH_CTL` (R222, 07_coherence.md). -/
def COH_CTL : Nat := 0x403000
/-- `KPR.STATUS` (R222, 07_coherence.md). -/
def KPR_STATUS : Nat := 0x6F0000
/-- `COH.STATUS` (R222, 07_coherence.md). -/
def COH_STATUS (i : Nat) : Nat := 0x2020000 + i * 0x40000
/-- `COH.STAT` (R222, 07_coherence.md). -/
def COH_STAT (i : Nat) : Nat := 0x2020008 + i * 0x40000
/-- `COH.ERR` (R222, 07_coherence.md). -/
def COH_ERR (i : Nat) : Nat := 0x2020010 + i * 0x40000
/-- `MSH.QTAB` (R224, 08_strap_queues.md). -/
def QTAB : Nat := 0x404000
/-- `QENG.STATUS` (R243, 08_strap_queues.md). -/
def QENG_STATUS (i : Nat) : Nat := 0x2030000 + i * 0x40000
/-- `QENG.STAT` (R243, 08_strap_queues.md). -/
def QENG_STAT (i : Nat) : Nat := 0x2030008 + i * 0x40000
/-- `QENG.ERR` (R243, 08_strap_queues.md). -/
def QENG_ERR (i : Nat) : Nat := 0x2030010 + i * 0x40000
/-- `MSH.LCORE0 to MSH.LCORE39` (R487, 09_mesh_bridges_reins.md). -/
def LCORE (i : Nat) : Nat := 0x401000 + i * 0x8
/-- `MSH.LSLICE0 to MSH.LSLICE41` (R487, 09_mesh_bridges_reins.md). -/
def LSLICE (i : Nat) : Nat := 0x401200 + i * 0x8
/-- `MSH.TILEMAP_GEN` (R487, 09_mesh_bridges_reins.md). -/
def TILEMAP_GEN : Nat := 0x401400
/-- `MSH.ROUTE` (R266, 09_mesh_bridges_reins.md). -/
def ROUTE : Nat := 0x405000
/-- `MSH.LNK_STATUS0 to MSH.LNK_STATUS193` (R249, 09_mesh_bridges_reins.md). -/
def LNK_STATUS (i : Nat) : Nat := 0x406000 + i * 0x8
/-- `MSH.LNK_CTL` (R249, 09_mesh_bridges_reins.md). -/
def LNK_CTL : Nat := 0x406800
/-- `MSH.BWRES0 to MSH.BWRES63` (R252, 09_mesh_bridges_reins.md). -/
def BWRES (i : Nat) : Nat := 0x407000 + i * 0x8
/-- `MSH.BWSTAT` (R252, 09_mesh_bridges_reins.md). -/
def BWSTAT : Nat := 0x407200
/-- `MSH.SUCC` (R266, 09_mesh_bridges_reins.md). -/
def SUCC : Nat := 0x408000
/-- `BRG.CTL and REIN.CTL` (R266, 09_mesh_bridges_reins.md). -/
def BRG_CTL (i : Nat) : Nat := 0x500000 + i * 0x10000
/-- `BRG.STATUS` (R266, 09_mesh_bridges_reins.md). -/
def BRG_STATUS (i : Nat) : Nat := 0x500008 + i * 0x10000
/-- `BRG.ERR and REIN.ERR` (R266, 09_mesh_bridges_reins.md). -/
def BRG_ERR (i : Nat) : Nat := 0x500010 + i * 0x10000
/-- `BRG.CTL and REIN.CTL` (R266, 09_mesh_bridges_reins.md). -/
def REIN_CTL : Nat := 0x6E0000
/-- `REIN.STATUS` (R266, 09_mesh_bridges_reins.md). -/
def REIN_STATUS : Nat := 0x6E0008
/-- `BRG.ERR and REIN.ERR` (R266, 09_mesh_bridges_reins.md). -/
def REIN_ERR : Nat := 0x6E0010
/-- `MSH.MEMMAP` (R294, 10_memory_ports.md). -/
def MEMMAP : Nat := 0x409000
/-- `MSH.MEMPORT` (R294, 10_memory_ports.md). -/
def MEMPORT : Nat := 0x409008
/-- `MSH.SRCQOS0 to MSH.SRCQOS3` (R294, 10_memory_ports.md). -/
def SRCQOS (i : Nat) : Nat := 0x409100 + i * 0x8
/-- `PORT.CFG` (R294, 10_memory_ports.md). -/
def PORT_CFG (i : Nat) : Nat := 0x1000000 + i * 0x100000
/-- `PORT.STATUS` (R294, 10_memory_ports.md). -/
def PORT_STATUS (i : Nat) : Nat := 0x1000008 + i * 0x100000
/-- `PORT.CHMASK0, PORT.CHMASK1` (R294, 10_memory_ports.md). -/
def CHMASK (i j : Nat) : Nat := 0x1000010 + i * 0x100000 + j * 0x8
/-- `PORT.CHMASK0, PORT.CHMASK1` (R294, 10_memory_ports.md). -/
def BAMASK (i j : Nat) : Nat := 0x1000020 + i * 0x100000 + j * 0x8
/-- `PORT.QOS_TGT0 to PORT.QOS_TGT3` (R294, 10_memory_ports.md). -/
def QOS_TGT (i j : Nat) : Nat := 0x1000040 + i * 0x100000 + j * 0x8
/-- `PORT.RESV0 to PORT.RESV3` (R294, 10_memory_ports.md). -/
def PORT_RESV (i j : Nat) : Nat := 0x1000060 + i * 0x100000 + j * 0x8
/-- `PORT.RD_CTL` (R294, 10_memory_ports.md). -/
def RD_CTL (i : Nat) : Nat := 0x1000080 + i * 0x100000
/-- `PORT.RD_STAT` (R294, 10_memory_ports.md). -/
def RD_STAT (i : Nat) : Nat := 0x1000088 + i * 0x100000
/-- `PORT.TRAIN_CTL` (R294, 10_memory_ports.md). -/
def TRAIN_CTL (i : Nat) : Nat := 0x1000090 + i * 0x100000
/-- `PORT.TRAIN_REC` (R294, 10_memory_ports.md). -/
def TRAIN_REC (i : Nat) : Nat := 0x1000098 + i * 0x100000
/-- `PORT.LINK_ERR` (R294, 10_memory_ports.md). -/
def LINK_ERR (i : Nat) : Nat := 0x10000A0 + i * 0x100000
/-- `PORT.COPY` (R294, 10_memory_ports.md). -/
def PORT_COPY (i : Nat) : Nat := 0x10000A8 + i * 0x100000
/-- `PORT.REMAP0 to PORT.REMAP255` (R294, 10_memory_ports.md). -/
def REMAP (i j : Nat) : Nat := 0x1001000 + i * 0x100000 + j * 0x8
/-- `MSH.CODE_REG0 to MSH.CODE_REG63` (R310, 11_memory_integrity.md). -/
def CODE_REG (i : Nat) : Nat := 0x40A000 + i * 0x8
/-- `MSH.CODE_CONV` (R310, 11_memory_integrity.md). -/
def CODE_CONV : Nat := 0x40A200
/-- `PORT.ECC_CTL` (R310, 11_memory_integrity.md). -/
def ECC_CTL (i : Nat) : Nat := 0x10000B0 + i * 0x100000
/-- `PORT.ECC_STAT` (R310, 11_memory_integrity.md). -/
def ECC_STAT (i : Nat) : Nat := 0x10000B8 + i * 0x100000
/-- `PORT.TRACK_STAT` (R310, 11_memory_integrity.md). -/
def TRACK_STAT (i : Nat) : Nat := 0x10000C0 + i * 0x100000
/-- `PORT.SCRUB_STATUS` (R310, 11_memory_integrity.md). -/
def SCRUB_STATUS (i : Nat) : Nat := 0x10000C8 + i * 0x100000
/-- `PORT.CONV_FENCE` (R310, 11_memory_integrity.md). -/
def CONV_FENCE (i : Nat) : Nat := 0x10000D0 + i * 0x100000
/-- `PORT.CCACHE_ERR` (R310, 11_memory_integrity.md). -/
def CCACHE_ERR (i : Nat) : Nat := 0x10000D8 + i * 0x100000
/-- `ISO.FW_CFG` (R330, 12_isolation.md). -/
def FW_CFG (i j : Nat) : Nat := 0x6000000 + i * 0x1000 + j * 0x20
/-- `ISO.FW_LIMIT` (R330, 12_isolation.md). -/
def FW_LIMIT (i j : Nat) : Nat := 0x6000008 + i * 0x1000 + j * 0x20
/-- `ISO.FW_MASK` (R330, 12_isolation.md). -/
def FW_MASK (i j : Nat) : Nat := 0x6000010 + i * 0x1000 + j * 0x20
/-- `ISO.FW_STATUS` (R330, 12_isolation.md). -/
def FW_STATUS (i : Nat) : Nat := 0x6000800 + i * 0x1000
/-- `ISO.FW_LAST` (R330, 12_isolation.md). -/
def FW_LAST (i : Nat) : Nat := 0x6000808 + i * 0x1000
/-- `ISO.HYP_PART` (R314, 12_isolation.md). -/
def HYP_PART : Nat := 0x6040000
/-- `ISO.SVC_CTL` (R321, 12_isolation.md). -/
def SVC_CTL : Nat := 0x6040008
/-- `ISO.DBG_STATUS` (R333, 12_isolation.md). -/
def DBG_STATUS : Nat := 0x6040010
/-- `ISO.SVC_DOWN0 to ISO.SVC_DOWN15` (R321, 12_isolation.md). -/
def SVC_DOWN (i : Nat) : Nat := 0x6040100 + i * 0x8
/-- `ISO.SVC_STATUS0 to ISO.SVC_STATUS39` (R321, 12_isolation.md). -/
def SVC_STATUS (i : Nat) : Nat := 0x6040200 + i * 0x8
/-- `ISO.PART0 to ISO.PART63` (R334, 12_isolation.md). -/
def PART (i : Nat) : Nat := 0x6041000 + i * 0x8
/-- `ISO.CORE_OWN0 to ISO.CORE_OWN39` (R334, 12_isolation.md). -/
def CORE_OWN (i : Nat) : Nat := 0x6042000 + i * 0x8
/-- `ISO.CORE_OWN0 to ISO.CORE_OWN39` (R334, 12_isolation.md). -/
def SLICE_OWN (i : Nat) : Nat := 0x6042200 + i * 0x8
/-- `EVC.ROUTE0 to EVC.ROUTE510` (R352, 13_events_timebase.md). -/
def EVC_ROUTE (i : Nat) : Nat := 0x100000 + i * 0x8
/-- `EVC_PEND` (R355, 13_events_timebase.md). -/
def EVC_PEND (i : Nat) : Nat := 0x101000 + i * 0x8
/-- `TIM_NOW` (R356, 13_events_timebase.md). -/
def TIM_NOW : Nat := 0x200000
/-- `TIM.CTL` (R360, 13_events_timebase.md). -/
def TIM_CTL : Nat := 0x200008
/-- `TIM.ADJ` (R360, 13_events_timebase.md). -/
def TIM_ADJ : Nat := 0x200010
/-- `PPS_CAP` (R358, 13_events_timebase.md). -/
def PPS_CAP : Nat := 0x200018
/-- `TIM.REF_CFG` (R360, 13_events_timebase.md). -/
def REF_CFG : Nat := 0x200020
/-- `TIM.QUALITY` (R360, 13_events_timebase.md). -/
def TIM_QUALITY : Nat := 0x200028
/-- `LAST_GAP` (R359, 13_events_timebase.md). -/
def LAST_GAP : Nat := 0x200030
/-- `TIM.RTC_CFG` (R360, 13_events_timebase.md). -/
def RTC_CFG : Nat := 0x200038
/-- `PWR.SUPPLY` (R384, 14_power.md). -/
def SUPPLY : Nat := 0x300000
/-- `PWR.PKG_LIMIT` (R384, 14_power.md). -/
def PKG_LIMIT : Nat := 0x300008
/-- `PWR.PKG_STATUS` (R384, 14_power.md). -/
def PKG_STATUS : Nat := 0x300010
/-- `PWR.THERM_CTL` (R384, 14_power.md). -/
def THERM_CTL : Nat := 0x300018
/-- `PWR.THERM_STATUS` (R384, 14_power.md). -/
def THERM_STATUS : Nat := 0x300020
/-- `PWR.LAST_WAKE_SRC` (R384, 14_power.md). -/
def LAST_WAKE_SRC : Nat := 0x300028
/-- `PWR.LAST_WAKE` (R384, 14_power.md). -/
def LAST_WAKE : Nat := 0x300030
/-- `PWR.PHASE_STATUS` (R384, 14_power.md). -/
def PHASE_STATUS : Nat := 0x300040
/-- `PWR.DOM_CTL0 to PWR.DOM_CTL100` (R384, 14_power.md). -/
def DOM_CTL (i : Nat) : Nat := 0x301000 + i * 0x8
/-- `PWR.DOM_STATUS0 to PWR.DOM_STATUS100` (R384, 14_power.md). -/
def DOM_STATUS (i : Nat) : Nat := 0x302000 + i * 0x8
/-- `PWR.NS_DOMREQ` (R384, 14_power.md). -/
def NS_DOMREQ : Nat := 0x304000
/-- `PWR.NS_DOMRES` (R384, 14_power.md). -/
def NS_DOMRES : Nat := 0x304008
/-- `PWR.RUNCTL0 to PWR.RUNCTL39` (R384, 14_power.md). -/
def RUNCTL (i : Nat) : Nat := 0x330000 + i * 0x10
/-- `PWR.ENTRY0 to PWR.ENTRY39` (R384, 14_power.md). -/
def PWR_ENTRY (i : Nat) : Nat := 0x330008 + i * 0x10
/-- `HSP.MODE` (R410, 15_host_port.md). -/
def HSP_MODE : Nat := 0x600000
/-- `HSP.OB_HI` (R410, 15_host_port.md). -/
def OB_HI : Nat := 0x600008
/-- `HSP.DB_CTL` (R410, 15_host_port.md). -/
def DB_CTL : Nat := 0x600010
/-- `HSP.FN_CFG` (R410, 15_host_port.md). -/
def FN_CFG (i : Nat) : Nat := 0x610000 + i * 0x20
/-- `HSP.FN_STATUS` (R410, 15_host_port.md). -/
def FN_STATUS (i : Nat) : Nat := 0x610008 + i * 0x20
/-- `HSP.FN_MSIX_SEND` (R410, 15_host_port.md). -/
def FN_MSIX_SEND (i : Nat) : Nat := 0x610010 + i * 0x20
/-- `HSP.WIN_BASE` (R410, 15_host_port.md). -/
def WIN_BASE (i : Nat) : Nat := 0x620000 + i * 0x10
/-- `HSP.WIN_CTL` (R410, 15_host_port.md). -/
def WIN_CTL (i : Nat) : Nat := 0x620008 + i * 0x10
/-- `WIN_COMMIT` (R392, 15_host_port.md). -/
def WIN_COMMIT : Nat := 0x620200
/-- `WIN_STATUS` (R410, 15_host_port.md). -/
def WIN_STATUS : Nat := 0x620208
/-- `HSP.DB_MAP` (R410, 15_host_port.md). -/
def DB_MAP (i : Nat) : Nat := 0x630000 + i * 0x8
/-- `HSP.DMA_CFG` (R410, 15_host_port.md). -/
def DMA_CFG (i : Nat) : Nat := 0x640000 + i * 0x80
/-- `HSP.DMA_CTL` (R410, 15_host_port.md). -/
def DMA_CTL (i : Nat) : Nat := 0x640008 + i * 0x80
/-- `HSP.DMA_STATUS` (R410, 15_host_port.md). -/
def DMA_STATUS (i : Nat) : Nat := 0x640010 + i * 0x80
/-- `DMA_CUR` (R410, 15_host_port.md). -/
def DMA_CUR (i j : Nat) : Nat := 0x640040 + i * 0x80 + j * 0x8
/-- `HSP.MSI_CAP` (R410, 15_host_port.md). -/
def MSI_CAP : Nat := 0x650000
/-- `HSP.MSI_MAP` (R410, 15_host_port.md). -/
def MSI_MAP (i : Nat) : Nat := 0x651000 + i * 0x8
/-- `RAS.LOG_CTL` (R452, 17_reliability.md). -/
def LOG_CTL : Nat := 0x7000000
/-- `RAS.HOLD` (R452, 17_reliability.md). -/
def RAS_HOLD : Nat := 0x7000008
/-- `RAS.SPARE_CTL` (R452, 17_reliability.md). -/
def SPARE_CTL : Nat := 0x7000010
/-- `RAS.RESTITCH` (R452, 17_reliability.md). -/
def RAS_RESTITCH : Nat := 0x7000018
/-- `RAS.RESERVE` (R452, 17_reliability.md). -/
def RAS_RESERVE : Nat := 0x7000020
/-- `RAS.INJECT` (R452, 17_reliability.md). -/
def RAS_INJECT : Nat := 0x7000028
/-- `CRN.STRAPS` (R456, 18_reset_boot.md). -/
def STRAPS : Nat := 0x2000
/-- `CRN.BOOT_STATUS` (R464, 18_reset_boot.md). -/
def BOOT_STATUS : Nat := 0x2008
/-- `CRN.RESET_CTL` (R465, 18_reset_boot.md). -/
def RESET_CTL : Nat := 0x2010
/-- `HSP.ROOT_RST` (R469, 18_reset_boot.md). -/
def ROOT_RST : Nat := 0x600018

end Reg

namespace Fl

def PACE_CTL_RATE : Fld := ⟨15, 0⟩
def PACE_CTL_BURST : Fld := ⟨27, 16⟩
def PACE_CTL_FLOOR : Fld := ⟨47, 32⟩
def PACE_CTL_EN : Fld := ⟨63, 63⟩
def PACE_STATUS_PKG_CAP : Fld := ⟨15, 0⟩
def PACE_STATUS_EFFECTIVE : Fld := ⟨31, 16⟩
def PACE_STATUS_CLAMPED : Fld := ⟨32, 32⟩
def PACE_STATUS_STARVED : Fld := ⟨33, 33⟩
def ARBREC_CTL_MODE : Fld := ⟨1, 0⟩
def ARBREC_CTL_GROUP : Fld := ⟨9, 4⟩
def ARBREC_CTL_QID : Fld := ⟨49, 32⟩
def ARBREC_CTL_REPLAY_TO : Fld := ⟨59, 52⟩
def ARBREC_STATUS_RECORDS : Fld := ⟨31, 0⟩
def ARBREC_STATUS_LOST : Fld := ⟨47, 32⟩
def ARBREC_STATUS_DIVERGED : Fld := ⟨48, 48⟩
def ARBREC_STATUS_ACTIVE : Fld := ⟨49, 49⟩
def ARBREC_STATUS_DENIED : Fld := ⟨50, 50⟩
def WEAR_STATUS_RATE : Fld := ⟨15, 0⟩
def WEAR_STATUS_WORST_ISLAND : Fld := ⟨31, 16⟩
def WEAR_STATUS_WARN : Fld := ⟨32, 32⟩
def WEAR_STATUS_REPLACE : Fld := ⟨33, 33⟩
def WEAR_STATUS_BELOW_FLOOR : Fld := ⟨34, 34⟩
def WEAR_BASE_BASE : Fld := ⟨15, 0⟩
def WEAR_CTL_WARN_PCT : Fld := ⟨7, 0⟩
def WEAR_CTL_REPLACE_PCT : Fld := ⟨15, 8⟩
def WEAR_CTL_REPLACE_MIN : Fld := ⟨31, 16⟩
def WEAR_CTL_PERIOD : Fld := ⟨47, 32⟩
def CORE_STATUS_ROLE : Fld := ⟨1, 0⟩
def CORE_STATUS_RUN : Fld := ⟨2, 2⟩
def CORE_STATUS_SEALED : Fld := ⟨3, 3⟩
def CORE_STATUS_PARTID : Fld := ⟨9, 4⟩
def CORE_ERR_L1_ERR : Fld := ⟨15, 0⟩
def CORE_ERR_L2_CE : Fld := ⟨31, 16⟩
def CORE_ERR_L2_TAG_RETRY : Fld := ⟨47, 32⟩
def CORE_ERR_L2_WAYS_OFF : Fld := ⟨51, 48⟩
def PAIR_CTL_PARTNER : Fld := ⟨5, 0⟩
def PAIR_CTL_BIND : Fld := ⟨8, 8⟩
def PAIR_STATUS_STATE : Fld := ⟨1, 0⟩
def PAIR_STATUS_PARTNER : Fld := ⟨7, 2⟩
def PAIR_STATUS_MISMATCH : Fld := ⟨8, 8⟩
def PAIR_STATUS_REFUSED : Fld := ⟨9, 9⟩
def PAIR_STATUS_REASON : Fld := ⟨15, 12⟩
def HOME_REG_PART : Fld := ⟨5, 0⟩
def HOME_REG_EN : Fld := ⟨6, 6⟩
def HOME_REG_BASE : Fld := ⟨25, 16⟩
def HOME_REG_LIMIT : Fld := ⟨41, 32⟩
def SLICE_STATUS_ROLE : Fld := ⟨1, 0⟩
def SLICE_STATUS_LOGICAL : Fld := ⟨7, 2⟩
def SLICE_STATUS_SPAD_WAYS : Fld := ⟨11, 8⟩
def SLICE_STATUS_SPAD_BUSY : Fld := ⟨12, 12⟩
def SLICE_STATUS_SPAD_IGNORED : Fld := ⟨13, 13⟩
def SLICE_STATUS_PWR : Fld := ⟨16, 14⟩
def SLICE_STATUS_REDIRECT : Fld := ⟨17, 17⟩
def SLICE_STATUS_EXTRA : Fld := ⟨23, 18⟩
def SPAD_CTL_WAYS : Fld := ⟨3, 0⟩
def LOCK_CTL_MAX : Fld := ⟨13, 0⟩
def LOCK_CTL_CLR_PART : Fld := ⟨21, 16⟩
def LOCK_CTL_CLR : Fld := ⟨22, 22⟩
def LOCK_CTL_CLR_ALL : Fld := ⟨23, 23⟩
def LOCK_STAT_LOCKED : Fld := ⟨13, 0⟩
def LOCK_STAT_LOCK_LOST : Fld := ⟨31, 16⟩
def LOCK_STAT_LOST_EVT : Fld := ⟨32, 32⟩
def SLICE_ERR_DATA_CE : Fld := ⟨15, 0⟩
def SLICE_ERR_DATA_POISON : Fld := ⟨31, 16⟩
def SLICE_ERR_TAG_FIX : Fld := ⟨47, 32⟩
def SLICE_ERR_WAYS_OFF : Fld := ⟨59, 48⟩
def SLICE_MAINT_OP : Fld := ⟨1, 0⟩
def SLICE_MAINT_GO : Fld := ⟨2, 2⟩
def SLICE_MAINT_BUSY : Fld := ⟨3, 3⟩
def SLICE_MAINT_SET : Fld := ⟨27, 16⟩
def WAYPART_MASK0 : Fld := ⟨15, 0⟩
def WAYPART_MASK1 : Fld := ⟨31, 16⟩
def WAYPART_MASK2 : Fld := ⟨47, 32⟩
def WAYPART_MASK3 : Fld := ⟨63, 48⟩
def COH_CTL_COMPAT : Fld := ⟨0, 0⟩
def COH_CTL_DWELL : Fld := ⟨13, 8⟩
def KPR_STATUS_ACTIVE : Fld := ⟨0, 0⟩
def KPR_STATUS_FAR_PKG : Fld := ⟨2, 1⟩
def KPR_STATUS_FAR_COMPAT : Fld := ⟨3, 3⟩
def KPR_STATUS_ENTRIES : Fld := ⟨21, 4⟩
def KPR_STATUS_EVICTS : Fld := ⟨37, 22⟩
def KPR_STATUS_ENTRY_CE : Fld := ⟨53, 38⟩
def COH_STATUS_OPEN : Fld := ⟨6, 0⟩
def COH_STATUS_WAITING : Fld := ⟨11, 7⟩
def COH_STATUS_CREDITS : Fld := ⟨18, 12⟩
def COH_STATUS_COMPAT_EFF : Fld := ⟨19, 19⟩
def COH_STATUS_COARSE : Fld := ⟨34, 20⟩
def COH_STAT_WB_CROSS : Fld := ⟨15, 0⟩
def COH_STAT_PINNED_WAIT : Fld := ⟨31, 16⟩
def COH_STAT_DEFERS : Fld := ⟨47, 32⟩
def COH_STAT_UPG_CONVERT : Fld := ⟨63, 48⟩
def COH_ERR_DIR_CE : Fld := ⟨15, 0⟩
def COH_ERR_DIR_REBUILD : Fld := ⟨31, 16⟩
def COH_ERR_POISONED : Fld := ⟨47, 32⟩
def COH_ERR_DIR_EVICT : Fld := ⟨63, 48⟩
def QTAB_EN : Fld := ⟨0, 0⟩
def QTAB_BASE : Fld := ⟨47, 19⟩
def QENG_STATUS_SLOTS : Fld := ⟨5, 0⟩
def QENG_STATUS_HEAD_SLOTS : Fld := ⟨11, 6⟩
def QENG_STATUS_WAITING : Fld := ⟨12, 12⟩
def QENG_STATUS_SLOT_WAIT : Fld := ⟨13, 13⟩
def QENG_STAT_EVICTS : Fld := ⟨15, 0⟩
def QENG_STAT_SPILLS : Fld := ⟨31, 16⟩
def QENG_STAT_REFILLS : Fld := ⟨47, 32⟩
def QENG_STAT_FORCED : Fld := ⟨63, 48⟩
def QENG_ERR_POISONED : Fld := ⟨15, 0⟩
def QENG_ERR_SPILL_REFUSED : Fld := ⟨31, 16⟩
def QENG_ERR_WIN_CE : Fld := ⟨47, 32⟩
def LCORE_PTILE : Fld := ⟨5, 0⟩
def LCORE_VALID : Fld := ⟨6, 6⟩
def LCORE_CHECKER : Fld := ⟨7, 7⟩
def LCORE_TL_SLICE : Fld := ⟨13, 8⟩
def LSLICE_PTILE : Fld := ⟨5, 0⟩
def LSLICE_VALID : Fld := ⟨6, 6⟩
def LSLICE_REDIRECTED : Fld := ⟨7, 7⟩
def TILEMAP_GEN_GEN : Fld := ⟨31, 0⟩
def ROUTE_DIE_BR : Fld := ⟨15, 0⟩
def ROUTE_REIN_ACT : Fld := ⟨31, 16⟩
def ROUTE_REIN_SPARE : Fld := ⟨47, 32⟩
def LNK_STATUS_SPARE_USED : Fld := ⟨15, 0⟩
def LNK_STATUS_CE : Fld := ⟨31, 16⟩
def LNK_STATUS_REPEATS : Fld := ⟨47, 32⟩
def LNK_STATUS_FAILED : Fld := ⟨48, 48⟩
def LNK_STATUS_PAUSED : Fld := ⟨49, 49⟩
def LNK_CTL_CE_LIMIT : Fld := ⟨15, 0⟩
def LNK_CTL_CE_WIN : Fld := ⟨31, 16⟩
def BWRES_REQ : Fld := ⟨5, 0⟩
def BWRES_SNP : Fld := ⟨11, 6⟩
def BWRES_RSP : Fld := ⟨17, 12⟩
def BWRES_DAT : Fld := ⟨23, 18⟩
def BWRES_QUE : Fld := ⟨29, 24⟩
def BWRES_EN : Fld := ⟨63, 63⟩
def BWSTAT_TOTAL : Fld := ⟨6, 0⟩
def BWSTAT_REFUSED : Fld := ⟨7, 7⟩
def SUCC_MASTER : Fld := ⟨2, 0⟩
def SUCC_EPOCH : Fld := ⟨19, 4⟩
def SUCC_SYS_MASTER : Fld := ⟨20, 20⟩
def SUCC_PKG : Fld := ⟨22, 21⟩
def SUCC_DEGRADED : Fld := ⟨23, 23⟩
def SUCC_TIMEOUT : Fld := ⟨39, 32⟩
def BRG_CTL_REPLAY_MAX : Fld := ⟨7, 0⟩
def BRG_CTL_REPLAY_WIN : Fld := ⟨23, 8⟩
def BRG_CTL_MARGIN_PERIOD : Fld := ⟨39, 24⟩
def BRG_STATUS_STATE : Fld := ⟨1, 0⟩
def BRG_STATUS_MOD_UP : Fld := ⟨3, 2⟩
def BRG_STATUS_REP0 : Fld := ⟨6, 4⟩
def BRG_STATUS_REP1 : Fld := ⟨9, 7⟩
def BRG_STATUS_LOW_RATE : Fld := ⟨11, 10⟩
def BRG_STATUS_NEIGHBOUR : Fld := ⟨14, 12⟩
def BRG_ERR_CRC_ERR : Fld := ⟨15, 0⟩
def BRG_ERR_REPLAYS : Fld := ⟨31, 16⟩
def BRG_ERR_RETRAINS : Fld := ⟨47, 32⟩
def REIN_CTL_REPLAY_MAX : Fld := ⟨7, 0⟩
def REIN_CTL_REPLAY_WIN : Fld := ⟨23, 8⟩
def REIN_CTL_MARGIN_PERIOD : Fld := ⟨39, 24⟩
def REIN_STATUS_STATE : Fld := ⟨2, 0⟩
def REIN_STATUS_FAR_PKG : Fld := ⟨4, 3⟩
def REIN_STATUS_FAR_DIE : Fld := ⟨7, 5⟩
def REIN_STATUS_FAR_COMPAT : Fld := ⟨8, 8⟩
def REIN_STATUS_FAR_MASTER : Fld := ⟨9, 9⟩
def REIN_STATUS_REFUSE : Fld := ⟨12, 10⟩
def REIN_STATUS_X8 : Fld := ⟨13, 13⟩
def REIN_STATUS_RATE32 : Fld := ⟨14, 14⟩
def REIN_ERR_CRC_ERR : Fld := ⟨15, 0⟩
def REIN_ERR_REPLAYS : Fld := ⟨31, 16⟩
def REIN_ERR_RETRAINS : Fld := ⟨47, 32⟩
def MEMMAP_MODE : Fld := ⟨0, 0⟩
def MEMMAP_LOCK : Fld := ⟨1, 1⟩
def MEMMAP_PORTS : Fld := ⟨13, 8⟩
def MEMMAP_DIE_GIB : Fld := ⟨23, 16⟩
def MEMMAP_USABLE_GIB : Fld := ⟨39, 24⟩
def MEMPORT_LPMAP : Fld := ⟨17, 0⟩
def MEMPORT_SPARE : Fld := ⟨20, 18⟩
def MEMPORT_SPARE_OK : Fld := ⟨21, 21⟩
def SRCQOS_CLASS : Fld := ⟨63, 0⟩
def PORT_CFG_DENSITY : Fld := ⟨1, 0⟩
def PORT_CFG_CLAMSHELL : Fld := ⟨2, 2⟩
def PORT_CFG_RATE : Fld := ⟨9, 4⟩
def PORT_CFG_QUAL : Fld := ⟨10, 10⟩
def PORT_CFG_INT_CLASS : Fld := ⟨15, 12⟩
def PORT_STATUS_STATE : Fld := ⟨3, 0⟩
def PORT_STATUS_LOADED_TRAINED : Fld := ⟨4, 4⟩
def PORT_STATUS_RATE_DOWN : Fld := ⟨5, 5⟩
def PORT_STATUS_MIRROR : Fld := ⟨6, 6⟩
def PORT_STATUS_POPULATED : Fld := ⟨7, 7⟩
def PORT_STATUS_RATE_NOW : Fld := ⟨13, 8⟩
def PORT_STATUS_SLOTS : Fld := ⟨25, 16⟩
def PORT_STATUS_MASK_REFUSED : Fld := ⟨26, 26⟩
def PORT_STATUS_RESV_REFUSED : Fld := ⟨27, 27⟩
def PORT_STATUS_REMAP_FULL : Fld := ⟨28, 28⟩
def CHMASK_MASK : Fld := ⟨47, 0⟩
def BAMASK_MASK : Fld := ⟨47, 0⟩
def QOS_TGT_TGT : Fld := ⟨63, 0⟩
def PORT_RESV_PART : Fld := ⟨5, 0⟩
def PORT_RESV_EN : Fld := ⟨6, 6⟩
def PORT_RESV_SLOTS : Fld := ⟨17, 8⟩
def PORT_RESV_SHARE : Fld := ⟨23, 18⟩
def RD_CTL_THRESH : Fld := ⟨15, 0⟩
def RD_CTL_WINDOW : Fld := ⟨23, 16⟩
def RD_CTL_RADIUS : Fld := ⟨25, 24⟩
def RD_CTL_THR_GAP : Fld := ⟨39, 32⟩
def RD_CTL_THR_TIME : Fld := ⟨47, 40⟩
def RD_CTL_THR_SLOTS : Fld := ⟨54, 48⟩
def RD_STAT_TRIGGERS : Fld := ⟨15, 0⟩
def RD_STAT_THROTTLES : Fld := ⟨31, 16⟩
def RD_STAT_HOLD_FULL : Fld := ⟨47, 32⟩
def RD_STAT_ACTIVE : Fld := ⟨52, 48⟩
def TRAIN_CTL_PERIOD : Fld := ⟨6, 0⟩
def TRAIN_CTL_TEMP_WIN : Fld := ⟨15, 8⟩
def TRAIN_CTL_CUR_WIN : Fld := ⟨31, 16⟩
def TRAIN_CTL_MAX_TRIES : Fld := ⟨35, 32⟩
def TRAIN_REC_CAP_CURRENT : Fld := ⟨15, 0⟩
def TRAIN_REC_CAP_TEMP : Fld := ⟨23, 16⟩
def TRAIN_REC_RETRAINS : Fld := ⟨39, 24⟩
def LINK_ERR_RD_CRC : Fld := ⟨15, 0⟩
def LINK_ERR_WR_CRC : Fld := ⟨31, 16⟩
def LINK_ERR_RETRY_FAIL : Fld := ⟨47, 32⟩
def PORT_COPY_TARGET : Fld := ⟨2, 0⟩
def PORT_COPY_ACTIVE : Fld := ⟨3, 3⟩
def PORT_COPY_DONE : Fld := ⟨31, 8⟩
def REMAP_VALID : Fld := ⟨0, 0⟩
def REMAP_BUSY : Fld := ⟨1, 1⟩
def REMAP_BANK : Fld := ⟨5, 2⟩
def REMAP_ROW : Fld := ⟨21, 6⟩
def REMAP_TBANK : Fld := ⟨25, 22⟩
def REMAP_TSPARE : Fld := ⟨29, 26⟩
def CODE_REG_BASE : Fld := ⟨9, 0⟩
def CODE_REG_LIMIT : Fld := ⟨25, 16⟩
def CODE_REG_CODE : Fld := ⟨32, 32⟩
def CODE_REG_EN : Fld := ⟨33, 33⟩
def CODE_REG_CONV : Fld := ⟨34, 34⟩
def CODE_CONV_REGION : Fld := ⟨5, 0⟩
def CODE_CONV_NEWCODE : Fld := ⟨6, 6⟩
def CODE_CONV_BUSY : Fld := ⟨7, 7⟩
def CODE_CONV_PORTS_LEFT : Fld := ⟨13, 8⟩
def ECC_CTL_REPAIR_AT : Fld := ⟨3, 0⟩
def ECC_CTL_SCRUB_HOURS : Fld := ⟨15, 8⟩
def ECC_CTL_SCRUB_EN : Fld := ⟨16, 16⟩
def ECC_CTL_CE_EVERY : Fld := ⟨47, 32⟩
def ECC_STAT_CE_DEMAND : Fld := ⟨15, 0⟩
def ECC_STAT_CE_SCRUB : Fld := ⟨31, 16⟩
def ECC_STAT_UE : Fld := ⟨47, 32⟩
def ECC_STAT_POISON_RD : Fld := ⟨63, 48⟩
def TRACK_STAT_IN_USE : Fld := ⟨8, 0⟩
def TRACK_STAT_REWRITES : Fld := ⟨31, 16⟩
def TRACK_STAT_HARD : Fld := ⟨47, 32⟩
def TRACK_STAT_UNTRACKED : Fld := ⟨63, 48⟩
def SCRUB_STATUS_LINE : Fld := ⟨31, 0⟩
def SCRUB_STATUS_PASSES : Fld := ⟨47, 32⟩
def SCRUB_STATUS_FILLED : Fld := ⟨48, 48⟩
def CONV_FENCE_GROUP : Fld := ⟨31, 0⟩
def CONV_FENCE_ACTIVE : Fld := ⟨32, 32⟩
def CCACHE_ERR_CE : Fld := ⟨15, 0⟩
def CCACHE_ERR_REREAD : Fld := ⟨31, 16⟩
def CCACHE_ERR_LOST : Fld := ⟨47, 32⟩
def FW_CFG_EN : Fld := ⟨0, 0⟩
def FW_CFG_R : Fld := ⟨1, 1⟩
def FW_CFG_W : Fld := ⟨2, 2⟩
def FW_CFG_NS : Fld := ⟨3, 3⟩
def FW_CFG_BASE : Fld := ⟨47, 21⟩
def FW_CFG_LOCKED : Fld := ⟨63, 63⟩
def FW_LIMIT_LIMIT : Fld := ⟨47, 21⟩
def FW_MASK_MASK : Fld := ⟨63, 0⟩
def FW_STATUS_REFUSED : Fld := ⟨15, 0⟩
def FW_STATUS_PENDING : Fld := ⟨16, 16⟩
def FW_STATUS_EVT : Fld := ⟨17, 17⟩
def FW_LAST_ADDR : Fld := ⟨47, 0⟩
def FW_LAST_PART : Fld := ⟨53, 48⟩
def FW_LAST_NS : Fld := ⟨54, 54⟩
def FW_LAST_WRITE : Fld := ⟨55, 55⟩
def FW_LAST_SRC : Fld := ⟨57, 56⟩
def HYP_PART_NS_HYP : Fld := ⟨5, 0⟩
def HYP_PART_S_HYP : Fld := ⟨13, 8⟩
def SVC_CTL_TIMEOUT : Fld := ⟨15, 0⟩
def SVC_CTL_GRACE : Fld := ⟨23, 16⟩
def DBG_STATUS_NW_OBSERVE : Fld := ⟨0, 0⟩
def DBG_STATUS_NW_CONTROL : Fld := ⟨1, 1⟩
def DBG_STATUS_SW_OBSERVE : Fld := ⟨2, 2⟩
def DBG_STATUS_SW_CONTROL : Fld := ⟨3, 3⟩
def DBG_STATUS_FUSED_OFF : Fld := ⟨7, 4⟩
def DBG_STATUS_FAILS : Fld := ⟨9, 8⟩
def DBG_STATUS_LOCKOUT : Fld := ⟨10, 10⟩
def DBG_STATUS_KEYSLOT : Fld := ⟨12, 11⟩
def SVC_DOWN_SVC : Fld := ⟨11, 0⟩
def SVC_DOWN_VALID : Fld := ⟨12, 12⟩
def SVC_STATUS_ARMED : Fld := ⟨0, 0⟩
def SVC_STATUS_EXPIRED : Fld := ⟨1, 1⟩
def SVC_STATUS_FORCED : Fld := ⟨2, 2⟩
def SVC_STATUS_SVC : Fld := ⟨27, 16⟩
def SVC_STATUS_BY_EVENT : Fld := ⟨28, 28⟩
def SVC_STATUS_FORCED_COUNT : Fld := ⟨47, 32⟩
def PART_STATE : Fld := ⟨2, 0⟩
def PART_WORLD : Fld := ⟨3, 3⟩
def PART_CMD : Fld := ⟨6, 4⟩
def PART_BUSY : Fld := ⟨7, 7⟩
def PART_RESULT : Fld := ⟨11, 8⟩
def PART_OWN_PORTS : Fld := ⟨12, 12⟩
def CORE_OWN_PART : Fld := ⟨5, 0⟩
def CORE_OWN_EN : Fld := ⟨6, 6⟩
def SLICE_OWN_PART : Fld := ⟨5, 0⟩
def SLICE_OWN_EN : Fld := ⟨6, 6⟩
def EVC_ROUTE_EN : Fld := ⟨0, 0⟩
def EVC_ROUTE_GROUP : Fld := ⟨1, 1⟩
def EVC_ROUTE_PRIO : Fld := ⟨3, 2⟩
def EVC_ROUTE_TLVL : Fld := ⟨4, 4⟩
def EVC_ROUTE_DIE : Fld := ⟨10, 8⟩
def EVC_ROUTE_CORE : Fld := ⟨16, 11⟩
def EVC_ROUTE_RAISE_PART : Fld := ⟨22, 17⟩
def EVC_ROUTE_RAISE_ANY : Fld := ⟨23, 23⟩
def EVC_ROUTE_PENDING : Fld := ⟨24, 24⟩
def EVC_ROUTE_ACTIVE : Fld := ⟨25, 25⟩
def EVC_ROUTE_STRANDED : Fld := ⟨26, 26⟩
def EVC_PEND_PEND : Fld := ⟨63, 0⟩
def TIM_NOW_NOW : Fld := ⟨63, 0⟩
def TIM_CTL_PPS_EN : Fld := ⟨0, 0⟩
def TIM_CTL_SLEW_US : Fld := ⟨15, 8⟩
def TIM_ADJ_PHASE : Fld := ⟨31, 0⟩
def TIM_ADJ_FREQ : Fld := ⟨55, 32⟩
def PPS_CAP_CAP : Fld := ⟨63, 0⟩
def REF_CFG_INCR : Fld := ⟨35, 0⟩
def TIM_QUALITY_UNCERT : Fld := ⟨31, 0⟩
def TIM_QUALITY_RC_USED : Fld := ⟨32, 32⟩
def TIM_QUALITY_SYNCED : Fld := ⟨33, 33⟩
def TIM_QUALITY_PPS_LOCKED : Fld := ⟨34, 34⟩
def TIM_QUALITY_STOPS : Fld := ⟨55, 40⟩
def LAST_GAP_TICKS : Fld := ⟨31, 0⟩
def RTC_CFG_RC : Fld := ⟨0, 0⟩
def RTC_CFG_PPM : Fld := ⟨15, 8⟩
def SUPPLY_VIN : Fld := ⟨15, 0⟩
def SUPPLY_IIN : Fld := ⟨31, 16⟩
def SUPPLY_VSB : Fld := ⟨47, 32⟩
def SUPPLY_VIN_OOR : Fld := ⟨48, 48⟩
def PKG_LIMIT_LIMIT_W : Fld := ⟨15, 0⟩
def PKG_LIMIT_ICC_MAX : Fld := ⟨31, 16⟩
def PKG_LIMIT_GOV_EN : Fld := ⟨32, 32⟩
def PKG_STATUS_POWER_W : Fld := ⟨15, 0⟩
def PKG_STATUS_CAP : Fld := ⟨31, 16⟩
def PKG_STATUS_UNMET : Fld := ⟨32, 32⟩
def PKG_STATUS_FAST_CLAMP : Fld := ⟨33, 33⟩
def PKG_STATUS_DERATED : Fld := ⟨34, 34⟩
def THERM_CTL_WARN : Fld := ⟨7, 0⟩
def THERM_CTL_THROTTLE : Fld := ⟨15, 8⟩
def THERM_STATUS_TJ_MAX : Fld := ⟨7, 0⟩
def THERM_STATUS_SENSOR : Fld := ⟨15, 8⟩
def THERM_STATUS_WARN_SEEN : Fld := ⟨16, 16⟩
def THERM_STATUS_NEAR_TRIP : Fld := ⟨17, 17⟩
def LAST_WAKE_SRC_DOM : Fld := ⟨6, 0⟩
def LAST_WAKE_SRC_CAUSE : Fld := ⟨10, 8⟩
def LAST_WAKE_SRC_EVNUM : Fld := ⟨23, 12⟩
def LAST_WAKE_SRC_GEN : Fld := ⟨31, 24⟩
def LAST_WAKE_TIME : Fld := ⟨63, 0⟩
def PHASE_STATUS_IN_SERVICE : Fld := ⟨35, 0⟩
def PHASE_STATUS_SPARES_LEFT : Fld := ⟨38, 36⟩
def DOM_CTL_REQ : Fld := ⟨1, 0⟩
def DOM_CTL_SECURE_HOLD : Fld := ⟨2, 2⟩
def DOM_CTL_VOLT : Fld := ⟨19, 8⟩
def DOM_CTL_OPP : Fld := ⟨22, 20⟩
def DOM_CTL_RET_V : Fld := ⟨43, 32⟩
def DOM_STATUS_STATE : Fld := ⟨2, 0⟩
def DOM_STATUS_RESULT : Fld := ⟨6, 3⟩
def DOM_STATUS_HELD : Fld := ⟨7, 7⟩
def DOM_STATUS_VNOW : Fld := ⟨19, 8⟩
def DOM_STATUS_VMIN_LATCH : Fld := ⟨31, 20⟩
def DOM_STATUS_LOST_BANKS : Fld := ⟨39, 32⟩
def DOM_STATUS_LOST_EVT : Fld := ⟨40, 40⟩
def DOM_STATUS_STATE_LOST : Fld := ⟨41, 41⟩
def NS_DOMREQ_DOM : Fld := ⟨6, 0⟩
def NS_DOMREQ_REQ : Fld := ⟨9, 8⟩
def NS_DOMRES_DOM : Fld := ⟨6, 0⟩
def NS_DOMRES_DONE : Fld := ⟨7, 7⟩
def NS_DOMRES_RESULT : Fld := ⟨11, 8⟩
def RUNCTL_CMD : Fld := ⟨1, 0⟩
def RUNCTL_RUN : Fld := ⟨2, 2⟩
def RUNCTL_KEPT : Fld := ⟨3, 3⟩
def RUNCTL_RESULT : Fld := ⟨7, 4⟩
def RUNCTL_WAKE_EV : Fld := ⟨8, 8⟩
def PWR_ENTRY_ADDR : Fld := ⟨63, 2⟩
def HSP_MODE_MODE : Fld := ⟨1, 0⟩
def HSP_MODE_LINK_UP : Fld := ⟨2, 2⟩
def HSP_MODE_WIDTH : Fld := ⟨7, 3⟩
def HSP_MODE_RATE : Fld := ⟨10, 8⟩
def HSP_MODE_FLIT : Fld := ⟨11, 11⟩
def HSP_MODE_LSTATE : Fld := ⟨13, 12⟩
def HSP_MODE_PERST : Fld := ⟨14, 14⟩
def OB_HI_ADDR : Fld := ⟨23, 0⟩
def DB_CTL_DB_TO : Fld := ⟨15, 0⟩
def FN_CFG_EN : Fld := ⟨0, 0⟩
def FN_CFG_NS : Fld := ⟨1, 1⟩
def FN_CFG_PART : Fld := ⟨7, 2⟩
def FN_CFG_P2P : Fld := ⟨8, 8⟩
def FN_CFG_PME_REQ : Fld := ⟨9, 9⟩
def FN_STATUS_DSTATE : Fld := ⟨1, 0⟩
def FN_STATUS_BME : Fld := ⟨2, 2⟩
def FN_STATUS_MSE : Fld := ⟨3, 3⟩
def FN_STATUS_QUIESCING : Fld := ⟨4, 4⟩
def FN_STATUS_FLR_BUSY : Fld := ⟨5, 5⟩
def FN_STATUS_VF_EN : Fld := ⟨6, 6⟩
def FN_STATUS_OUTSTANDING : Fld := ⟨17, 8⟩
def FN_STATUS_OB_DISCARD : Fld := ⟨39, 32⟩
def FN_STATUS_DB_DISCARD : Fld := ⟨47, 40⟩
def FN_STATUS_CPL_DISCARD : Fld := ⟨63, 48⟩
def FN_MSIX_SEND_VEC : Fld := ⟨8, 0⟩
def WIN_BASE_BASE : Fld := ⟨47, 12⟩
def WIN_CTL_EN : Fld := ⟨0, 0⟩
def WIN_CTL_SIZE_LG : Fld := ⟨5, 1⟩
def WIN_CTL_BUS_BASE : Fld := ⟨63, 12⟩
def WIN_COMMIT_GO : Fld := ⟨0, 0⟩
def WIN_STATUS_PENDING : Fld := ⟨0, 0⟩
def WIN_STATUS_HELD : Fld := ⟨1, 1⟩
def WIN_STATUS_REFUSED : Fld := ⟨31, 16⟩
def WIN_STATUS_COMMITS : Fld := ⟨47, 32⟩
def DB_MAP_QID : Fld := ⟨17, 0⟩
def DB_MAP_FORM : Fld := ⟨19, 18⟩
def DB_MAP_EN : Fld := ⟨20, 20⟩
def DMA_CFG_FN : Fld := ⟨6, 0⟩
def DMA_CFG_EN : Fld := ⟨7, 7⟩
def DMA_CFG_STOP_ON_ERR : Fld := ⟨8, 8⟩
def DMA_CFG_DQ : Fld := ⟨31, 14⟩
def DMA_CFG_CQ : Fld := ⟨49, 32⟩
def DMA_CTL_RESUME : Fld := ⟨0, 0⟩
def DMA_CTL_ABORT : Fld := ⟨1, 1⟩
def DMA_STATUS_STATE : Fld := ⟨2, 0⟩
def DMA_STATUS_LAST_STATUS : Fld := ⟨7, 4⟩
def DMA_STATUS_DONE : Fld := ⟨63, 32⟩
def DMA_CUR_CUR : Fld := ⟨63, 0⟩
def MSI_CAP_EN : Fld := ⟨0, 0⟩
def MSI_CAP_ADDR : Fld := ⟨63, 12⟩
def MSI_MAP_EN : Fld := ⟨0, 0⟩
def MSI_MAP_GROUP : Fld := ⟨1, 1⟩
def MSI_MAP_DIE : Fld := ⟨4, 2⟩
def MSI_MAP_CORE : Fld := ⟨10, 5⟩
def MSI_MAP_VEC : Fld := ⟨18, 11⟩
def LOG_CTL_QID : Fld := ⟨17, 0⟩
def LOG_CTL_EN : Fld := ⟨18, 18⟩
def RAS_HOLD_HELD : Fld := ⟨6, 0⟩
def RAS_HOLD_LOST_CE : Fld := ⟨31, 16⟩
def RAS_HOLD_LOST_OTHER : Fld := ⟨47, 32⟩
def SPARE_CTL_WEAR_CORE : Fld := ⟨0, 0⟩
def SPARE_CTL_WEAR_SLICE : Fld := ⟨1, 1⟩
def SPARE_CTL_WEAR_OTHER : Fld := ⟨2, 2⟩
def SPARE_CTL_PORT_LOSS_RESERVE : Fld := ⟨3, 3⟩
def SPARE_CTL_PORT_UE_LIMIT : Fld := ⟨15, 8⟩
def SPARE_CTL_PORT_RETRY_LIMIT : Fld := ⟨23, 16⟩
def RAS_RESTITCH_ACTIVE : Fld := ⟨0, 0⟩
def RAS_RESTITCH_PHASE : Fld := ⟨2, 1⟩
def RAS_RESTITCH_KIND : Fld := ⟨15, 8⟩
def RAS_RESTITCH_UNIT : Fld := ⟨23, 16⟩
def RAS_RESTITCH_LAST : Fld := ⟨27, 24⟩
def RAS_RESTITCH_LAST_STALL : Fld := ⟨47, 32⟩
def RAS_RESTITCH_COUNT : Fld := ⟨63, 48⟩
def RAS_RESERVE_IN : Fld := ⟨0, 0⟩
def RAS_RESERVE_CAUSE : Fld := ⟨3, 1⟩
def RAS_RESERVE_WB_INCOMPLETE : Fld := ⟨4, 4⟩
def RAS_RESERVE_EXITING : Fld := ⟨5, 5⟩
def RAS_INJECT_KIND : Fld := ⟨7, 0⟩
def RAS_INJECT_UNIT : Fld := ⟨15, 8⟩
def RAS_INJECT_TYPE : Fld := ⟨17, 16⟩
def RAS_INJECT_GO : Fld := ⟨18, 18⟩
def STRAPS_MASTER_SEL : Fld := ⟨0, 0⟩
def STRAPS_PKG_ID : Fld := ⟨2, 1⟩
def STRAPS_BOOT_SRC : Fld := ⟨4, 3⟩
def STRAPS_PORTMODE : Fld := ⟨23, 8⟩
def BOOT_STATUS_STAGE : Fld := ⟨3, 0⟩
def BOOT_STATUS_STOP : Fld := ⟨7, 4⟩
def BOOT_STATUS_CAUSE : Fld := ⟨15, 8⟩
def BOOT_STATUS_RELEASED : Fld := ⟨16, 16⟩
def BOOT_STATUS_WARM_REFUSED : Fld := ⟨17, 17⟩
def RESET_CTL_WARM : Fld := ⟨0, 0⟩
def ROOT_RST_ASSERT : Fld := ⟨0, 0⟩

end Fl

namespace RegTable

/-- Rows of block `CRN`. -/
def crn : List RegRow := [
  -- STRAPS
  ⟨0x2000, [], [⟨0, 0, .ro, 0x0⟩, ⟨2, 1, .ro, 0x0⟩, ⟨4, 3, .ro, 0x0⟩, ⟨23, 8, .ro, 0x0⟩]⟩,
  -- BOOT_STATUS
  ⟨0x2008, [], [⟨3, 0, .ro, 0x0⟩, ⟨7, 4, .ro, 0x0⟩, ⟨15, 8, .ro, 0x0⟩, ⟨16, 16, .ro, 0x0⟩, ⟨17, 17, .w1c, 0x0⟩]⟩,
  -- RESET_CTL
  ⟨0x2010, [], [⟨0, 0, .wo, 0x0⟩]⟩]
/-- Rows of block `EVC`. -/
def evc : List RegRow := [
  -- EVC_ROUTE
  ⟨0x100000, [(0x8, 511)], [⟨0, 0, .rw, 0x0⟩, ⟨1, 1, .rw, 0x0⟩, ⟨3, 2, .rw, 0x3⟩, ⟨4, 4, .rw, 0x0⟩, ⟨10, 8, .rw, 0x0⟩, ⟨16, 11, .rw, 0x0⟩, ⟨22, 17, .rw, 0x0⟩, ⟨23, 23, .rw, 0x0⟩, ⟨24, 24, .ro, 0x0⟩, ⟨25, 25, .ro, 0x0⟩, ⟨26, 26, .w1c, 0x0⟩]⟩,
  -- EVC_PEND
  ⟨0x101000, [(0x8, 8)], [⟨63, 0, .ro, 0x0⟩]⟩]
/-- Rows of block `TIM`. -/
def tim : List RegRow := [
  -- TIM_NOW
  ⟨0x200000, [], [⟨63, 0, .ro, 0x0⟩]⟩,
  -- TIM_CTL
  ⟨0x200008, [], [⟨0, 0, .rw, 0x0⟩, ⟨15, 8, .rw, 0xa⟩]⟩,
  -- TIM_ADJ
  ⟨0x200010, [], [⟨31, 0, .rw, 0x0⟩, ⟨55, 32, .rw, 0x0⟩]⟩,
  -- PPS_CAP
  ⟨0x200018, [], [⟨63, 0, .ro, 0x0⟩]⟩,
  -- REF_CFG
  ⟨0x200020, [], [⟨35, 0, .rw, 0xa000000⟩]⟩,
  -- TIM_QUALITY
  ⟨0x200028, [], [⟨31, 0, .rw, 0x0⟩, ⟨32, 32, .w1c, 0x0⟩, ⟨33, 33, .ro, 0x0⟩, ⟨34, 34, .ro, 0x0⟩, ⟨55, 40, .rw, 0x0⟩]⟩,
  -- LAST_GAP
  ⟨0x200030, [], [⟨31, 0, .ro, 0x0⟩]⟩,
  -- RTC_CFG
  ⟨0x200038, [], [⟨0, 0, .ro, 0x0⟩, ⟨15, 8, .rw, 0x32⟩]⟩]
/-- Rows of block `PWR`. -/
def pwr0 : List RegRow := [
  -- SUPPLY
  ⟨0x300000, [], [⟨15, 0, .ro, 0x0⟩, ⟨31, 16, .ro, 0x0⟩, ⟨47, 32, .ro, 0x0⟩, ⟨48, 48, .ro, 0x0⟩]⟩,
  -- PKG_LIMIT
  ⟨0x300008, [], [⟨15, 0, .rw, 0x0⟩, ⟨31, 16, .rw, 0x280⟩, ⟨32, 32, .rw, 0x1⟩]⟩,
  -- PKG_STATUS
  ⟨0x300010, [], [⟨15, 0, .ro, 0x0⟩, ⟨31, 16, .ro, 0x0⟩, ⟨32, 32, .ro, 0x0⟩, ⟨33, 33, .w1c, 0x0⟩, ⟨34, 34, .ro, 0x0⟩]⟩,
  -- THERM_CTL
  ⟨0x300018, [], [⟨7, 0, .rw, 0x5f⟩, ⟨15, 8, .rw, 0x64⟩]⟩,
  -- THERM_STATUS
  ⟨0x300020, [], [⟨7, 0, .ro, 0x0⟩, ⟨15, 8, .ro, 0x0⟩, ⟨16, 16, .w1c, 0x0⟩, ⟨17, 17, .w1c, 0x0⟩]⟩,
  -- LAST_WAKE_SRC
  ⟨0x300028, [], [⟨6, 0, .ro, 0x0⟩, ⟨10, 8, .ro, 0x0⟩, ⟨23, 12, .ro, 0xfff⟩, ⟨31, 24, .ro, 0x0⟩]⟩,
  -- LAST_WAKE
  ⟨0x300030, [], [⟨63, 0, .ro, 0x0⟩]⟩,
  -- PHASE_STATUS
  ⟨0x300040, [], [⟨35, 0, .ro, 0x0⟩, ⟨38, 36, .ro, 0x0⟩]⟩,
  -- DOM_CTL
  ⟨0x301000, [(0x8, 101)], [⟨1, 0, .rw, 0x0⟩, ⟨2, 2, .rw, 0x0⟩, ⟨19, 8, .rw, 0x0⟩, ⟨22, 20, .ro, 0x0⟩, ⟨43, 32, .rw, 0x190⟩]⟩,
  -- DOM_STATUS
  ⟨0x302000, [(0x8, 101)], [⟨2, 0, .ro, 0x0⟩, ⟨6, 3, .ro, 0xf⟩, ⟨7, 7, .ro, 0x0⟩, ⟨19, 8, .ro, 0x0⟩, ⟨31, 20, .ro, 0x0⟩, ⟨39, 32, .ro, 0x0⟩, ⟨40, 40, .w1c, 0x0⟩, ⟨41, 41, .w1c, 0x0⟩]⟩,
  -- NS_DOMREQ
  ⟨0x304000, [], [⟨6, 0, .wo, 0x0⟩, ⟨9, 8, .wo, 0x0⟩]⟩,
  -- NS_DOMRES
  ⟨0x304008, [], [⟨6, 0, .ro, 0x0⟩, ⟨7, 7, .ro, 0x0⟩, ⟨11, 8, .ro, 0xf⟩]⟩]
/-- Rows of block `PWR`. -/
def pwr1 : List RegRow := [
  -- PACE_CTL
  ⟨0x320000, [(0x10, 44)], [⟨15, 0, .rw, 0x0⟩, ⟨27, 16, .rw, 0x100⟩, ⟨47, 32, .rwl, 0x0⟩, ⟨63, 63, .rw, 0x0⟩]⟩,
  -- PACE_STATUS
  ⟨0x320008, [(0x10, 44)], [⟨15, 0, .ro, 0x0⟩, ⟨31, 16, .ro, 0x0⟩, ⟨32, 32, .w1c, 0x0⟩, ⟨33, 33, .w1c, 0x0⟩]⟩,
  -- RUNCTL
  ⟨0x330000, [(0x10, 40)], [⟨1, 0, .wo, 0x0⟩, ⟨2, 2, .ro, 0x0⟩, ⟨3, 3, .ro, 0x0⟩, ⟨7, 4, .ro, 0xf⟩, ⟨8, 8, .wo, 0x0⟩]⟩,
  -- PWR_ENTRY
  ⟨0x330008, [(0x10, 40)], [⟨63, 2, .rw, 0x0⟩]⟩]
/-- Rows of block `MSH`. -/
def msh0 : List RegRow := [
  -- LCORE
  ⟨0x401000, [(0x8, 40)], [⟨5, 0, .ro, 0x0⟩, ⟨6, 6, .ro, 0x0⟩, ⟨7, 7, .ro, 0x0⟩, ⟨13, 8, .ro, 0x0⟩]⟩,
  -- LSLICE
  ⟨0x401200, [(0x8, 42)], [⟨5, 0, .ro, 0x0⟩, ⟨6, 6, .ro, 0x0⟩, ⟨7, 7, .ro, 0x0⟩]⟩,
  -- TILEMAP_GEN
  ⟨0x401400, [], [⟨31, 0, .ro, 0x0⟩]⟩,
  -- HOME_REG
  ⟨0x402000, [(0x8, 64)], [⟨5, 0, .rwl, 0x0⟩, ⟨6, 6, .rwl, 0x0⟩, ⟨25, 16, .rwl, 0x0⟩, ⟨41, 32, .rwl, 0x0⟩]⟩,
  -- COH_CTL
  ⟨0x403000, [], [⟨0, 0, .rw, 0x0⟩, ⟨13, 8, .rw, 0x4⟩]⟩,
  -- QTAB
  ⟨0x404000, [], [⟨0, 0, .rw, 0x0⟩, ⟨47, 19, .rw, 0x0⟩]⟩,
  -- ROUTE
  ⟨0x405000, [], [⟨15, 0, .ro, 0x0⟩, ⟨31, 16, .ro, 0x0⟩, ⟨47, 32, .ro, 0x0⟩]⟩,
  -- LNK_STATUS
  ⟨0x406000, [(0x8, 194)], [⟨15, 0, .ro, 0x0⟩, ⟨31, 16, .rw, 0x0⟩, ⟨47, 32, .rw, 0x0⟩, ⟨48, 48, .ro, 0x0⟩, ⟨49, 49, .ro, 0x0⟩]⟩,
  -- LNK_CTL
  ⟨0x406800, [], [⟨15, 0, .rw, 0x10⟩, ⟨31, 16, .rw, 0x3e8⟩]⟩,
  -- BWRES
  ⟨0x407000, [(0x8, 64)], [⟨5, 0, .rwl, 0x0⟩, ⟨11, 6, .rwl, 0x0⟩, ⟨17, 12, .rwl, 0x0⟩, ⟨23, 18, .rwl, 0x0⟩, ⟨29, 24, .rwl, 0x0⟩, ⟨63, 63, .rwl, 0x0⟩]⟩,
  -- BWSTAT
  ⟨0x407200, [], [⟨6, 0, .ro, 0x0⟩, ⟨7, 7, .w1c, 0x0⟩]⟩,
  -- SUCC
  ⟨0x408000, [], [⟨2, 0, .ro, 0x0⟩, ⟨19, 4, .ro, 0x0⟩, ⟨20, 20, .ro, 0x0⟩, ⟨22, 21, .ro, 0x0⟩, ⟨23, 23, .ro, 0x0⟩, ⟨39, 32, .rw, 0xa⟩]⟩]
/-- Rows of block `MSH`. -/
def msh1 : List RegRow := [
  -- MEMMAP
  ⟨0x409000, [], [⟨0, 0, .rw, 0x0⟩, ⟨1, 1, .w1s, 0x0⟩, ⟨13, 8, .ro, 0x0⟩, ⟨23, 16, .ro, 0x0⟩, ⟨39, 24, .ro, 0x0⟩]⟩,
  -- MEMPORT
  ⟨0x409008, [], [⟨17, 0, .ro, 0x2c688⟩, ⟨20, 18, .ro, 0x6⟩, ⟨21, 21, .ro, 0x0⟩]⟩,
  -- SRCQOS
  ⟨0x409100, [(0x8, 4)], [⟨63, 0, .rw, 0x0⟩]⟩,
  -- CODE_REG
  ⟨0x40A000, [(0x8, 64)], [⟨9, 0, .rw, 0x0⟩, ⟨25, 16, .rw, 0x0⟩, ⟨32, 32, .rw, 0x0⟩, ⟨33, 33, .rw, 0x0⟩, ⟨34, 34, .ro, 0x0⟩]⟩,
  -- CODE_CONV
  ⟨0x40A200, [], [⟨5, 0, .ro, 0x0⟩, ⟨6, 6, .ro, 0x0⟩, ⟨7, 7, .ro, 0x0⟩, ⟨13, 8, .ro, 0x0⟩]⟩,
  -- ARBREC_CTL
  ⟨0x40F000, [], [⟨1, 0, .rw, 0x0⟩, ⟨9, 4, .rw, 0x0⟩, ⟨49, 32, .rw, 0x0⟩, ⟨59, 52, .rw, 0xa⟩]⟩,
  -- ARBREC_STATUS
  ⟨0x40F008, [], [⟨31, 0, .ro, 0x0⟩, ⟨47, 32, .ro, 0x0⟩, ⟨48, 48, .w1c, 0x0⟩, ⟨49, 49, .ro, 0x0⟩, ⟨50, 50, .w1c, 0x0⟩]⟩]
/-- Rows of block `BRG`. -/
def brg : List RegRow := [
  -- BRG_CTL
  ⟨0x500000, [(0x10000, 3)], [⟨7, 0, .rw, 0x8⟩, ⟨23, 8, .rw, 0xa⟩, ⟨39, 24, .rw, 0x3e8⟩]⟩,
  -- BRG_STATUS
  ⟨0x500008, [(0x10000, 3)], [⟨1, 0, .ro, 0x0⟩, ⟨3, 2, .ro, 0x0⟩, ⟨6, 4, .ro, 0x0⟩, ⟨9, 7, .ro, 0x0⟩, ⟨11, 10, .ro, 0x0⟩, ⟨14, 12, .ro, 0x0⟩]⟩,
  -- BRG_ERR
  ⟨0x500010, [(0x10000, 3)], [⟨15, 0, .rw, 0x0⟩, ⟨31, 16, .rw, 0x0⟩, ⟨47, 32, .rw, 0x0⟩]⟩]
/-- Rows of block `HSP`. -/
def hsp0 : List RegRow := [
  -- HSP_MODE
  ⟨0x600000, [], [⟨1, 0, .ro, 0x0⟩, ⟨2, 2, .ro, 0x0⟩, ⟨7, 3, .ro, 0x0⟩, ⟨10, 8, .ro, 0x0⟩, ⟨11, 11, .ro, 0x0⟩, ⟨13, 12, .ro, 0x3⟩, ⟨14, 14, .ro, 0x0⟩]⟩,
  -- OB_HI
  ⟨0x600008, [], [⟨23, 0, .rw, 0x0⟩]⟩,
  -- DB_CTL
  ⟨0x600010, [], [⟨15, 0, .rw, 0x3e8⟩]⟩,
  -- ROOT_RST
  ⟨0x600018, [], [⟨0, 0, .rw, 0x1⟩]⟩,
  -- FN_CFG
  ⟨0x610000, [(0x20, 66)], [⟨0, 0, .rw, 0x0⟩, ⟨1, 1, .rw, 0x0⟩, ⟨7, 2, .rw, 0x0⟩, ⟨8, 8, .rw, 0x0⟩, ⟨9, 9, .wo, 0x0⟩]⟩,
  -- FN_STATUS
  ⟨0x610008, [(0x20, 66)], [⟨1, 0, .ro, 0x0⟩, ⟨2, 2, .ro, 0x0⟩, ⟨3, 3, .ro, 0x0⟩, ⟨4, 4, .ro, 0x0⟩, ⟨5, 5, .ro, 0x0⟩, ⟨6, 6, .ro, 0x0⟩, ⟨17, 8, .ro, 0x0⟩, ⟨39, 32, .rw, 0x0⟩, ⟨47, 40, .rw, 0x0⟩, ⟨63, 48, .rw, 0x0⟩]⟩,
  -- FN_MSIX_SEND
  ⟨0x610010, [(0x20, 66)], [⟨8, 0, .wo, 0x0⟩]⟩,
  -- WIN_BASE
  ⟨0x620000, [(0x10, 17)], [⟨47, 12, .rw, 0x0⟩]⟩,
  -- WIN_CTL
  ⟨0x620008, [(0x10, 17)], [⟨0, 0, .rw, 0x0⟩, ⟨5, 1, .rw, 0xc⟩, ⟨63, 12, .rw, 0x0⟩]⟩,
  -- WIN_COMMIT
  ⟨0x620200, [], [⟨0, 0, .wo, 0x0⟩]⟩,
  -- WIN_STATUS
  ⟨0x620208, [], [⟨0, 0, .ro, 0x0⟩, ⟨1, 1, .ro, 0x0⟩, ⟨31, 16, .rw, 0x0⟩, ⟨47, 32, .rw, 0x0⟩]⟩,
  -- DB_MAP
  ⟨0x630000, [(0x8, 1280)], [⟨17, 0, .rw, 0x0⟩, ⟨19, 18, .rw, 0x0⟩, ⟨20, 20, .rw, 0x0⟩]⟩]
/-- Rows of block `HSP`. -/
def hsp1 : List RegRow := [
  -- DMA_CFG
  ⟨0x640000, [(0x80, 16)], [⟨6, 0, .rw, 0x0⟩, ⟨7, 7, .rw, 0x0⟩, ⟨8, 8, .rw, 0x0⟩, ⟨31, 14, .rw, 0x0⟩, ⟨49, 32, .rw, 0x0⟩]⟩,
  -- DMA_CTL
  ⟨0x640008, [(0x80, 16)], [⟨0, 0, .wo, 0x0⟩, ⟨1, 1, .wo, 0x0⟩]⟩,
  -- DMA_STATUS
  ⟨0x640010, [(0x80, 16)], [⟨2, 0, .ro, 0x0⟩, ⟨7, 4, .ro, 0x0⟩, ⟨63, 32, .rw, 0x0⟩]⟩,
  -- DMA_CUR
  ⟨0x640040, [(0x80, 16), (0x8, 8)], [⟨63, 0, .ro, 0x0⟩]⟩,
  -- MSI_CAP
  ⟨0x650000, [], [⟨0, 0, .rw, 0x0⟩, ⟨63, 12, .rw, 0x0⟩]⟩,
  -- MSI_MAP
  ⟨0x651000, [(0x8, 2048)], [⟨0, 0, .rw, 0x0⟩, ⟨1, 1, .rw, 0x0⟩, ⟨4, 2, .rw, 0x0⟩, ⟨10, 5, .rw, 0x0⟩, ⟨18, 11, .rw, 0x0⟩]⟩,
  -- REIN_CTL
  ⟨0x6E0000, [], [⟨7, 0, .rw, 0x8⟩, ⟨23, 8, .rw, 0xa⟩, ⟨39, 24, .rw, 0x3e8⟩]⟩,
  -- REIN_STATUS
  ⟨0x6E0008, [], [⟨2, 0, .ro, 0x0⟩, ⟨4, 3, .ro, 0x0⟩, ⟨7, 5, .ro, 0x0⟩, ⟨8, 8, .ro, 0x0⟩, ⟨9, 9, .ro, 0x0⟩, ⟨12, 10, .ro, 0x0⟩, ⟨13, 13, .ro, 0x0⟩, ⟨14, 14, .ro, 0x0⟩]⟩,
  -- REIN_ERR
  ⟨0x6E0010, [], [⟨15, 0, .rw, 0x0⟩, ⟨31, 16, .rw, 0x0⟩, ⟨47, 32, .rw, 0x0⟩]⟩,
  -- KPR_STATUS
  ⟨0x6F0000, [], [⟨0, 0, .ro, 0x0⟩, ⟨2, 1, .ro, 0x0⟩, ⟨3, 3, .ro, 0x0⟩, ⟨21, 4, .ro, 0x0⟩, ⟨37, 22, .rw, 0x0⟩, ⟨53, 38, .rw, 0x0⟩]⟩]
/-- Rows of block `MCP`. -/
def mcp0 : List RegRow := [
  -- PORT_CFG
  ⟨0x1000000, [(0x100000, 7)], [⟨1, 0, .rw, 0x0⟩, ⟨2, 2, .rw, 0x0⟩, ⟨9, 4, .rw, 0x0⟩, ⟨10, 10, .ro, 0x0⟩, ⟨15, 12, .rw, 0xf⟩]⟩,
  -- PORT_STATUS
  ⟨0x1000008, [(0x100000, 7)], [⟨3, 0, .ro, 0x0⟩, ⟨4, 4, .ro, 0x0⟩, ⟨5, 5, .ro, 0x0⟩, ⟨6, 6, .ro, 0x0⟩, ⟨7, 7, .ro, 0x0⟩, ⟨13, 8, .ro, 0x0⟩, ⟨25, 16, .ro, 0x0⟩, ⟨26, 26, .w1c, 0x0⟩, ⟨27, 27, .w1c, 0x0⟩, ⟨28, 28, .w1c, 0x0⟩]⟩,
  -- CHMASK
  ⟨0x1000010, [(0x100000, 7), (0x8, 2)], [⟨47, 0, .rw, 0x0⟩]⟩,
  -- BAMASK
  ⟨0x1000020, [(0x100000, 7), (0x8, 4)], [⟨47, 0, .rw, 0x0⟩]⟩,
  -- QOS_TGT
  ⟨0x1000040, [(0x100000, 7), (0x8, 4)], [⟨63, 0, .rw, 0x190019001900190⟩]⟩,
  -- PORT_RESV
  ⟨0x1000060, [(0x100000, 7), (0x8, 4)], [⟨5, 0, .rwl, 0x0⟩, ⟨6, 6, .rwl, 0x0⟩, ⟨17, 8, .rwl, 0x0⟩, ⟨23, 18, .rwl, 0x0⟩]⟩,
  -- RD_CTL
  ⟨0x1000080, [(0x100000, 7)], [⟨15, 0, .rw, 0x400⟩, ⟨23, 16, .rw, 0x20⟩, ⟨25, 24, .rw, 0x2⟩, ⟨39, 32, .rw, 0x64⟩, ⟨47, 40, .rw, 0x20⟩, ⟨54, 48, .rw, 0x40⟩]⟩,
  -- RD_STAT
  ⟨0x1000088, [(0x100000, 7)], [⟨15, 0, .rw, 0x0⟩, ⟨31, 16, .rw, 0x0⟩, ⟨47, 32, .rw, 0x0⟩, ⟨52, 48, .ro, 0x0⟩]⟩,
  -- TRAIN_CTL
  ⟨0x1000090, [(0x100000, 7)], [⟨6, 0, .rw, 0xa⟩, ⟨15, 8, .rw, 0xa⟩, ⟨31, 16, .rw, 0x50⟩, ⟨35, 32, .rw, 0x3⟩]⟩,
  -- TRAIN_REC
  ⟨0x1000098, [(0x100000, 7)], [⟨15, 0, .ro, 0x0⟩, ⟨23, 16, .ro, 0x0⟩, ⟨39, 24, .rw, 0x0⟩]⟩,
  -- LINK_ERR
  ⟨0x10000A0, [(0x100000, 7)], [⟨15, 0, .rw, 0x0⟩, ⟨31, 16, .rw, 0x0⟩, ⟨47, 32, .rw, 0x0⟩]⟩,
  -- PORT_COPY
  ⟨0x10000A8, [(0x100000, 7)], [⟨2, 0, .ro, 0x0⟩, ⟨3, 3, .ro, 0x0⟩, ⟨31, 8, .ro, 0x0⟩]⟩]
/-- Rows of block `MCP`. -/
def mcp1 : List RegRow := [
  -- ECC_CTL
  ⟨0x10000B0, [(0x100000, 7)], [⟨3, 0, .rw, 0x4⟩, ⟨15, 8, .rw, 0x18⟩, ⟨16, 16, .rw, 0x1⟩, ⟨47, 32, .rw, 0x400⟩]⟩,
  -- ECC_STAT
  ⟨0x10000B8, [(0x100000, 7)], [⟨15, 0, .rw, 0x0⟩, ⟨31, 16, .rw, 0x0⟩, ⟨47, 32, .rw, 0x0⟩, ⟨63, 48, .rw, 0x0⟩]⟩,
  -- TRACK_STAT
  ⟨0x10000C0, [(0x100000, 7)], [⟨8, 0, .ro, 0x0⟩, ⟨31, 16, .rw, 0x0⟩, ⟨47, 32, .rw, 0x0⟩, ⟨63, 48, .rw, 0x0⟩]⟩,
  -- SCRUB_STATUS
  ⟨0x10000C8, [(0x100000, 7)], [⟨31, 0, .ro, 0x0⟩, ⟨47, 32, .rw, 0x0⟩, ⟨48, 48, .ro, 0x0⟩]⟩,
  -- CONV_FENCE
  ⟨0x10000D0, [(0x100000, 7)], [⟨31, 0, .ro, 0x0⟩, ⟨32, 32, .ro, 0x0⟩]⟩,
  -- CCACHE_ERR
  ⟨0x10000D8, [(0x100000, 7)], [⟨15, 0, .rw, 0x0⟩, ⟨31, 16, .rw, 0x0⟩, ⟨47, 32, .rw, 0x0⟩]⟩,
  -- REMAP
  ⟨0x1001000, [(0x100000, 7), (0x8, 256)], [⟨0, 0, .ro, 0x0⟩, ⟨1, 1, .ro, 0x0⟩, ⟨5, 2, .ro, 0x0⟩, ⟨21, 6, .ro, 0x0⟩, ⟨25, 22, .ro, 0x0⟩, ⟨29, 26, .ro, 0x0⟩]⟩]
/-- Rows of block `TIL`. -/
def til0 : List RegRow := [
  -- CORE_STATUS
  ⟨0x2000000, [(0x40000, 44)], [⟨1, 0, .ro, 0x0⟩, ⟨2, 2, .ro, 0x0⟩, ⟨3, 3, .ro, 0x0⟩, ⟨9, 4, .ro, 0x0⟩]⟩,
  -- CORE_ERR
  ⟨0x2000008, [(0x40000, 44)], [⟨15, 0, .rw, 0x0⟩, ⟨31, 16, .rw, 0x0⟩, ⟨47, 32, .rw, 0x0⟩, ⟨51, 48, .ro, 0x0⟩]⟩,
  -- PAIR_CTL
  ⟨0x2000100, [(0x40000, 44)], [⟨5, 0, .rw, 0x0⟩, ⟨8, 8, .rw, 0x0⟩]⟩,
  -- PAIR_STATUS
  ⟨0x2000108, [(0x40000, 44)], [⟨1, 0, .ro, 0x0⟩, ⟨7, 2, .ro, 0x0⟩, ⟨8, 8, .w1c, 0x0⟩, ⟨9, 9, .w1c, 0x0⟩, ⟨15, 12, .ro, 0x0⟩]⟩,
  -- SLICE_STATUS
  ⟨0x2010000, [(0x40000, 44)], [⟨1, 0, .ro, 0x0⟩, ⟨7, 2, .ro, 0x0⟩, ⟨11, 8, .ro, 0x0⟩, ⟨12, 12, .ro, 0x0⟩, ⟨13, 13, .w1c, 0x0⟩, ⟨16, 14, .ro, 0x0⟩, ⟨17, 17, .ro, 0x0⟩, ⟨23, 18, .ro, 0x0⟩]⟩,
  -- SPAD_CTL
  ⟨0x2010008, [(0x40000, 44)], [⟨3, 0, .rwl, 0x0⟩]⟩,
  -- LOCK_CTL
  ⟨0x2010010, [(0x40000, 44)], [⟨13, 0, .rw, 0x3000⟩, ⟨21, 16, .rw, 0x0⟩, ⟨22, 22, .wo, 0x0⟩, ⟨23, 23, .wo, 0x0⟩]⟩,
  -- LOCK_STAT
  ⟨0x2010018, [(0x40000, 44)], [⟨13, 0, .ro, 0x0⟩, ⟨31, 16, .rw, 0x0⟩, ⟨32, 32, .w1c, 0x0⟩]⟩,
  -- SLICE_ERR
  ⟨0x2010020, [(0x40000, 44)], [⟨15, 0, .rw, 0x0⟩, ⟨31, 16, .rw, 0x0⟩, ⟨47, 32, .rw, 0x0⟩, ⟨59, 48, .ro, 0x0⟩]⟩,
  -- SLICE_MAINT
  ⟨0x2010028, [(0x40000, 44)], [⟨1, 0, .rw, 0x0⟩, ⟨2, 2, .wo, 0x0⟩, ⟨3, 3, .ro, 0x0⟩, ⟨27, 16, .ro, 0x0⟩]⟩,
  -- WAYPART
  ⟨0x2010100, [(0x40000, 44), (0x8, 16)], [⟨15, 0, .rw, 0xffff⟩, ⟨31, 16, .rw, 0xffff⟩, ⟨47, 32, .rw, 0xffff⟩, ⟨63, 48, .rw, 0xffff⟩]⟩,
  -- COH_STATUS
  ⟨0x2020000, [(0x40000, 44)], [⟨6, 0, .ro, 0x0⟩, ⟨11, 7, .ro, 0x0⟩, ⟨18, 12, .ro, 0x0⟩, ⟨19, 19, .ro, 0x0⟩, ⟨34, 20, .ro, 0x0⟩]⟩]
/-- Rows of block `TIL`. -/
def til1 : List RegRow := [
  -- COH_STAT
  ⟨0x2020008, [(0x40000, 44)], [⟨15, 0, .rw, 0x0⟩, ⟨31, 16, .rw, 0x0⟩, ⟨47, 32, .rw, 0x0⟩, ⟨63, 48, .rw, 0x0⟩]⟩,
  -- COH_ERR
  ⟨0x2020010, [(0x40000, 44)], [⟨15, 0, .rw, 0x0⟩, ⟨31, 16, .rw, 0x0⟩, ⟨47, 32, .rw, 0x0⟩, ⟨63, 48, .rw, 0x0⟩]⟩,
  -- QENG_STATUS
  ⟨0x2030000, [(0x40000, 44)], [⟨5, 0, .ro, 0x0⟩, ⟨11, 6, .ro, 0x0⟩, ⟨12, 12, .ro, 0x0⟩, ⟨13, 13, .ro, 0x0⟩]⟩,
  -- QENG_STAT
  ⟨0x2030008, [(0x40000, 44)], [⟨15, 0, .rw, 0x0⟩, ⟨31, 16, .rw, 0x0⟩, ⟨47, 32, .rw, 0x0⟩, ⟨63, 48, .rw, 0x0⟩]⟩,
  -- QENG_ERR
  ⟨0x2030010, [(0x40000, 44)], [⟨15, 0, .rw, 0x0⟩, ⟨31, 16, .rw, 0x0⟩, ⟨47, 32, .rw, 0x0⟩]⟩,
  -- WEAR_STATUS
  ⟨0x203F000, [(0x40000, 44), (0x20, 2)], [⟨15, 0, .ro, 0x0⟩, ⟨31, 16, .ro, 0x0⟩, ⟨32, 32, .w1c, 0x0⟩, ⟨33, 33, .w1c, 0x0⟩, ⟨34, 34, .ro, 0x0⟩]⟩,
  -- WEAR_BASE
  ⟨0x203F008, [(0x40000, 44), (0x20, 2)], [⟨15, 0, .ro, 0x0⟩]⟩,
  -- WEAR_CTL
  ⟨0x203F010, [(0x40000, 44), (0x20, 2)], [⟨7, 0, .rw, 0x3⟩, ⟨15, 8, .rw, 0x6⟩, ⟨31, 16, .rw, 0xb86⟩, ⟨47, 32, .rw, 0x2710⟩]⟩]
/-- Rows of block `ISO`. -/
def iso0 : List RegRow := [
  -- FW_CFG
  ⟨0x6000000, [(0x1000, 45), (0x20, 32)], [⟨0, 0, .rwl, 0x0⟩, ⟨1, 1, .rwl, 0x0⟩, ⟨2, 2, .rwl, 0x0⟩, ⟨3, 3, .rwl, 0x0⟩, ⟨47, 21, .rwl, 0x0⟩, ⟨63, 63, .ro, 0x0⟩]⟩,
  -- FW_LIMIT
  ⟨0x6000008, [(0x1000, 45), (0x20, 32)], [⟨47, 21, .rwl, 0x0⟩]⟩,
  -- FW_MASK
  ⟨0x6000010, [(0x1000, 45), (0x20, 32)], [⟨63, 0, .rwl, 0x0⟩]⟩,
  -- FW_STATUS
  ⟨0x6000800, [(0x1000, 45)], [⟨15, 0, .rw, 0x0⟩, ⟨16, 16, .ro, 0x0⟩, ⟨17, 17, .w1c, 0x0⟩]⟩,
  -- FW_LAST
  ⟨0x6000808, [(0x1000, 45)], [⟨47, 0, .ro, 0x0⟩, ⟨53, 48, .ro, 0x0⟩, ⟨54, 54, .ro, 0x0⟩, ⟨55, 55, .ro, 0x0⟩, ⟨57, 56, .ro, 0x0⟩]⟩,
  -- HYP_PART
  ⟨0x6040000, [], [⟨5, 0, .rw, 0x0⟩, ⟨13, 8, .rw, 0x0⟩]⟩,
  -- SVC_CTL
  ⟨0x6040008, [], [⟨15, 0, .rw, 0x3e8⟩, ⟨23, 16, .rw, 0x64⟩]⟩,
  -- DBG_STATUS
  ⟨0x6040010, [], [⟨0, 0, .ro, 0x0⟩, ⟨1, 1, .ro, 0x0⟩, ⟨2, 2, .ro, 0x0⟩, ⟨3, 3, .ro, 0x0⟩, ⟨7, 4, .ro, 0x0⟩, ⟨9, 8, .ro, 0x0⟩, ⟨10, 10, .ro, 0x0⟩, ⟨12, 11, .ro, 0x0⟩]⟩,
  -- SVC_DOWN
  ⟨0x6040100, [(0x8, 16)], [⟨11, 0, .rw, 0x0⟩, ⟨12, 12, .rw, 0x0⟩]⟩,
  -- SVC_STATUS
  ⟨0x6040200, [(0x8, 40)], [⟨0, 0, .ro, 0x0⟩, ⟨1, 1, .ro, 0x0⟩, ⟨2, 2, .w1c, 0x0⟩, ⟨27, 16, .ro, 0x0⟩, ⟨28, 28, .ro, 0x0⟩, ⟨47, 32, .rw, 0x0⟩]⟩,
  -- PART
  ⟨0x6041000, [(0x8, 64)], [⟨2, 0, .ro, 0x0⟩, ⟨3, 3, .ro, 0x0⟩, ⟨6, 4, .wo, 0x0⟩, ⟨7, 7, .ro, 0x0⟩, ⟨11, 8, .ro, 0xf⟩, ⟨12, 12, .ro, 0x0⟩]⟩,
  -- CORE_OWN
  ⟨0x6042000, [(0x8, 40)], [⟨5, 0, .rwl, 0x0⟩, ⟨6, 6, .rwl, 0x0⟩]⟩]
/-- Rows of block `ISO`. -/
def iso1 : List RegRow := [
  -- SLICE_OWN
  ⟨0x6042200, [(0x8, 42)], [⟨5, 0, .rwl, 0x0⟩, ⟨6, 6, .rwl, 0x0⟩]⟩]
/-- Rows of block `RAS`. -/
def ras : List RegRow := [
  -- LOG_CTL
  ⟨0x7000000, [], [⟨17, 0, .ro, 0x0⟩, ⟨18, 18, .ro, 0x0⟩]⟩,
  -- RAS_HOLD
  ⟨0x7000008, [], [⟨6, 0, .ro, 0x0⟩, ⟨31, 16, .rw, 0x0⟩, ⟨47, 32, .rw, 0x0⟩]⟩,
  -- SPARE_CTL
  ⟨0x7000010, [], [⟨0, 0, .rw, 0x0⟩, ⟨1, 1, .rw, 0x0⟩, ⟨2, 2, .rw, 0x0⟩, ⟨3, 3, .rw, 0x1⟩, ⟨15, 8, .rw, 0x10⟩, ⟨23, 16, .rw, 0x8⟩]⟩,
  -- RAS_RESTITCH
  ⟨0x7000018, [], [⟨0, 0, .ro, 0x0⟩, ⟨2, 1, .ro, 0x0⟩, ⟨15, 8, .ro, 0x0⟩, ⟨23, 16, .ro, 0x0⟩, ⟨27, 24, .ro, 0xf⟩, ⟨47, 32, .ro, 0x0⟩, ⟨63, 48, .ro, 0x0⟩]⟩,
  -- RAS_RESERVE
  ⟨0x7000020, [], [⟨0, 0, .ro, 0x0⟩, ⟨3, 1, .ro, 0x0⟩, ⟨4, 4, .ro, 0x0⟩, ⟨5, 5, .ro, 0x0⟩]⟩,
  -- RAS_INJECT
  ⟨0x7000028, [], [⟨7, 0, .wo, 0x0⟩, ⟨15, 8, .wo, 0x0⟩, ⟨17, 16, .wo, 0x0⟩, ⟨18, 18, .wo, 0x0⟩]⟩]

end RegTable

/-- The rows of the block that an offset falls in (R29). -/
def regRowsAt (off : Nat) : List RegRow :=
  if off < 0x100000 then RegTable.crn else
  if off < 0x200000 then RegTable.evc else
  if off < 0x210000 then RegTable.tim else
  if off < 0x400000 then RegTable.pwr0 ++ RegTable.pwr1 else
  if off < 0x500000 then RegTable.msh0 ++ RegTable.msh1 else
  if off < 0x530000 then RegTable.brg else
  if off < 0x700000 then RegTable.hsp0 ++ RegTable.hsp1 else
  if off < 0x1700000 then RegTable.mcp0 ++ RegTable.mcp1 else
  if off < 0x2B00000 then RegTable.til0 ++ RegTable.til1 else
  if off < 0x7000000 then RegTable.iso0 ++ RegTable.iso1 else
  if off < 0x8000000 then RegTable.ras else
  []

/-- Whether an offset inside nested strides lands on an instance. -/
def dimsHit : List (Nat × Nat) → Nat → Bool
  | [], o => o == 0
  | (s, n) :: r, o => decide (o / s < n) && dimsHit r (o % s)

/-- Whether a row has an instance at an offset. -/
def RegRow.hits (r : RegRow) (off : Nat) : Bool := decide (r.base ≤ off) && dimsHit r.dims (off - r.base)

/-- The row of the register at an offset of the die's register space, if the map has one. -/
def regRow? (off : Nat) : Option RegRow := (regRowsAt off).find? (fun r => r.hits off)

/-- The bits of a register whose access code satisfies `p`. -/
def RegRow.maskOf (r : RegRow) (p : Acc → Bool) : Word :=
  r.fields.foldl (fun m f => if p f.acc then m ||| Fld.mask ⟨f.hi, f.lo⟩ else m) 0#64

/-- The value that the reset column of a row spells. -/
def RegRow.resetVal (r : RegRow) : Word :=
  r.fields.foldl (fun m f => m ||| BitVec.ofNat 64 (f.reset <<< f.lo)) 0#64

/-- The reset value of the register at an offset of a die: the reset column, and for the registers whose table says
"see below" the values of R275; partition 0 is open with no command result (R334);
32 phases in service and 4 spares left (R362, log entry 5); every power domain but the Crown's off (R459). -/
def regReset (off : Nat) : Word :=
  match regRow? off with
  | none => 0#64
  | some r =>
    if r.base = Reg.CHMASK 0 0 then
      if (off - Reg.CHMASK 0 0) % 0x10 = 0 then 0x104100#64 else 0x208200#64
    else if r.base = Reg.BAMASK 0 0 then
      match ((off - Reg.BAMASK 0 0) % 0x100) / 8 with
      | 0 => 0x01020400#64
      | 1 => 0x02040800#64
      | 2 => 0x04081000#64
      | _ => 0x08102000#64
    else if off = Reg.PHASE_STATUS then 0x40FFFFFFFF#64
    else if r.base = Reg.DOM_STATUS 0 ∧ off < Reg.DOM_STATUS 100 then setF Fl.DOM_STATUS_STATE 2 r.resetVal
    else if off = Reg.PART 0 then setF Fl.PART_STATE 2 r.resetVal
    else if r.base = Reg.EVC_ROUTE 0 ∧ (off - r.base) / 8 < 320 ∧ (off - r.base) / 8 % 8 = 5 then
      setF Fl.EVC_ROUTE_CORE ((off - r.base) / 64) (setF Fl.EVC_ROUTE_PRIO 0 (setF Fl.EVC_ROUTE_EN 1 r.resetVal))
    else r.resetVal

end Sys2Proof
end

