-- ==== Sys2Proof/Machine/Rs.lean ====
section
/-! DEFINITION. The two Reed–Solomon memory codes of R295 to R297: field arithmetic, check bytes, poison pattern and the
decode of a stored line. -/

namespace Sys2Proof.Rs

/-- Multiplication by x in GF(2^8) with field polynomial 0x11D (R295). -/
def dbl (a : Nat) : Nat := if 2 * a < 256 then 2 * a else (2 * a) ^^^ 0x11D

/-- Product in GF(2^8), by the bits of `b` from the lowest up; `fuel` counts the bits left. -/
def mulAux : Nat → Nat → Nat → Nat
  | 0, _, _ => 0
  | f + 1, a, b => (if b % 2 = 1 then a else 0) ^^^ mulAux f (dbl a) (b / 2)

/-- Product in GF(2^8). -/
def mul (a b : Nat) : Nat := mulAux 8 a b

/-- Powers of the primitive element α = 0x02 (R295). -/
def alpha : Nat → Nat
  | 0 => 1
  | n + 1 => dbl (alpha n)

/-- `a` to the power 254, the inverse of a non-zero `a`. -/
def inv (a : Nat) : Nat :=
  let a2 := mul a a
  let a4 := mul a2 a2
  let a8 := mul a4 a4
  let a16 := mul a8 a8
  let a32 := mul a16 a16
  let a64 := mul a32 a32
  let a128 := mul a64 a64
  mul a2 (mul a4 (mul a8 (mul a16 (mul a32 (mul a64 a128)))))

/-- The two codes (R295). -/
inductive Code where
  | strong
  | light
  deriving DecidableEq, Repr

/-- Check bytes per line (R295). -/
def Code.nchk : Code → Nat
  | .strong => 8
  | .light => 4

/-- Bad bytes that the code corrects (R295). -/
def Code.t : Code → Nat
  | .strong => 3
  | .light => 1

/-- A polynomial, highest power first, times (x − α^i). -/
def mulRoot (p : List Nat) (i : Nat) : List Nat :=
  List.zipWith (· ^^^ ·) (p ++ [0]) (0 :: p.map (mul (alpha i)))

/-- The generator: the product of (x − α^i) for i below the number of check bytes (R295), highest power first. -/
def gen (c : Code) : List Nat := (List.range c.nchk).foldl mulRoot [1]

/-- One step of the systematic division: the remainder after one more data byte. -/
def encStep (g : List Nat) (r : List Nat) (b : Byte) : List Nat :=
  let fb := b.toNat ^^^ r.headD 0
  List.zipWith (fun x y => x ^^^ mul fb y) (r.drop 1 ++ [0]) (g.drop 1)

/-- The check bytes of a line, data byte 0 the coefficient of the highest power (R295). -/
def encode (c : Code) (data : List Byte) : List Byte :=
  let g := gen c
  (data.foldl (encStep g) (List.replicate c.nchk 0)).map (BitVec.ofNat 8)

/-- The pattern P that marks a line poisoned (R297). -/
def poisonP (c : Code) : List Byte :=
  ([0x5A, 0xC3, 0x96, 0x3C, 0xA5, 0x69, 0x0F, 0xF0] : List Byte).take c.nchk

/-- Byte-wise exclusive or. -/
def xorBytes (a b : List Byte) : List Byte := List.zipWith (· ^^^ ·) a b

/-- Whether every byte is zero. -/
def allZero (l : List Byte) : Bool := l.all (fun b => b == 0#8)

/-- The syndrome of zero data with check bytes `e`; the code is linear, so this is the syndrome of any codeword whose
stored check bytes differ from the computed ones by `e`. -/
def syndrome (c : Code) (e : List Byte) : List Nat :=
  (List.range c.nchk).map (fun i => e.foldl (fun acc b => mul acc (alpha i) ^^^ b.toNat) 0)

/-- Remove from a syndrome sequence the contribution of a bad byte at power `p`. -/
def elim (p : Nat) (s : List Nat) : List Nat :=
  List.zipWith (fun nxt cur => nxt ^^^ mul (alpha p) cur) (s.drop 1) s

/-- The power `p` at or above `p0`, among the next `k`, at which one bad byte explains a syndrome; `a` is α^p0. -/
def findOne : Nat → Nat → Nat → List Nat → Option Nat
  | 0, _, _, _ => none
  | k + 1, p0, a, s =>
    if mul a (s.headD 0) = (s.drop 1).headD 0 ∧
        (List.zipWith (fun nxt cur => nxt ^^^ mul a cur) (s.drop 1) s).all (· == 0) then some p0
    else findOne k (p0 + 1) (dbl a) s

/-- Bad bytes (power of x, error value) that explain a syndrome, if at most `t` do, for a codeword of `n` bytes. -/
def findErrs (n : Nat) : Nat → List Nat → Option (List (Nat × Nat))
  | 0, s => if s.all (· == 0) then some [] else none
  | 1, s =>
    if s.all (· == 0) then some []
    else (findOne n 0 1 s).map (fun p => [(p, s.headD 0)])
  | t + 1, s =>
    if s.all (· == 0) then some []
    else (List.range n).findSome? (fun p =>
      match findErrs n t (elim p s) with
      | none => none
      | some es =>
        let es' := es.map (fun e => (e.1, mul e.2 (inv (alpha e.1 ^^^ alpha p))))
        let vp := es'.foldl (fun a e => a ^^^ e.2) (s.headD 0)
        some ((p, vp) :: es'))

/-- The outcome of decoding a stored line (R297): `corrected` gives the repaired data and whether the bad bytes lie in
data bytes and in check bytes. -/
inductive Dec where
  | good
  | corrected (data : List Byte) (inData inCheck : Bool)
  | poisoned
  | uncorrectable
  deriving DecidableEq, Repr

/-- The data of a line with its bad data bytes repaired. -/
def repair (c : Code) (data : List Byte) (es : List (Nat × Nat)) : List Byte :=
  data.mapIdx (fun i b => es.foldl (fun x e => if e.1 = 63 - i + c.nchk then x ^^^ BitVec.ofNat 8 e.2 else x) b)

/-- Decode a stored line under a code (R297). `chk` holds the stored check bytes. -/
def decode (c : Code) (data chk : List Byte) : Dec :=
  let e := xorBytes chk (encode c data)
  if allZero e then .good
  else if allZero (xorBytes e (poisonP c)) then .poisoned
  else
    let s := syndrome c e
    let sp := syndrome c (xorBytes e (poisonP c))
    let n := 64 + c.nchk
    match findErrs n c.t sp with
    | some _ => .poisoned
    | none =>
      match findErrs n c.t s with
      | some es => .corrected (repair c data es) (es.any (fun x => decide (c.nchk ≤ x.1 ∧ x.2 ≠ 0)))
          (es.any (fun x => decide (x.1 < c.nchk ∧ x.2 ≠ 0)))
      | none => .uncorrectable

/-- The check bytes that a port stores for a line: the code's check bytes, with P folded in for a poisoned line (R297),
padded to the 8 bytes of check storage per line (R298). -/
def checkBytes (c : Code) (poison : Bool) (data : List Byte) : List Byte :=
  let e := encode c data
  (if poison then xorBytes e (poisonP c) else e) ++ List.replicate (8 - c.nchk) 0#8

end Sys2Proof.Rs
end

