-- ==== Sys2Proof/Machine/State.lean ====
section
/-! DEFINITION. The state of a KVX-7100 system as plain data. `Dev` is the device; `State` adds the queue of commands that
wait. Registers of the register maps live in `Dev.regs` under the key die × 2^32 + offset; what the maps do not hold
(caches, directories, trackers, queues, core registers, link and port engines, Crown) has its own structure. -/

namespace Sys2Proof.Machine

/-! ### Error records (17_reliability.md) -/

/-- A 64-byte error record (R438) before it is packed into bytes. -/
structure ErrRec where
  seq : Nat
  time : Nat
  cls : Nat
  kind : Nat
  die : Nat
  unit : Nat
  code : Nat
  who : Option Who
  addr : Option Nat
  akind : Nat
  info0 : Nat
  info1 : Nat
  count : Nat
  dropped : Bool
  deriving DecidableEq, Repr

/-! ### Events and the time base (13_events_timebase.md) -/

/-- One group of a core's event interface (R351, R355): the active events, most recent first, as (identity, priority); the
virtual events that are pending and active; the latched errors; the comparator and its settings. -/
structure CifSt where
  stack : List (Nat × Nat)
  vpend : List Nat
  vact : List Nat
  finishErr : Bool
  raiseRefused : Bool
  tcmp : Word
  fired : Bool
  cfg : Word
  deriving DecidableEq, Repr

/-- A group's interface after reset (R355): no event active, compare value all ones, VPRIO 3. -/
def CifSt.init : CifSt := ⟨[], [], [], false, false, 0xFFFFFFFFFFFFFFFF#64, false, 6#64⟩

/-! ### Memory ports (10_memory_ports.md, 11_memory_integrity.md) -/

/-- One entry of a bank's activation table (R281): row, count, majority candidate and its votes. -/
structure RdEnt where
  row : Nat
  count : Nat
  cand : Who
  votes : Nat
  deriving DecidableEq, Repr

/-- A throttle in force (R282): source, channel × 16 + bank, end time, and the source's previous activation there. -/
structure Throttle where
  who : Who
  bank : Nat
  endAt : Nat
  lastAct : Nat
  deriving DecidableEq, Repr

/-- States of a repeat-tracker entry (R303). -/
inductive TrackSt where
  | counting | repairDue | rewritten
  deriving DecidableEq, Repr

/-- A repeat-tracker entry (R303): port data address of the line, physical address, correction count, state. -/
structure TrackEnt where
  d : Nat
  pa : Nat
  count : Nat
  st : TrackSt
  deriving DecidableEq, Repr

/-- A physical memory port beside its registers. `done` holds the data of finished reads by request tag; `written` marks the
lines written since every line of the port was poisoned (R292); `ccache` the check lines held, 1 clean, 2 dirty (R299). -/
structure PortSt where
  slots : List MemReq
  hold : List MemReq
  done : List (Nat × LineData × Bool)
  openRow : KMap (Option Nat)
  drain : BitVec 4
  rd : KMap (List RdEnt)
  throttles : List Throttle
  track : List TrackEnt
  ccache : KMap Nat
  allPoison : Bool
  written : KMap Bool
  winPos : Nat
  winUsed : List Nat
  sinceCe : Nat
  inject : Option Nat
  deriving DecidableEq, Repr

/-- A port with nothing in it. -/
def PortSt.init : PortSt := ⟨[], [], [], [], 0, [], [], [], [], false, [], 0, [0, 0, 0, 0], 0, none⟩

/-! ### Slices, homes and keepers (06_llc_scratchpad.md, 07_coherence.md) -/

/-- A holder that a directory entry names: a package core index, or a package reached through its keeper (R192, R194). -/
inductive Holder where
  | core (i : Nat)
  | pkg (q : Nat)
  deriving DecidableEq, Repr

/-- A directory or keeper entry (R192). `owner` with `ownO` gives HSTATE (none: sharers only; ownO false: E or M; true: O);
`coarse` holds the group bits when FORM is 1; `pkgs` the PKG bits. -/
structure DirEnt where
  owner : Option Holder
  ownO : Bool
  sharers : List Nat
  coarse : Option (BitVec 32)
  pkgs : BitVec 4
  wbp : Bool
  deriving DecidableEq, Repr

/-- No entry. -/
def DirEnt.empty : DirEnt := ⟨none, false, [], none, 0, false⟩

/-- A line in the LLC: set, way, data, poison, dirty, and the partition that holds a lock on it (R163, R176). -/
structure LlcLine where
  set : Nat
  way : Nat
  data : LineData
  poison : Bool
  dirty : Bool
  lock : Option (BitVec 6)
  deriving DecidableEq, Repr

/-- Phases of an open transaction (R203): first snoops, then the owner's snoop, then the requester's acknowledgement. -/
inductive TxPhase where
  | inval | owner | ack
  deriving DecidableEq, Repr

/-- An open transaction of a home or keeper (R203). `req` is the request (none: an eviction by recall, R195); `wait` the
agents whose snoop reply is outstanding; `wbFrom` the holders whose data must still arrive (R213, R195); `got` the data
collected, with its poison mark and whether it is dirty; `left` whether a replying holder keeps a copy; `direct` whether
the holder sends its data straight to the requester; `lost` a LOST reply; `wbSeen` the senders of crossing `WbDirty`
messages that have arrived. -/
structure Txn where
  key : Nat
  req : Option Msg
  phase : TxPhase
  wait : List Agent
  wbFrom : List Agent
  got : Option (LineData × Bool)
  gotDirty : Bool
  left : Bool
  direct : Bool
  lost : Bool
  wbSeen : List Agent
  deriving DecidableEq, Repr

/-- A packet being served element by element (R217): the request, the slots not yet served, and the words served with
their poison. -/
structure Pkt where
  req : Msg
  left : List Nat
  done : List (Nat × Word × Bool)
  deriving DecidableEq, Repr

/-- A credit-list entry (R211): the refused requester, its transaction number, the line, and whether `Resume` was sent. -/
structure Credit where
  who : Agent
  txn : Nat
  key : Nat
  sent : Bool
  deriving DecidableEq, Repr

/-- A slice with its home: LLC lines and directory entries by line key, scratchpad lines by line offset, open transactions,
waiting requests, wait store (R196), credit list (R211), conversion target (R172), disabled ways, packets in service. -/
structure HomeSt where
  llc : KMap (Option LlcLine)
  plru : KMap Nat
  spad : KMap (LineData × Bool)
  dir : KMap DirEnt
  txns : List Txn
  queue : List Msg
  store : List Msg
  credits : List Credit
  conv : Option Nat
  off : List (Nat × Nat)
  pkts : List Pkt
  deriving DecidableEq, Repr

/-- A slice with nothing in it. -/
def HomeSt.init : HomeSt := ⟨[], [], [], [], [], [], [], [], none, [], []⟩

/-- A keeper (R194): entries by line key, the outstanding transactions, and the requests that wait. -/
structure KeeperSt where
  dir : KMap DirEnt
  txns : List Txn
  queue : List Msg
  deriving DecidableEq, Repr

/-- A keeper with nothing in it. -/
def KeeperSt.init : KeeperSt := ⟨[], [], []⟩

/-! ### Core caches (05_core.md) -/

/-- L2 line states (R190); I is absence. -/
inductive L2State where
  | M | O | E | S
  deriving DecidableEq, Repr

/-- A line in an L2 (R144, R486): state, data, poison per 8-byte granule, set and way, and the agent its evictions are
reported to. -/
structure L2Line where
  st : L2State
  data : LineData
  poison : BitVec 8
  set : Nat
  way : Nat
  home : Agent
  deriving DecidableEq, Repr

/-- A store-buffer entry (R142): physical address, size, data, requester, home (line key homing), whether it may leave only
after every older entry (`STREL`), and whether it goes past the caches (non-cacheable or scratchpad). -/
structure SbEnt where
  pa : Nat
  size : Nat
  data : Nat
  who : Who
  tl : Bool
  nc : Bool
  release : Bool
  deriving DecidableEq, Repr

/-- A request of a core that its home has not finished (R146): the request as sent, whether it waits for a victim-buffer
acknowledgement (R145), the credit it was deferred on (R211), and the reply that ended it. -/
structure Miss where
  req : Msg
  parked : Bool
  deferred : Option Nat
  result : Option Msg
  deriving DecidableEq, Repr

/-- The caches, miss entries and buffers of a core: L2 lines by line key, lines in L1D and L1I, disabled L2 ways (R150),
victim buffer (R145), miss entries, snoops held for a dwell (R209), dwell end times, store buffer, the number of its youngest
entries that a checked pair has not released (R155), last transaction number, lines that a LOST retention bank took (R372). -/
structure CacheSt where
  l2 : KMap (Option L2Line)
  l1d : List Nat
  l1i : List Nat
  off : List (Nat × Nat)
  vict : List (Nat × L2Line)
  miss : List Miss
  held : List Msg
  dwell : List (Nat × Nat)
  sb : List SbEnt
  sbHeld : Nat
  txn : Nat
  lost : List Nat
  deriving DecidableEq, Repr

/-- Empty caches. -/
def CacheSt.init : CacheSt := ⟨[], [], [], [], [], [], [], [], [], 0, 0, []⟩

/-! ### Dies and packages -/

/-- What a die holds beside its registers: the time base's fraction of a nanosecond (units of 2^−24 ns), the error still to
be slewed toward the leader and the time since the last slewed nanosecond (R356, R357), the time of the last PPS edge
(R358), events raised and not yet arrived (R349), the error bank's hold (R441), the number of the last normal-side power request and
the outcomes of such requests by number (R366), whether events 480 and 481 may be raised again (R383), the bad samples of VIN in
a row (R363), the time of the last heartbeat of the package Crown (R265), since
when VIN has been within range (R451), the physical tiles whose core and whose slice are no spares because they failed, the
units restitched as (kind, logical number), the slice restitch in progress as (logical slice, spare tile) (R442 to R446), and
the error injections armed as (kind, unit, type) (R452), the domains worn with no spare free (R53), and whether the die's
Crown has failed (R266). -/
structure DieSt where
  nowFrac : Nat
  slew : Int
  slewAge : Nat
  ppsAt : Option Nat
  raised : List Nat
  hold : List ErrRec
  holdDropped : Bool
  nsSeq : Nat
  nsOut : KMap Nat
  warnArmed : Bool
  tripArmed : Bool
  vinBad : Nat
  hbAt : Nat
  vinOk : Option Nat
  badCore : List Nat
  badSlice : List Nat
  restitched : List (Nat × Nat)
  moving : Option (Nat × Nat)
  armed : List (Nat × Nat × Nat)
  worn : List Nat
  crownDown : Bool
  deriving DecidableEq, Repr

/-- A die after reset. -/
def DieSt.init : DieSt := ⟨0, 0, 0, none, [], [], false, 0, [], true, true, 0, 0, some 0, [], [], [], none, [], [], false⟩

/-- An entry of the open-fault list (R440): the identity of the record that entered it. -/
structure OpenFault where
  seq : Nat
  time : Nat
  cls : Nat
  kind : Nat
  die : Nat
  unit : Nat
  code : Nat
  info : Nat
  deriving DecidableEq, Repr

/-- An image in use (R434): version, security version, and slot (0 A, 1 B) or key slot. -/
structure FwId where
  version : Nat
  svn : Nat
  slot : Nat
  deriving DecidableEq, Repr

/-- A background command (R426, R427): ticket, command code, its two first arguments, state (0 running, 1 done, 2 failed) and final
result. -/
structure Ticket where
  id : Nat
  code : Nat
  a0 : Nat
  a1 : Nat
  state : Nat
  result : Nat
  deriving DecidableEq, Repr

/-- A challenge given out (R332): the nonce, the set of enables, when it was given, and the words of the signature received so
far. -/
structure DbgChal where
  nonce : Nat
  set : Nat
  at' : Nat
  sig : List Word
  deriving DecidableEq, Repr

/-- What the management endpoint has answered (R428 to R430): an assigned or reported endpoint ID, its UUID, lists of versions, types or
vendors, a mailbox command's result and response, values of a PLDM response, a byte or word on the legacy bus, its address. -/
inductive MgmtRsp where
  | eid (n : Nat)
  | uuid (n : Nat)
  | versions (l : List Nat)
  | types (l : List Nat)
  | vendors (l : List Nat)
  | command (result : Nat) (resp : List Word)
  | record (b : List Byte)
  | pldm (ok : Bool) (l : List Nat)
  | event (l : List Nat)
  | byte (n : Nat)
  | word (n : Nat)
  | address (n : Nat)
  deriving DecidableEq, Repr

/-- What a package holds: the die of its package Crown (R17, R265), the last record sequence number and the records counted
by class (R438, R441), the open faults (R440), GENERATION and SEQUENCE of the caseback record, the time at which event 500
was last raised and whether one is held (R433); since when the cap has been 64
(R382); pairs of dies (source, destination) whose injection is paused (R259); whether a fatal fault has been found (R437), the
last time-base exchange from the master package (R357), THERMTRIP_N (R481), the cause for which the package is to enter
Reserve mode (R448); VSB in range, RESET_N and PWROK deasserted and asserted (R457 to R459); the accepted board description, the images
in use by type (R434) and the flash slots (1 A, 2 B) they came from, the fused rollback counts by type (R422), the boot flash, the Crown's record of the tile map (R21), the slots
selected and staged (R424), background commands; whether the master package is confirmed (R462) and a warm reset runs (R465); the
times of release, of the last entry to and exit from Reserve mode (R434) and of boot step 5 (R463); endpoint ID, I3C address, event
receiver, ALERT_N, the answers of the management endpoint, the PLDM firmware update in progress as (type, bytes, phase) (R428 to
R430), the open challenge (R332), whether a fast clamp has occurred since reset (R434), and
whether the reference does not count (R359). -/
structure PkgSt where
  crown : Nat
  seq : Nat
  counts : List Nat
  faults : List OpenFault
  generation : Nat
  sequence : Nat
  ev500At : Option Nat
  ev500Held : Bool
  cap64At : Option Nat
  paused : List (Nat × Nat)
  fatal : Bool
  xchgAt : Nat
  thermtrip : Bool
  resv : Option Nat
  vsb : Bool
  rstn : Bool
  pwrok : Bool
  board : Option BoardDesc
  fw : KMap (Option FwId)
  running : KMap Nat
  fuses : KMap Nat
  flash : KMap Byte
  nv : KMap Word
  select : KMap Nat
  staged : KMap Nat
  tickets : List Ticket
  nextTicket : Nat
  confirmed : Bool
  warm : Bool
  releaseAt : Nat
  reserveAt : Nat
  exitAt : Nat
  stepAt : Nat
  eid : Nat
  i3c : Nat
  evRecv : Option Nat
  alert : Bool
  rsp : List MgmtRsp
  upd : Option (Nat × List Byte × Nat)
  chal : Option DbgChal
  clamped : Bool
  refStop : Bool
  deriving DecidableEq, Repr

/-- A package after package reset (R433, R438). -/
def PkgSt.init : PkgSt :=
  { crown := 0, seq := 0, counts := [0, 0, 0, 0], faults := [], generation := 1, sequence := 1, ev500At := none,
    ev500Held := false, cap64At := none, paused := [], fatal := false, xchgAt := 0, thermtrip := false, resv := none,
    vsb := true, rstn := false, pwrok := false, board := none, fw := [], running := [], fuses := [], flash := [], nv := [], select := [], staged := [],
    tickets := [], nextTicket := 1, confirmed := false, warm := false, releaseAt := 0, reserveAt := 0, exitAt := 0, stepAt := 0,
    eid := 0, i3c := 0, evRecv := none, alert := false, rsp := [], upd := none, chal := none, clamped := false, refStop := false
  }

/-! ### Cores (03_ploelm_base_isa.md, 04_long_vectors.md, 05_core.md) -/

/-- The architectural registers of a core (R54, R95): the program counter, general registers 1 to 31 (0 is never listed),
floating-point, vector and mask registers, and the system registers by number, the per-level copies of R86 under 0x841 to
0x846 (PL1), 0xC41 to 0xC46 (PL2) and 0x1041 to 0x1046 (PL3). -/
structure Arch where
  pc : Word
  g : KMap Word
  f : KMap Word
  v : KMap VecData
  k : KMap VecData
  sr : KMap Word
  deriving DecidableEq, Repr

/-- The registers of a core that has just been reset. -/
def Arch.init : Arch := ⟨0, [], [], [], [], []⟩

/-- A TLB entry (R94): the first virtual address and log2 size of the page, its tags, the intermediate and the physical
address of the page, the permission bits of the stage-1 leaf (bits 2 to 6 of the entry) and of the stage-2 leaf, whether D
is set in each, the memory type in force, tile-local homing and NSO. `asid` is none for a global entry. -/
structure TlbEnt where
  va : Nat
  lg : Nat
  asid : Option Nat
  part : Nat
  ns : Bool
  grp : Nat
  s2 : Bool
  ipa : Nat
  pa : Nat
  perm1 : Nat
  perm2 : Nat
  d1 : Bool
  d2 : Bool
  mt : Nat
  tl : Bool
  nso : Bool
  deriving DecidableEq, Repr

/-- A world entry record (R316): general and floating-point registers, the system registers of PL0 to PL2 but the vector
state, and the EPC and EPSTATE of PL3. -/
structure WorldRec where
  g : KMap Word
  f : KMap Word
  sr : KMap Word
  epc : Word
  epstate : Word
  deriving DecidableEq, Repr

/-- The predictor of a core (R133, R136, R137): counters by index, global history, branch-target buffer entries as (branch
address, target), return stack, newest first. -/
structure Pred where
  ctr : KMap Nat
  gh : Word
  btb : List (Word × Word)
  ras : List Word
  deriving DecidableEq, Repr

/-- A flushed predictor (R138): every counter 3, nothing in the other tables. -/
def Pred.flushed : Pred := ⟨[], 0, [], []⟩

/-- A queue instruction that waits (R85, R232): its QFUNC and fields, and the queue. -/
structure QWait where
  func : Nat
  a : OpQ
  q : Nat
  slot : Bool
  deriving DecidableEq, Repr

/-- A load from a port window (R397): die, offset, bytes, and its result once it has one: the value with its poison mark, or none
for an access fault. -/
structure WinLd where
  die : Nat
  off : Nat
  n : Nat
  res : Option (Option (Nat × Bool))
  deriving DecidableEq, Repr

/-- A core: whether it runs, whether it is halted by a debugger, the end of a `WFE` on the time base (R82), its architectural
registers, TLB, predictor, and a branch that went against its prediction and is not yet resolved (history and return stack
before it, and its direction, R135); the pace tokens it holds in hundredths (R37); the world entry record and the time at
which the service timer was armed and expired (R316 to R319); as leader of a checked pair the registers at the end of the
last matched group and the instructions retired since (R155); a waiting queue instruction (with whether it waits for a slot, R229); the elements already performed by a vector store or scatter
that waits (R124, R125); the loads from port windows that it has outstanding or has not retired with (R397); whether it starts when its
domain has woken (R378); whether a stop asked to resume at an event (R378); and the entry values that a
STOP_RELEASE or reset leaves it with (`kept` false: its state is discarded, R378). -/
structure CoreSt where
  run : Bool
  kept : Bool
  halted : Bool
  wfe : Option Nat
  arch : Arch
  tlb : List TlbEnt
  pred : Pred
  misp : Option (Word × List Word × Bool)
  tokens : Int
  world : Option WorldRec
  armedAt : Option Nat
  expiredAt : Option Nat
  snap : Option Arch
  grp : Nat
  qwait : Option QWait
  wakeEv : Bool
  vprog : Option (List Nat)
  win : List WinLd
  wantRun : Bool
  deriving DecidableEq, Repr

/-- A core that has just been reset (R55): stopped, nothing cached. -/
def CoreSt.init : CoreSt :=
  { run := false, kept := false, halted := false, wfe := none, arch := Arch.init, tlb := [], pred := Pred.flushed,
    misp := none, tokens := 0, world := none, armedAt := none, expiredAt := none, snap := none, grp := 0, qwait := none,
    wakeEv := false, vprog := none, win := [], wantRun := false
  }



/-! ### Power domains (14_power.md) -/

/-- A request for a state of a domain (R366): 0 on, 1 retention, 2 off; the side it came from (0 secure, 1 normal, 2 neither: a
wake); its wake cause and event number (R373); for the normal side the number of the request on its die. -/
structure DomReq where
  tgt : Nat
  side : Nat
  cause : Nat
  ev : Nat
  num : Nat
  deriving DecidableEq, Repr

/-- A domain between states: the state it leaves, the request being carried out, when it began, and the request held until it ends
(R366); its voltage when it last began to move, and when (R375, R376). -/
structure DomSt where
  was : Nat
  cur : Option DomReq
  since : Nat
  held : Option DomReq
  vfrom : Nat
  vat : Nat
  deriving DecidableEq, Repr

/-- A domain at rest. -/
def DomSt.init : DomSt := ⟨0, none, 0, none, 0, 0⟩

/-! ### Strap queues (08_strap_queues.md) -/

/-- A producer of a queue (R229, R233): the stop of its tail window (a core's system-wide number; 2000 + die for a high-speed
port, 3000 + die for a Crown, 4000 + die for an error bank, 5000 + die for the arbitration recorder), SRC_PORT and SRC of the
length slot, and its partition. -/
structure QProd where
  stop : Nat
  port : Bool
  src : Nat
  part : Nat
  deriving DecidableEq, Repr

/-- An entry of a tail window (R232, R233): a pushed entry, up to 8 words, or an open or close marker. -/
inductive QItem where
  | full (data : LineData)
  | words (w : List Word)
  | openMark
  | closeMark
  deriving DecidableEq, Repr

/-- An accepted entry: its data where it lies in the head window, poison, VALID_BYTES, HEADER, LAST, and for a header whether
further entries of its packet follow. -/
structure QEntry where
  data : LineData
  poison : Bool
  valid : Nat
  header : Bool
  last : Bool
  more : Bool
  deriving DecidableEq, Repr

/-- The partial entry of a packer (R236): producer, words, whether it begins with a length slot, the time of its last word, and
whether the queue event was raised when it began. -/
structure QPack where
  by' : QProd
  words : List Word
  header : Bool
  at' : Nat
  notified : Bool
  deriving DecidableEq, Repr

/-- The open packet of a queue (R233): its producer, the number of its header entry, its accepted payload bytes, and when it was
opened. `hdr` is none while its header is still in the packer. -/
structure QOpen where
  by' : QProd
  hdr : Option Nat
  len : Nat
  at' : Nat
  deriving DecidableEq, Repr

/-- A queue that exists (R224 to R236): the creator's fields, FAULTED, the counts, the entries in the head window and those in
the ring behind them, the tail windows by stop, the open packet, the producers being discarded, whether a consumer is
partway through a packet, the packer, and what each producer has issued (1 its packet is open, 2 it is being discarded). -/
structure QueueSt where
  packed : Bool
  framed : Bool
  ns : Bool
  notify : Bool
  ringLg : Nat
  cons : Nat
  owner : BitVec 6
  packWait : Nat
  openTo : Nat
  ringBase : Nat
  pushMask : Word
  popMask : Word
  faulted : Bool
  tail : Nat
  head : Nat
  discarded : Nat
  forced : Nat
  win : List QEntry
  ring : List QEntry
  tails : List (Nat × List (QProd × QItem))
  opened : Option QOpen
  disc : List QProd
  inPkt : Bool
  pack : Option QPack
  issued : List (QProd × Nat)
  deriving DecidableEq, Repr

/-- A queue engine (R229, R243): the queues that have a slot, most recently used first, and the entries written to and read from
rings. -/
structure QEngSt where
  slots : List Nat
  spills : Nat
  refills : Nat
  deriving DecidableEq, Repr

/-- An engine with no slot in use. -/
def QEngSt.init : QEngSt := ⟨[], 0, 0⟩

/-! ### High-speed ports (15_host_port.md) -/

/-- A packet that a high-speed port has sent on its link: a memory read or write, a configuration read or write of the root port, a
completion (status 0 successful, 1 Unsupported Request, 2 retry, 4 Completer Abort), an MSI-X, a PME message, PME_TO_Ack. -/
inductive Tlp where
  | memRd (fn tag addr len : Nat)
  | memWr (fn addr : Nat) (data : List Byte) (ep : Bool)
  | cfgRd (tag addr len : Nat)
  | cfgWr (tag addr : Nat) (data : List Byte)
  | cpl (fn tag status : Nat) (ep : Bool) (data : List Byte)
  | msix (fn vec addr data : Nat)
  | pme (fn : Nat)
  | pmeToAck
  deriving DecidableEq, Repr

/-- A memory request from the link that waits at the port's input (R394, R399): a read, a write (absent bytes are not enabled), or a
doorbell write with the pushes it still has to make. -/
inductive InReq where
  | rd (fn : Nat) (tgt : HostTgt) (len tag : Nat)
  | wr (fn : Nat) (tgt : HostTgt) (data : List (Option Byte)) (ep : Bool)
  | db (fn q : Nat) (prod : QProd) (items : List QItem)
  deriving DecidableEq, Repr

/-- What an outstanding non-posted request is for: a load or configuration access of a core, a channel's READ, or an inbound read
that leaves through another port's window (its port, function and tag); a configuration write of a core, which nothing waits for. -/
inductive OutFor where
  | core (c : Nat)
  | chan (ch : Nat)
  | p2p (D fn tag : Nat)
  | store
  deriving DecidableEq, Repr

/-- An outstanding non-posted request of a port (R386, R396): tag, function, what it is for, bus address, length, bytes received so
far, the time it was sent, whether its completions are discarded, and whether it is a configuration request. -/
structure OutReq where
  tag : Nat
  fn : Nat
  by' : OutFor
  addr : Nat
  len : Nat
  got : Nat
  at' : Nat
  drop : Bool
  cfg : Bool
  deriving DecidableEq, Repr

/-- A DMA channel beside its registers (R395, R396): the bytes of the descriptor requested or sent so far, the bytes of READ data that have arrived by
offset with their poison mark, the bytes transferred without error, its status so far, and whether its completion entry is due. -/
structure ChanSt where
  pos : Nat
  part : List (Nat × Byte × Bool)
  ok : Nat
  status : Nat
  due : Bool
  deriving DecidableEq, Repr

/-- A channel with nothing in progress. -/
def ChanSt.init : ChanSt := ⟨0, [], 0, 0, false⟩

/-- A high-speed port beside its registers: the live window set (key 2w WIN_BASE, 2w + 1 WIN_CTL of window w, R392), the window sets
of commits that are held, what waits at its input with the time it came, its tail buffer's doorbell entries that are not released (queue, producer, item),
its outstanding requests and last tag, its channels, the words of the configuration spaces (function × 1024 + word), the
MSI-X tables (function × 2048 + 4 × vector + word), the vectors pending (function, vector), the packets sent, whether PME_TO_Ack was
sent, and whether it drives WAKE_N. -/
structure HspSt where
  live : KMap Word
  commits : List (KMap Word)
  inq : List (InReq × Nat)
  buf : List (Nat × QProd × QItem)
  outs : List OutReq
  tag : Nat
  chans : KMap ChanSt
  cfg : KMap Nat
  msix : KMap Nat
  pend : List (Nat × Nat)
  sent : List Tlp
  toAck : Bool
  wakeN : Bool
  deriving DecidableEq, Repr

/-- A port with nothing in it. -/
def HspSt.init : HspSt := ⟨[], [], [], [], [], 0, [], [], [], [], [], false, false⟩

/-! ### Mesh links, bridges and reins (09_mesh_bridges_reins.md) -/

/-- A direction of a mesh link beside its registers (R248, R249): refusals of the handshake in progress, and the corrected errors as
(time, group, wire) that the present window may still count. -/
structure LnkSt where
  refusals : Nat
  ces : List (Nat × Nat × Nat)
  deriving DecidableEq, Repr

/-- A direction with nothing to remember. -/
def LnkSt.init : LnkSt := ⟨0, []⟩

/-- A bridge beside its registers (R256, R257): as receiver the next sequence number and frames that came before their turn; as
transmitter the first frame not acknowledged; replays as (module, time); modules that retrain. -/
structure BrgSt where
  expect : Nat
  hold : List (Nat × List Msg)
  unack : Option Nat
  replays : List (Nat × Nat)
  training : List Nat
  deriving DecidableEq, Repr

/-- A bridge with nothing in it. -/
def BrgSt.init : BrgSt := ⟨0, [], none, [], []⟩

/-- A rein beside its registers (R260, R263): the next sequence number, the first FLIT not acknowledged, the times of replays, the state
before recovery, and whether the rein is to be replaced by its spare. -/
structure ReinSt where
  expect : Nat
  unack : Option Nat
  replays : List Nat
  was : Option Nat
  failed : Bool
  deriving DecidableEq, Repr

/-- A rein with nothing in it. -/
def ReinSt.init : ReinSt := ⟨0, none, [], none, false⟩

/-! ### Crowns (16_crown.md) -/

/-- The long operations of a Crown (R414). -/
inductive CrnLong where
  | fread | mrd | mwr | crypt | mbx | fprog
  deriving DecidableEq, Repr

/-- A reservation station in use (R416): its operation, rd and the values of rs1 and rd when it was placed, IMM15, the data that a mesh
read has brought, whether a mesh access was performed, and its outcome once it has completed. -/
structure Station where
  op : CrnLong
  rd : Nat
  addr : Nat
  dst : Nat
  imm : Nat
  val : Word
  ok : Bool
  done : Option Nat
  deriving DecidableEq, Repr

/-- A mailbox (R425, R426): arguments, response, the fields of CRN.MBX_STATUS, the code served, the die and number of the normal-side
power request that it waits for (R427), and the caseback record last written to its buffer (R432). -/
structure MbxSt where
  args : KMap Word
  resp : KMap Word
  busy : Bool
  done : Bool
  overrun : Bool
  replayed : Bool
  result : Nat
  seq : Nat
  code : Nat
  wait : Option (Nat × Nat)
  buf : List Byte
  deriving DecidableEq, Repr

/-- A mailbox after reset. -/
def MbxSt.init : MbxSt := ⟨[], [], false, false, false, false, 0xF, 0, 0, none, []⟩

/-- The delay slot that comes next (R415): the branch, the address that follows it when the branch was taken, and whether the slot is
annulled. -/
structure CrnSlot where
  br : Nat
  target : Option Nat
  annul : Bool
  deriving DecidableEq, Repr

/-- A Crown core (R413 to R420): registers c1 to c15, the program counter, the slot of a branch that comes next, the
control registers, whether it sleeps, its SRAM by offset, stations, the lines in its fetch buffer and data cache and the branches
in its branch-target buffer, most recently used first, and its mailboxes. -/
structure CrnSt where
  c : KMap (BitVec 32)
  pc : Nat
  slot : Option CrnSlot
  ie : Bool
  ds : Bool
  rom : Bool
  epc : Nat
  ecause : Nat
  mseg : Nat
  rsstat : Nat
  timeHi : Nat
  evpend : Nat
  asleep : Bool
  sram : KMap Byte
  stations : KMap (Option Station)
  fbuf : List Nat
  btb : List (Nat × Nat)
  dcache : List Nat
  mbx : KMap MbxSt
  deriving DecidableEq, Repr

/-- A Crown of die `D` after reset: it runs from ROM (R417, R423). -/
def CrnSt.init (D : Nat) : CrnSt :=
  { c := [], pc := 0, slot := none, ie := false, ds := false, rom := true, epc := 0, ecause := 0, mseg := D / 8 + D % 8 * 4,
    rsstat := 0, timeHi := 0, evpend := 0, asleep := false, sram := [], stations := [], fbuf := [], btb := [], dcache := [],
    mbx := []
  }


/-! ### The device -/

/-- The device: its configuration, the number of free values drawn, the device registers, the bytes of DRAM by physical
address and their check bytes (key line × 8 + index), and the units' structures by number. `net` holds the coherence
messages sent and not yet received, `ext` the requests of high-speed ports, queue engines and Crowns in progress. -/
structure Dev where
  cfg : SysCfg
  freeCtr : Nat
  regs : KMap Word
  mem : List Host.Cell
  chk : KMap Byte
  dies : KMap DieSt
  pkgs : KMap PkgSt
  ports : KMap PortSt
  homes : KMap HomeSt
  keepers : KMap KeeperSt
  caches : KMap CacheSt
  cifs : KMap CifSt
  net : List Msg
  ext : List Miss
  cores : KMap CoreSt
  doms : KMap DomSt
  queues : KMap (Option QueueSt)
  qengs : KMap QEngSt
  hsps : KMap HspSt
  lnks : KMap LnkSt
  brgs : KMap BrgSt
  reins : KMap ReinSt
  crns : KMap CrnSt
  deriving DecidableEq, Repr

/-- The state: the device and the commands that wait, first in, first out. -/
structure State where
  dev : Dev
  pending : List Instr
  deriving DecidableEq, Repr

/-- Why a step faults. No command of this device stops the model by a fault. -/
inductive Fault where
  /-- Raised by no meaning; kept so that the type has a value. Safe. -/
  | none
  deriving DecidableEq, Repr

/-- Why a step is refused. -/
inductive Refusal where
  /-- Raised by an arm whose command has no meaning yet. Safe: the machine stops. -/
  | notModelled (mnemonic : String)
  deriving DecidableEq, Repr

/-- What an unlisted byte of DRAM reads as: zero, as after the fill of R307; before it DESIGN CHOICE (log entry 6). -/
def memByte0 : Byte := 0

/-- The memory's canonical form: addresses strictly rising, no entry equal to what an unlisted address reads as. -/
abbrev Memory.wf (m : List Host.Cell) : Prop := KMap.wf (fun _ => memByte0) m = true

/-- The system of `State.reset`: one package of eight dies (DESIGN CHOICE, log entry 3). -/
def SysCfg.default : SysCfg := ⟨[8, 0, 0, 0], 0, []⟩

/-- The maximum package power of an ordering code in W, by its dies (R1, R384). -/
def maxPower (n : Nat) : Nat := if n = 8 then 1600 else if n = 6 then 1220 else if n = 4 then 820 else 420

/-- PWR.PKG_LIMIT after reset (R384). -/
def limitReset (n : Nat) : Word := BitVec.ofNat 64 (maxPower n + 0x0280 * 2 ^ 16 + 2 ^ 32)

/-- The registers whose reset value depends on the configuration: the package limit of each package. -/
def cfgRegs (c : SysCfg) : KMap Word :=
  ((List.range 4).filter (fun p => 0 < c.ndie p)).map (fun p => (p * 8 * 0x100000000 + Reg.PKG_LIMIT, limitReset (c.ndie p)))

/-- The device after package reset of every package of a configuration. -/
def Dev.resetOf (c : SysCfg) : Dev :=
  { cfg := c, freeCtr := 0, regs := cfgRegs c, mem := [], chk := [], dies := [], pkgs := [], ports := [], homes := [],
    keepers := [], caches := [], cifs := [], net := [], ext := [], cores := [], doms := [], queues := [], qengs := [], hsps := [], lnks := [], brgs := [], reins := [], crns := []
  }

/-- The machine right after reset, with no command waiting. -/
def State.reset : State := ⟨Dev.resetOf SysCfg.default, []⟩

end Sys2Proof.Machine
end

