-- ==== Sys2Proof/Machine/Regs.lean ====
section
/-! DEFINITION. Access to the stored device registers, to the structures of numbered units, to the tile map and to the
free values. -/

namespace Sys2Proof.Machine

/-! ### Device registers -/

/-- The die whose copy holds a register that the Crowns keep equal on several dies: one for the system (R334, R330, R320),
one for the package (R323, R327, R167, R252, R300, R384, R452), else the die itself. -/
def regHome (D off : Nat) : Nat :=
  if 0x6040000 ≤ off ∧ off < 0x6040180 then 0
  else if 0x6041000 ≤ off ∧ off < 0x6041200 then 0
  else if 0x6000000 ≤ off ∧ off < 0x6000400 then D / 8 * 8
  else if 0x402000 ≤ off ∧ off < 0x402200 then D / 8 * 8
  else if 0x40A000 ≤ off ∧ off < 0x40A208 then D / 8 * 8
  else if 0x407000 ≤ off ∧ off < 0x407200 then D / 8 * 8
  else if off = Reg.SPARE_CTL then D / 8 * 8
  else if off = Reg.PKG_LIMIT then D / 8 * 8
  else D

/-- The key of a register in `Dev.regs`. -/
def regKey (D off : Nat) : Nat := regHome D off * 0x100000000 + off

/-- What a register of a die holds after reset; a service-expiry route names the die itself (R352). -/
def regInit (D off : Nat) : Word :=
  if Reg.EVC_ROUTE 0 ≤ off ∧ off < Reg.EVC_ROUTE 320 ∧ (off - Reg.EVC_ROUTE 0) / 8 % 8 = 5 then
    setF Fl.EVC_ROUTE_DIE (D % 8) (regReset off)
  else regReset off

/-- The stored value of a register. -/
def rg (d : Dev) (D off : Nat) : Word := KMap.look (regInit D off) d.regs (regKey D off)

/-- The device with a register's stored value replaced. -/
def wr (D off : Nat) (v : Word) (d : Dev) : Dev := { d with regs := KMap.put (regInit D off) d.regs (regKey D off) v }

/-- A field of a stored register. -/
def fld (d : Dev) (D off : Nat) (f : Fld) : Nat := getF f (rg d D off)

/-- A one-bit field of a stored register. -/
def flg (d : Dev) (D off : Nat) (f : Fld) : Bool := getB f (rg d D off)

/-- Set a field of a stored register. -/
def setFld (D off : Nat) (f : Fld) (v : Nat) (d : Dev) : Dev := wr D off (setF f v (rg d D off)) d

/-- Set a one-bit field of a stored register. -/
def setFlg (D off : Nat) (f : Fld) (b : Bool) (d : Dev) : Dev := setFld D off f (b2n b) d

/-- Add to a saturating counter field of a stored register. -/
def bump (D off : Nat) (f : Fld) (n : Nat) (d : Dev) : Dev := wr D off (satAdd f n (rg d D off)) d

/-- Do `f` for each element of a list in order. -/
def forAll {α : Type} (l : List α) (f : α → Dev → Dev) (d : Dev) : Dev := l.foldl (fun d x => f x d) d

/-- Do `f` if a condition holds. -/
def doIf (b : Bool) (f : Dev → Dev) (d : Dev) : Dev := if b then f d else d

/-! ### Numbered units -/

def dieSt (d : Dev) (D : Nat) : DieSt := KMap.look DieSt.init d.dies D
def updDie (D : Nat) (f : DieSt → DieSt) (d : Dev) : Dev := { d with dies := KMap.modify DieSt.init d.dies D f }
def pkgSt (d : Dev) (p : Nat) : PkgSt := KMap.look PkgSt.init d.pkgs p
def updPkg (p : Nat) (f : PkgSt → PkgSt) (d : Dev) : Dev := { d with pkgs := KMap.modify PkgSt.init d.pkgs p f }
def portSt (d : Dev) (k : Nat) : PortSt := KMap.look PortSt.init d.ports k
def updPort (k : Nat) (f : PortSt → PortSt) (d : Dev) : Dev := { d with ports := KMap.modify PortSt.init d.ports k f }
def homeSt (d : Dev) (g : Nat) : HomeSt := KMap.look HomeSt.init d.homes g
def updHome (g : Nat) (f : HomeSt → HomeSt) (d : Dev) : Dev := { d with homes := KMap.modify HomeSt.init d.homes g f }
/-- The keeper of package `p` for lines homed in package `q` (R194). -/
def keeperSt (d : Dev) (p q : Nat) : KeeperSt := KMap.look KeeperSt.init d.keepers (p * 4 + q)
def updKeeper (p q : Nat) (f : KeeperSt → KeeperSt) (d : Dev) : Dev :=
  { d with keepers := KMap.modify KeeperSt.init d.keepers (p * 4 + q) f }
def cacheSt (d : Dev) (c : Nat) : CacheSt := KMap.look CacheSt.init d.caches c
def updCache (c : Nat) (f : CacheSt → CacheSt) (d : Dev) : Dev := { d with caches := KMap.modify CacheSt.init d.caches c f }
/-- The interface of core `c` for the secure (`ns = false`) or normal group (R355). -/
def cifSt (d : Dev) (c : Nat) (ns : Bool) : CifSt := KMap.look CifSt.init d.cifs (c * 2 + b2n ns)
def updCif (c : Nat) (ns : Bool) (f : CifSt → CifSt) (d : Dev) : Dev :=
  { d with cifs := KMap.modify CifSt.init d.cifs (c * 2 + b2n ns) f }

/-! ### Numbers of cores, slices, tiles and ports -/

/-- Die of a core's system-wide number p × 320 + d × 40 + c (R21), as p × 8 + d. -/
def coreDie (c : Nat) : Nat := c / 40
/-- Logical core number within the die. -/
def coreLog (c : Nat) : Nat := c % 40
def corePkg (c : Nat) : Nat := c / 320
def sliceDie (g : Nat) : Nat := g / 42
def sliceLog (g : Nat) : Nat := g % 42
def portDie (k : Nat) : Nat := k / 7
def portNum (k : Nat) : Nat := k % 7

/-- Physical tile of a logical core (R253). -/
def coreTile (d : Dev) (c : Nat) : Nat := fld d (coreDie c) (Reg.LCORE (coreLog c)) Fl.LCORE_PTILE
/-- Whether the logical number holds an active core that is not a checker (R353). -/
def coreValid (d : Dev) (c : Nat) : Bool :=
  d.cfg.present (coreDie c) && flg d (coreDie c) (Reg.LCORE (coreLog c)) Fl.LCORE_VALID
    && !flg d (coreDie c) (Reg.LCORE (coreLog c)) Fl.LCORE_CHECKER
/-- Physical tile whose slice array serves a logical slice (R253). -/
def sliceTile (d : Dev) (g : Nat) : Nat := fld d (sliceDie g) (Reg.LSLICE (sliceLog g)) Fl.LSLICE_PTILE
/-- The logical slice whose array serves a logical slice: another one of the die after a redirection (R166). -/
def sliceArray (d : Dev) (g : Nat) : Nat :=
  if flg d (sliceDie g) (Reg.LSLICE (sliceLog g)) Fl.LSLICE_REDIRECTED then
    match (List.range 42).find? (fun s => fld d (sliceDie g) (Reg.LSLICE s) Fl.LSLICE_PTILE == sliceTile d g
        && !flg d (sliceDie g) (Reg.LSLICE s) Fl.LSLICE_REDIRECTED) with
    | some s => sliceDie g * 42 + s
    | none => g
  else g

/-- The count of nanoseconds on a die (R356). -/
def nowOf (d : Dev) (D : Nat) : Nat := (rg d D Reg.TIM_NOW).toNat

/-- The die of the package Crown (R17, R265), as p × 8 + d. -/
def crownDie (d : Dev) (p : Nat) : Nat := p * 8 + (pkgSt d p).crown

/-! ### Free values -/

/-- Draw a free value: the next number of the draw. -/
def draw (d : Dev) : Nat := d.freeCtr
/-- The device after one draw. -/
def drawn (d : Dev) : Dev := { d with freeCtr := d.freeCtr + 1 }

/-- One of a list by a free value; `none` of an empty list (R42: which of several, the spec leaves open). -/
def freeChoice {α : Type} (l : List α) (n : Nat) : Option α := l[Config.freeNat n % l.length]?

end Sys2Proof.Machine
end

