-- ==== Sys2Proof/Machine/Events.lean ====
section
/-! DEFINITION. Events: raising, arrival, presentation, the choice of the event a core takes, and the core interface
(13_events_timebase.md). -/

namespace Sys2Proof.Machine

/-- Local events marked secure in the tables of R347 and R348. -/
def secureLocal (n : Nat) : Bool :=
  (decide (n < 320) && (n % 8 == 2 || n % 8 == 5)) || n == 483 || n == 496 || n == 497 || n == 498 || n == 499 || n == 506
    || n == 507

/-- Whether a local number is one that its tables assign to a source (R346 to R348, R293, R409). -/
def localAssigned (n : Nat) : Bool :=
  decide (n < 320) || n == 326 || n == 327 || n == 334 || n == 335
  || (decide (352 ≤ n) && decide (n < 408)) || (decide (416 ≤ n) && decide (n < 439))
  || (decide (448 ≤ n) && decide (n < 472) && decide (n % 8 < 4)) || (decide (472 ≤ n) && decide (n < 476))
  || (decide (480 ≤ n) && decide (n < 490)) || (decide (496 ≤ n) && decide (n < 508))

/-- A source of die `D` raises local event `n`: it is on its way to the die's event controller (R349). -/
def raise (D n : Nat) (d : Dev) : Dev := updDie D (fun x => { x with raised := x.raised ++ [n] }) d

/-- A whole-package event is raised on the die whose Crown is the package Crown (R484). -/
def raisePkg (p n : Nat) (d : Dev) : Dev := raise (crownDie d p) n d

/-- Event k of the tile slot of a logical core or slice (R347). -/
def raiseSlot (D i k : Nat) (d : Dev) : Dev := raise D (8 * i + k) d

/-- Event k of a physical memory port (R293). -/
def raisePort (pk k : Nat) (d : Dev) : Dev := raise (portDie pk) (352 + 8 * portNum pk + k) d

/-- The group that an event's route gives it: false secure, true normal (R347, R352). -/
def routeNs (n : Nat) (w : Word) : Bool := !secureLocal n && getB Fl.EVC_ROUTE_GROUP w

/-- The core that an event's route names, by its system-wide number. -/
def routeCore (D : Nat) (w : Word) : Nat :=
  (D / 8 * 8 + getF Fl.EVC_ROUTE_DIE w) * 40 + getF Fl.EVC_ROUTE_CORE w

/-- Whether an event's target is a valid core of a present die (R353). -/
def targetValid (d : Dev) (D : Nat) (w : Word) : Bool :=
  decide (getF Fl.EVC_ROUTE_CORE w < 40) && coreValid d (routeCore D w)

/-- Set STRANDED on an event whose target is no valid core, and raise event 497 once when the bit is newly set (R353). -/
def strandIfNoTarget (D n : Nat) (d : Dev) : Dev :=
  let w := rg d D (Reg.EVC_ROUTE n)
  if getB Fl.EVC_ROUTE_EN w && getB Fl.EVC_ROUTE_PENDING w && !targetValid d D w && !getB Fl.EVC_ROUTE_STRANDED w then
    raise D 497 (setFlg D (Reg.EVC_ROUTE n) Fl.EVC_ROUTE_STRANDED true d)
  else d

/-- A raised event reaches its controller: it becomes pending, or merges with a pending one (R349). -/
def arrive (D n : Nat) (d : Dev) : Dev :=
  strandIfNoTarget D n (setFlg D (Reg.EVC_ROUTE n) Fl.EVC_ROUTE_PENDING true
    (updDie D (fun x => { x with raised := x.raised.erase n }) d))

/-- A candidate for presentation to a core: group, priority, identity for ordering and for CIF_TAKE, target level. -/
structure Cand where
  ns : Bool
  prio : Nat
  ident : Nat
  virt : Bool
  lvl : Nat
  die : Nat
  num : Nat
  deriving DecidableEq, Repr

/-- The target level of an event of a group (R352): PL3 for the secure group, else PL1 or PL2 by TLVL. -/
def targetLvl (ns tlvl : Bool) : Nat := if ns then (if tlvl then 2 else 1) else 3

/-- The pending, enabled, non-active events of the 512 sources that are routed to a core (R354), from the stored route
registers of the dies of its package. -/
def srcCands (d : Dev) (c : Nat) : List Cand :=
  d.regs.filterMap (fun e =>
    let D := e.1 / 0x100000000
    let off := e.1 % 0x100000000
    let n := (off - Reg.EVC_ROUTE 0) / 8
    let w := e.2
    if decide (Reg.EVC_ROUTE 0 ≤ off) && decide (off < Reg.EVC_ROUTE 511) && decide (D / 8 = corePkg c)
        && getB Fl.EVC_ROUTE_EN w && getB Fl.EVC_ROUTE_PENDING w && !getB Fl.EVC_ROUTE_ACTIVE w
        && decide (routeCore D w = c) && decide (getF Fl.EVC_ROUTE_CORE w < 40) then
      some ⟨routeNs n w, getF Fl.EVC_ROUTE_PRIO w, D % 8 * 512 + n, false,
        targetLvl (routeNs n w) (getB Fl.EVC_ROUTE_TLVL w), D, n⟩
    else none)

/-- VPRIO of a group's interface (R355). -/
def cifVprio (w : Word) : Nat := bitsOf w 2 1

/-- The pending, non-active virtual events of one group of a core (R351). -/
def virtCands (d : Dev) (c : Nat) (ns : Bool) : List Cand :=
  let x := cifSt d c ns
  (x.vpend.filter (fun v => !x.vact.contains v)).map (fun v =>
    ⟨ns, cifVprio x.cfg, v, true, targetLvl ns (bitOf x.cfg 3), coreDie c, v⟩)

/-- The running priority of a group: that of its most recent active event, 4 when none is active (R355). -/
def rprio (x : CifSt) : Nat := match x.stack with | [] => 4 | e :: _ => e.2

/-- The order of R354: secure before normal, lower PRIO first, sources by global number before virtual events by vector. -/
def Cand.before (a b : Cand) : Bool :=
  if a.ns ≠ b.ns then !a.ns
  else if a.prio ≠ b.prio then decide (a.prio < b.prio)
  else if a.virt ≠ b.virt then !a.virt
  else decide (a.ident ≤ b.ident)

/-- The first of a list in the order of R354. -/
def firstCand (l : List Cand) : Option Cand :=
  l.foldl (fun acc c => match acc with | none => some c | some b => some (if b.before c then b else c)) none

/-- Every event considered by a core (R354). -/
def allCands (d : Dev) (c : Nat) : List Cand := srcCands d c ++ virtCands d c false ++ virtCands d c true

/-- Whether an event is the service-expiry event of its core's slot (R318, R347). -/
def isExpiry (c : Nat) (e : Cand) : Bool :=
  !e.virt && e.die == coreDie c && e.num == 8 * coreLog c + 5

/-- The best event of a group whose PRIO is lower than the running priority, ignoring IEN and IES (R355). -/
def bestOfGroup (d : Dev) (c : Nat) (ns : Bool) : Option Cand :=
  firstCand ((allCands d c).filter (fun e => e.ns == ns && (decide (e.prio < rprio (cifSt d c ns)) || isExpiry c e)))

/-- The identity word that CIF_TAKE returns for an event (R355). -/
def Cand.word (e : Cand) : Word := BitVec.ofNat 64 (e.ident + b2n e.virt * 4096 + e.prio * 8192)

/-- The word that CIF_TAKE returns when no event is eligible (R355). -/
def cifNone : Word := 0x8000000000000000#64

/-- The identity of an event on a group's stack of active events: NUM and VIRT. -/
def Cand.key (e : Cand) : Nat := e.ident + b2n e.virt * 4096

/-- Mark an event active and no longer pending (R349, R355). -/
def markActive (c : Nat) (e : Cand) (d : Dev) : Dev :=
  if e.virt then
    updCif c e.ns (fun x => { x with vpend := x.vpend.erase e.num, vact := e.num :: x.vact }) d
  else
    setFlg e.die (Reg.EVC_ROUTE e.num) Fl.EVC_ROUTE_PENDING false
      (setFlg e.die (Reg.EVC_ROUTE e.num) Fl.EVC_ROUTE_ACTIVE true d)

/-- What a read of CIF_TAKE returns (R355). -/
def cifTakeValue (d : Dev) (c : Nat) (ns : Bool) : Word :=
  match bestOfGroup d c ns with | none => cifNone | some e => e.word

/-- The effect of a read of CIF_TAKE (R355). -/
def cifTake (c : Nat) (ns : Bool) (d : Dev) : Dev :=
  match bestOfGroup d c ns with
  | none => d
  | some e => updCif c ns (fun x => { x with stack := (e.key, e.prio) :: x.stack }) (markActive c e d)

/-- An active event ends: it may be presented again if it was raised meanwhile (R349). -/
def endActive (c : Nat) (ns : Bool) (key : Nat) (d : Dev) : Dev :=
  if 4096 ≤ key then updCif c ns (fun x => { x with vact := x.vact.erase (key % 4096) }) d
  else
    let D := corePkg c * 8 + key / 512
    setFlg D (Reg.EVC_ROUTE (key % 512)) Fl.EVC_ROUTE_ACTIVE false d

/-- The effect of a write to CIF_FINISH (R355): ends the most recent active event of the group if the value names it. -/
def cifFinish (c : Nat) (ns : Bool) (v : Word) (d : Dev) : Dev :=
  match (cifSt d c ns).stack with
  | e :: r =>
    if v = BitVec.ofNat 64 (e.1 + e.2 * 8192) then endActive c ns e.1 (updCif c ns (fun x => { x with stack := r }) d)
    else updCif c ns (fun x => { x with finishErr := true }) d
  | [] => updCif c ns (fun x => { x with finishErr := true }) d

/-- Whether a write of CIF_RAISE by a core is performed (R350). -/
def cifRaiseOk (d : Dev) (c : Nat) (ns : Bool) (part : BitVec 6) (v : Word) : Bool :=
  let D := corePkg c * 8 + bitsOf v 11 9
  let n := bitsOf v 8 0
  let w := rg d D (Reg.EVC_ROUTE n)
  d.cfg.present D && n % 8 == 4 && decide (n < 320) && coreValid d (D * 40 + n / 8)
    && (getF Fl.EVC_ROUTE_RAISE_PART w == part.toNat || getB Fl.EVC_ROUTE_RAISE_ANY w)
    && (!ns || routeNs n w)

/-- The effect of a write of CIF_RAISE on the events (R350). -/
def cifRaise (c : Nat) (ns : Bool) (part : BitVec 6) (v : Word) (d : Dev) : Dev :=
  if cifRaiseOk d c ns part v then raise (corePkg c * 8 + bitsOf v 11 9) (bitsOf v 8 0) d
  else updCif c ns (fun x => { x with raiseRefused := true }) d

/-- A write of CIF_TCMP sets the compare value and re-arms the comparator (R355). -/
def cifTcmp (c : Nat) (ns : Bool) (v : Word) (d : Dev) : Dev :=
  updCif c ns (fun x => { x with tcmp := v, fired := false }) d

/-- A write of CIF_CFG (R355): TEN, VPRIO and, in the normal interface, VLVL. -/
def cifCfg (c : Nat) (ns : Bool) (v : Word) (d : Dev) : Dev :=
  updCif c ns (fun x => { x with cfg := v &&& (if ns then 0xF#64 else 7#64) }) d

/-- The comparator of an interface: it raises the interface's timer event once when the time base has reached the compare
value with TEN set (R355). -/
def cifCompare (c : Nat) (ns : Bool) (d : Dev) : Dev :=
  let x := cifSt d c ns
  if bitOf x.cfg 0 && !x.fired && decide (x.tcmp.toNat ≤ nowOf d (coreDie c)) then
    raiseSlot (coreDie c) (coreLog c) (if ns then 1 else 2) (updCif c ns (fun x => { x with fired := true }) d)
  else d

/-- A read of CIF_STATE (R355). -/
def cifState (d : Dev) (c : Nat) (ns : Bool) : Word :=
  let x := cifSt d c ns
  BitVec.ofNat 64 (rprio x + b2n x.finishErr * 8 + b2n x.raiseRefused * 16 + min x.stack.length 15 * 32)

/-- A write of CIF_STATE clears its W1C bits (R355). -/
def cifStateWrite (c : Nat) (ns : Bool) (v : Word) (d : Dev) : Dev :=
  updCif c ns (fun x => { x with finishErr := x.finishErr && !bitOf v 3, raiseRefused := x.raiseRefused && !bitOf v 4 }) d

/-- A message-signalled interrupt becomes pending as a virtual event of a core's group (R351). -/
def virtualPend (c : Nat) (ns : Bool) (v : Nat) (d : Dev) : Dev :=
  updCif c ns (fun x => { x with vpend := if x.vpend.contains v then x.vpend else x.vpend ++ [v] }) d

/-- A write of EVC.ROUTE (R352): redirects the event, including a pending one. GROUP is fixed for secure events and the
whole register for service-expiry events. -/
def routeWrite (D n : Nat) (v : Word) (d : Dev) : Dev :=
  if n < 320 ∧ n % 8 = 5 then d
  else
    let old := rg d D (Reg.EVC_ROUTE n)
    let rw : Word := if secureLocal n then 0xFFFF1D#64 else 0xFFFF1F#64
    let new := ((old &&& ~~~ rw) ||| (v &&& rw)) &&& ~~~ (v &&& Fld.mask Fl.EVC_ROUTE_STRANDED)
    strandIfNoTarget D n (wr D (Reg.EVC_ROUTE n) new d)

end Sys2Proof.Machine
end

