-- ==== Sys2Proof/Machine/Ras.lean ====
section
/-! DEFINITION. Error records: packing, the sequence numbers and class counters of a package, the open-fault list, the
error bank's hold (17_reliability.md). -/

namespace Sys2Proof.Machine

/-! ### CRC-32 (R10, R434) -/

/-- One bit of the reflected CRC-32 with polynomial 0x04C11DB7. -/
def crcBit (r : Nat) : Nat := if r % 2 = 1 then (r / 2) ^^^ 0xEDB88320 else r / 2

/-- One byte of the reflected CRC-32. -/
def crcByte (r : Nat) (b : Byte) : Nat :=
  crcBit (crcBit (crcBit (crcBit (crcBit (crcBit (crcBit (crcBit (r ^^^ b.toNat))))))))

/-- CRC-32 with initial value and final exclusive-or 0xFFFFFFFF, reflected input and output (R434). -/
def crc32 (l : List Byte) : Nat := (l.foldl crcByte 0xFFFFFFFF) ^^^ 0xFFFFFFFF

/-! ### The record -/

/-- A record before the bank numbers and times it: class, kind, unit, code and nothing else valid. -/
def ErrRec.mk' (cls kind unit code : Nat) : ErrRec :=
  ⟨0, 0, cls, kind, 0, unit, code, none, none, 0, 0, 0, 1, false⟩

/-- The third word of a record: class, kind, die, package, unit, code, partition, world, validity, DROPPED (R438). -/
def ErrRec.word2 (r : ErrRec) : Nat :=
  r.cls % 4 + r.kind % 256 * 2 ^ 8 + r.die % 8 * 2 ^ 16 + r.die / 8 % 4 * 2 ^ 19 + r.unit % 256 * 2 ^ 24
    + r.code % 65536 * 2 ^ 32
    + (match r.who with
       | none => 0
       | some w => w.part.toNat * 2 ^ 48 + b2n w.ns * 2 ^ 54 + 2 ^ 55)
    + b2n r.addr.isSome * 2 ^ 56 + b2n r.dropped * 2 ^ 57

/-- The 56 bytes of a record before its CRC (R438). -/
def ErrRec.body (r : ErrRec) : List Byte :=
  toBytes 8 r.seq ++ toBytes 8 r.time ++ toBytes 8 r.word2
    ++ toBytes 8 (match r.addr with | none => 0 | some a => a % 2 ^ 48 + r.akind % 16 * 2 ^ 48)
    ++ toBytes 8 r.info0 ++ toBytes 8 r.info1 ++ toBytes 4 r.count ++ toBytes 4 0

/-- The 64 bytes of a record (R438). -/
def ErrRec.bytes (r : ErrRec) : List Byte := r.body ++ toBytes 4 (crc32 r.body) ++ toBytes 4 0

/-! ### The error bank (R438 to R441) -/

/-- Count records dropped or replaced, by class (R441, R452). -/
def countLost (D : Nat) (cls : Nat) (d : Dev) : Dev :=
  if cls = 0 then bump D Reg.RAS_HOLD Fl.RAS_HOLD_LOST_CE 1 d else bump D Reg.RAS_HOLD Fl.RAS_HOLD_LOST_OTHER 1 d

/-- Take the first element that satisfies `p` out of a list. -/
def takeFirst {α : Type} (p : α → Bool) : List α → Option (α × List α)
  | [] => none
  | a :: r => if p a then some (a, r) else (takeFirst p r).map (fun x => (x.1, a :: x.2))

/-- Hold a record in the die's error bank (R441): up to 64; a full hold replaces its oldest record of class 0, else the
oldest of a lower class, else drops the new one. -/
def holdRecord (D : Nat) (r : ErrRec) (d : Dev) : Dev :=
  let h := (dieSt d D).hold
  let dropMark (d : Dev) : Dev := updDie D (fun x => { x with holdDropped := true }) d
  if h.length < 64 then updDie D (fun x => { x with hold := h ++ [r] }) d
  else
    match takeFirst (fun e => e.cls == 0) h with
    | some (o, rest) => dropMark (countLost D o.cls (updDie D (fun x => { x with hold := rest ++ [r] }) d))
    | none =>
      match (if r.cls = 0 then none else takeFirst (fun e => decide (e.cls < r.cls)) h) with
      | some (o, rest) => dropMark (countLost D o.cls (updDie D (fun x => { x with hold := rest ++ [r] }) d))
      | none => dropMark (countLost D r.cls d)

/-- A list of at most 16 open faults takes a new one (R434): when it is full the oldest entry of class 0 gives way; with no such entry
the new fault is not entered. -/
def addFault (f : OpenFault) (l : List OpenFault) : List OpenFault :=
  if l.length < 16 then l ++ [f]
  else match takeFirst (fun (e : OpenFault) => e.cls == 0) l with
    | some (_, rest) => rest ++ [f]
    | none => l

/-- What an open fault shows of a forced exit (R434): the service number, and bit 15 for one whose timer a secure event armed. -/
def faultInfo (r : ErrRec) : Nat := if r.code = 0x14 then r.info0 % 2 ^ 12 + r.info1 % 2 * 2 ^ 15 else 0

/-- The package Crown sends a PLDM platform event, with ALERT_N asserted (R428, R430), to the event receiver if one is set; open faults
are sent so. -/
def platformEvent (p : Nat) (l : List Nat) (d : Dev) : Dev :=
  updPkg p (fun x => if x.evRecv.isSome then { x with rsp := x.rsp ++ [.event l], alert := true } else x) d

/-- Enter a record or restitch in the open-fault list (R440). -/
def openFault (D : Nat) (r : ErrRec) (d : Dev) : Dev :=
  platformEvent (D / 8) [r.cls, r.kind, r.die, r.unit, r.code] (updPkg (D / 8) (fun x =>
    { x with faults := addFault ⟨r.seq, r.time, r.cls, r.kind, r.die, r.unit, r.code, faultInfo r⟩ x.faults }) d)

/-- Whether a record is also an open fault: class 2 or 3, or a restitch (R440). -/
def ErrRec.isOpenFault (r : ErrRec) : Bool := decide (2 ≤ r.cls) || r.code == 0x10 || r.code == 0x11 || r.code == 0x12

/-- Whether an injected error of a unit is due (R452). -/
def armedFor (d : Dev) (D kind unit : Nat) : Bool := (dieSt d D).armed.any (fun a => a.1 == kind && a.2.1 == unit)

/-- A record as the bank writes it: numbered, timed, and with bit 63 of INFO1 when its error was injected (R438, R452). -/
def ErrRec.stamp (d : Dev) (D : Nat) (r : ErrRec) : ErrRec :=
  { r with seq := (pkgSt d (D / 8)).seq + 1, time := nowOf d D, die := D,
           info1 := r.info1 + (if armedFor d D r.kind r.unit then 2 ^ 63 else 0) }

/-- Die `D` writes an error record (R435, R438): it takes the next SEQ of the package and the die's time, is counted by
class, held for the log, and entered as an open fault where R440 says so. The first record of a unit that has an injection armed
is that of the injected error. -/
def record (D : Nat) (r : ErrRec) (d0 : Dev) : Dev :=
  let p := D / 8
  let r' := r.stamp d0 D
  let d := if armedFor d0 D r.kind r.unit then
      updDie D (fun x => { x with armed := x.armed.filter (fun a => !(a.1 == r.kind && a.2.1 == r.unit)) }) d0 else d0
  let d1 := updPkg p (fun x => { x with seq := x.seq + 1, counts := x.counts.modify r.cls (· + 1) }) d
  let d2 := holdRecord D r' d1
  if r.isOpenFault then openFault D r' d2 else d2

end Sys2Proof.Machine
end

