-- ==== Sys2Proof/Machine/HspCfg.lean ====
section
/-! DEFINITION. A high-speed port's functions and configuration spaces, what it sends, and MSI-X (R385 to R389, R398). Positions of
fields within configuration spaces are the PCI Express standard's (PRESUMED, log entry 15). -/

namespace Sys2Proof.Machine

/-! ### The port and its functions -/

def hspSt (d : Dev) (D : Nat) : HspSt := KMap.look HspSt.init d.hsps D
def updHsp (D : Nat) (f : HspSt → HspSt) (d : Dev) : Dev := { d with hsps := KMap.modify HspSt.init d.hsps D f }

/-- PORTMODE: 0 endpoint, 1 root port, 2 rein, 3 unused (R385). -/
def hspMode (d : Dev) (D : Nat) : Nat := fld d D Reg.HSP_MODE Fl.HSP_MODE_MODE
def hspEnd (d : Dev) (D : Nat) : Bool := hspMode d D == 0
def hspRoot (d : Dev) (D : Nat) : Bool := hspMode d D == 1
def linkUp (d : Dev) (D : Nat) : Bool := flg d D Reg.HSP_MODE Fl.HSP_MODE_LINK_UP
def perstOn (d : Dev) (D : Nat) : Bool := flg d D Reg.HSP_MODE Fl.HSP_MODE_PERST

/-- A packet leaves on the link. -/
def hspSend (D : Nat) (t : Tlp) (d : Dev) : Dev := updHsp D (fun x => { x with sent := x.sent ++ [t] }) d

def fnFld (d : Dev) (D f : Nat) (fl : Fld) : Nat := fld d D (Reg.FN_STATUS f) fl
def fnFlg (d : Dev) (D f : Nat) (fl : Fld) : Bool := flg d D (Reg.FN_STATUS f) fl
def setFnFlg (D f : Nat) (fl : Fld) (b : Bool) (d : Dev) : Dev := setFlg D (Reg.FN_STATUS f) fl b d

/-- The function whose settings the traffic of a function carries: function 1 for everything downstream of a root port (R407). -/
def fnOf (d : Dev) (D f : Nat) : Nat := if hspRoot d D then 1 else f

/-- Partition and world of a function's traffic (R388). -/
def fnWho (d : Dev) (D f : Nat) : Who :=
  let w := rg d D (Reg.FN_CFG (fnOf d D f))
  ⟨BitVec.ofNat 6 (getF Fl.FN_CFG_PART w), getB Fl.FN_CFG_NS w⟩

/-- Whether a function may carry traffic (R388). -/
def fnOn (d : Dev) (D f : Nat) : Bool := flg d D (Reg.FN_CFG (fnOf d D f)) Fl.FN_CFG_EN

/-- Whether an endpoint presents a function: a VF while VF Enable is 1 (R387). -/
def fnExists (d : Dev) (D f : Nat) : Bool := decide (f < 2) || (decide (f < 66) && fnFlg d D 1 Fl.FN_STATUS_VF_EN)

/-- Whether a package's monitor has been released (R467). -/
def released (d : Dev) (p : Nat) : Bool := flg d (crownDie d p) Reg.BOOT_STATUS Fl.BOOT_STATUS_RELEASED
/-- Whether a die's package is in Reserve mode. -/
def inReserve (d : Dev) (D : Nat) : Bool := flg d D Reg.RAS_RESERVE Fl.RAS_RESERVE_IN

/-- Whether a function may issue requests (R397, R400, R401, R403): link up, and in endpoint mode Bus Master Enable set, no shut-down
in progress, and D0. -/
def fnIssues (d : Dev) (D f : Nat) : Bool :=
  linkUp d D && !inReserve d D && (hspRoot d D || (hspEnd d D && fnFlg d D f Fl.FN_STATUS_BME && !fnFlg d D f Fl.FN_STATUS_QUIESCING
    && !fnFlg d D f Fl.FN_STATUS_FLR_BUSY && fnFld d D f Fl.FN_STATUS_DSTATE == 0))

/-! ### Configuration spaces (R387, R388) -/

/-- Kind of a function: PF0, PF1, VF, root port. -/
def fnKind (d : Dev) (D f : Nat) : Nat := if hspRoot d D then 3 else min f 2

/-- Writable bits, bits cleared by writing 1, and reset value of a configuration word. -/
structure CfgWord where
  rw : Nat
  w1c : Nat
  reset : Nat
  deriving DecidableEq, Repr

/-- Extended capabilities of a kind of function in the order of their offsets: offset and ID (R388). -/
def extCaps : Nat → List (Nat × Nat)
  | 0 => [(0x100, 0x1), (0x148, 0x3), (0x158, 0x19), (0x178, 0x25), (0x188, 0x26), (0x1B8, 0x2A), (0x1E0, 0x31), (0x200, 0x27),
          (0x280, 0x18), (0x290, 0xE)]
  | 1 => [(0x100, 0x1), (0x148, 0x3), (0x290, 0xE), (0x2A0, 0x15), (0x2B0, 0x10)]
  | 2 => [(0x100, 0x1), (0x290, 0xE)]
  | _ => [(0x100, 0x1)]

/-- The header of an extended capability: ID, version 1, and the offset of the next one. -/
def extHeader (k off : Nat) : Option Nat :=
  match (extCaps k).dropWhile (fun e => e.1 != off) with
  | [] => none
  | e :: r => some (e.2 + 2 ^ 16 + (match r with | n :: _ => n.1 | [] => 0) * 2 ^ 20)

/-- Vectors of a function (the feature table). -/
def msixCount (f : Nat) : Nat := if f = 0 then 8 else if f = 1 then 256 else 16

/-- Device ID of a kind of function; the spec gives none for the root port. -/
def deviceId (k : Nat) : Nat := if k = 3 then Config.cfgConst 3 0 % 65536 else 0x7100 + k

/-- A word of a configuration space whose kind is `k`; `lg` is the log2 of the size of BAR4 in bytes. -/
def cfgWord (k dw lg : Nat) : CfgWord :=
  let ro (v : Nat) : CfgWord := ⟨0, 0, v⟩
  let pf1 (c : CfgWord) : CfgWord := if k = 1 then c else ro (Config.cfgConst k dw)
  match extHeader k (4 * dw) with
  | some h => ro h
  | none =>
    match dw with
    | 0 => ro (deviceId k * 65536 + 0x1D7A)
    | 1 => ⟨0x0146, 0xF9000000, 0x00100000⟩
    | 2 => ro ((if k = 0 then 0x088000 else if k = 3 then 0x060400 else 0x120000) * 256 + Config.cfgConst k 2 % 256)
    | 4 => if k < 2 then ⟨0xFC000000, 0, 4⟩ else ro 0
    | 5 => if k < 2 then ⟨0xFFFFFFFF, 0, 0⟩ else ro 0
    | 6 => if k = 1 then ⟨0x80000000, 0, 0xC⟩ else if k = 3 then ⟨0xFFFFFF, 0, 0⟩ else ro 0
    | 7 => if k = 1 then ⟨0xFFFFFFFF, 0, 0⟩ else ro 0
    | 8 => if k = 1 then ⟨(2 ^ 32 - 2 ^ min lg 32), 0, 0xC⟩ else if k = 3 then ⟨0xFFF0FFF0, 0, 0⟩ else ro 0
    | 9 => if k = 1 then ⟨2 ^ 32 - 2 ^ (max lg 32 - 32), 0, 0⟩ else if k = 3 then ⟨0xFFF0FFF0, 0, 0⟩ else ro 0
    | 13 => ro (if k = 2 then 0x50 else 0x40)
    | 16 => if k = 2 then ro 0 else ro (0x5001 + Config.cfgConst k 16 % 65536 * 65536)
    | 17 => if k = 2 then ro 0 else ⟨0x0103, 0x8000, 8⟩
    | 20 => if k = 3 then ro 0 else ⟨0xC0000000, 0, 0x6011 + (msixCount k - 1) * 65536⟩
    | 21 => if k = 1 then ro 0x100000 else if k = 2 then ro 0x8000 else ro (Config.cfgConst k 21)
    | 22 => if k = 1 then ro 0x180000 else if k = 2 then ro 0xC000 else ro (Config.cfgConst k 22)
    | 24 => ro (0x10 + (if k = 3 then 0x420000 else 0x20000))
    | 26 => ⟨0x7FFF, 0xF0000, 0x2810⟩
    | 28 => ⟨0xFFB, 0, 0⟩
    | 34 => ⟨0x42F, 0, 0⟩
    | 65 => ⟨0, 0x07FFF030, 0⟩
    | 66 => ⟨0x07FFF030, 0, 0⟩
    | 67 => ⟨0x07FFF030, 0, 0x00462030⟩
    | 68 => ⟨0, 0xF1C1, 0⟩
    | 69 => ⟨0xF1C1, 0, 0x2000⟩
    | 70 => ⟨0x140, 0, 0xA0⟩
    | 75 => if k = 3 then ⟨7, 0, 0⟩ else ro (Config.cfgConst k dw)
    | 76 => if k = 3 then ⟨0, 0x7F, 0⟩ else ro (Config.cfgConst k dw)
    | 161 => if k = 0 then ⟨0x1FFF1FFF, 0, 0⟩ else ro (Config.cfgConst k dw)
    | 169 => pf1 (ro 0x1FC000)
    | 170 => pf1 ⟨0x3F00, 0, 0x0A24⟩
    | 174 => pf1 ⟨0x19, 0, 0⟩
    | 175 => pf1 (ro 0x400040)
    | 176 => pf1 ⟨0xFFFF, 0, 0⟩
    | 178 => pf1 (ro (0x7102 * 65536))
    | 181 => pf1 ⟨0xFFC00000, 0, 4⟩
    | 182 => pf1 ⟨0xFFFFFFFF, 0, 0⟩
    | 183 => pf1 ⟨0xFFC00000, 0, 0xC⟩
    | 184 => pf1 ⟨0xFFFFFFFF, 0, 0⟩
    | _ => ro (Config.cfgConst k dw)

def cfgKey (f dw : Nat) : Nat := f * 1024 + dw

/-- Stored bits of a configuration word. -/
def cfgStored (d : Dev) (D f dw : Nat) : Nat :=
  KMap.look (cfgWord (fnKind d D f) dw 30).reset (hspSt d D).cfg (cfgKey f dw)

/-- Log2 of the present size of BAR4 of PF1 in bytes: 1 to 64 GiB. -/
def bar4Lg (d : Dev) (D : Nat) : Nat := max 30 (min 36 (20 + cfgStored d D 1 170 / 256 % 64))

/-- A read of a configuration word; the enables and the D-state live in HSP.FN_STATUS. -/
def cfgRead (d : Dev) (D f dw : Nat) : Nat :=
  let v := cfgStored d D f dw
  if dw = 1 then v - v / 2 % 4 * 2 + b2n (fnFlg d D f Fl.FN_STATUS_MSE) * 2 + b2n (fnFlg d D f Fl.FN_STATUS_BME) * 4
  else if dw = 17 ∧ f < 2 then v - v % 4 + fnFld d D f Fl.FN_STATUS_DSTATE
  else if dw = 174 ∧ f = 1 ∧ hspEnd d D = true then v - v % 2 + b2n (fnFlg d D 1 Fl.FN_STATUS_VF_EN)
  else v

/-- The stored bits after a write of `v`. -/
def cfgPut (D f dw v : Nat) (d : Dev) : Dev :=
  let w := cfgWord (fnKind d D f) dw (bar4Lg d D)
  let old := BitVec.ofNat 32 (cfgStored d D f dw)
  let nv := BitVec.ofNat 32 v
  let new := ((old &&& ~~~ BitVec.ofNat 32 w.rw) ||| (nv &&& BitVec.ofNat 32 w.rw)) &&& ~~~ (nv &&& BitVec.ofNat 32 w.w1c)
  updHsp D (fun x => { x with cfg := KMap.put (cfgWord (fnKind d D f) dw 30).reset x.cfg (cfgKey f dw) new.toNat }) d

/-- The physical function whose device control words a function follows. -/
def pfOf (f : Nat) : Nat := min f 1

/-- Largest payload of a function's writes (the feature table). -/
def maxPayload (d : Dev) (D f : Nat) : Nat := min 512 (128 * 2 ^ (cfgStored d D (pfOf f) 26 / 32 % 8))
/-- Largest read request of a function (R396); a root port's own requests use 512 bytes. -/
def maxRead (d : Dev) (D f : Nat) : Nat := if hspRoot d D then 512 else min 4096 (128 * 2 ^ (cfgStored d D (pfOf f) 26 / 4096 % 8))

/-- The completion timeout in ns: the lower bound of the programmed range, 10 ms for 0b0000 (the feature table). -/
def cplTimeout (d : Dev) (D f : Nat) : Nat :=
  match cfgStored d D (pfOf f) 34 % 16 with
  | 1 => 50000
  | 2 => 1000000
  | 5 => 16000000
  | 6 => 65000000
  | 9 => 260000000
  | 10 => 1000000000
  | 13 => 4000000000
  | 14 => 17000000000
  | _ => 10000000

/-- Advanced Error Reporting notes an uncorrectable non-fatal error of a function, and event 419 (R409). -/
def aerNonFatal (D f bit : Nat) (d : Dev) : Dev :=
  let v := BitVec.ofNat 32 (cfgStored d D f 65) ||| BitVec.ofNat 32 (2 ^ bit)
  raise D 419 (updHsp D (fun x => { x with cfg := KMap.put (cfgWord (fnKind d D f) 65 30).reset x.cfg (cfgKey f 65) v.toNat }) d)

/-! ### MSI-X (R398) -/

/-- A word of a vector's table entry: address low and high, data, control; the mask bit is 1 after reset. -/
def msixWord (d : Dev) (D f vec i : Nat) : Nat := KMap.look (if i = 3 then 1 else 0) (hspSt d D).msix (f * 2048 + vec * 4 + i)
def setMsixWord (D f vec i v : Nat) (d : Dev) : Dev :=
  updHsp D (fun x => { x with msix := KMap.put (if i = 3 then 1 else 0) x.msix (f * 2048 + vec * 4 + i) v }) d

/-- Whether a vector may be sent now. BAR0 of PF0 has no MSI-X table that the host could unmask (log entry 15). -/
def msixReady (d : Dev) (D f vec : Nat) : Bool :=
  fnIssues d D f && hspEnd d D && cfgStored d D f 20 / 2 ^ 30 == 2 && (f == 0 || msixWord d D f vec 3 % 2 == 0)

/-- A vector is sent: with its table's address and data; those of PF0, for which the spec gives no table, are free values. -/
def msixOut (D f vec : Nat) (d : Dev) : Dev :=
  if f = 0 then hspSend D (.msix 0 vec (Config.freeNat (draw d)) (Config.freeNat (draw d + 1))) (drawn (drawn d))
  else hspSend D (.msix f vec (msixWord d D f vec 0 + msixWord d D f vec 1 * 2 ^ 32) (msixWord d D f vec 2)) d

/-- A vector of a function is requested: sent, or held pending (R398). Vectors beyond the function's count are ignored. -/
def msixReq (D f vec : Nat) (d : Dev) : Dev :=
  if !hspEnd d D || !fnExists d D f || decide (msixCount f ≤ vec) then d
  else if msixReady d D f vec then msixOut D f vec d
  else if (hspSt d D).pend.contains (f, vec) then d
  else updHsp D (fun x => { x with pend := x.pend ++ [(f, vec)] }) d

/-- Send what is pending for a function and may be sent now. -/
def msixFlush (D f : Nat) (d : Dev) : Dev :=
  forAll ((hspSt d D).pend.filter (fun e => e.1 == f)) (fun e d =>
    if msixReady d D f e.2 then msixOut D f e.2 (updHsp D (fun x => { x with pend := x.pend.erase e }) d) else d) d

end Sys2Proof.Machine
end

