-- ==== Sys2Proof/Machine/Recorded.lean ====
section
/-! DEFINITION. GENERATION of the caseback record (R433): which state the record holds beside its sampled fields, and the step of
change that every command makes of it. -/

namespace Sys2Proof.Machine

/-! ### The recorded part of a register -/

/-- Whether an offset lies in an array of `n` registers of 8 bytes. -/
def inArr (base n off : Nat) : Bool := decide (base ≤ off) && decide (off < base + 8 * n)

/-- Bits of a register of a memory port's block that the record holds. -/
def recPort (o : Nat) (w : Word) : Nat :=
  if o = 0x8 then w.toNat % 2 ^ 14 - bitsOf w 7 6 * 2 ^ 6
  else if o = 0xC0 then getF Fl.TRACK_STAT_HARD w
  else 0

/-- What the record holds of a register's value (the tables of R434), as a number that is equal exactly when the recorded fields are.
Remap entries and spare wires are counted apart. -/
def recVal (off : Nat) (w : Word) : Nat :=
  if off = Reg.SUCC then getF Fl.SUCC_EPOCH w * 2 + getF Fl.SUCC_DEGRADED w
  else if off = Reg.BRG_STATUS 0 ∨ off = Reg.BRG_STATUS 1 ∨ off = Reg.BRG_STATUS 2 then getF Fl.BRG_STATUS_STATE w
  else if off = Reg.REIN_STATUS then getF Fl.REIN_STATUS_STATE w
  else if inArr (Reg.LNK_STATUS 0) 194 off then getF Fl.LNK_STATUS_FAILED w
  else if inArr (Reg.LCORE 0) 40 off then w.toNat % 128
  else if inArr (Reg.LSLICE 0) 42 off then w.toNat % 256
  else if off = Reg.MEMPORT then w.toNat
  else if off = Reg.MEMMAP then w.toNat % 4 + getF Fl.MEMMAP_USABLE_GIB w * 4
  else if off = Reg.PHASE_STATUS then getF Fl.PHASE_STATUS_SPARES_LEFT w
  else if inArr (Reg.PART 0) 64 off then w.toNat % 16 + getF Fl.PART_OWN_PORTS w * 16
  else if inArr (Reg.CORE_OWN 0) 82 off then (if bitOf w 6 then w.toNat % 64 + 1 else 0)
  else if inArr (Reg.DOM_STATUS 0) 101 off then (let x := getF Fl.DOM_STATUS_STATE w; if x = 1 ∨ x = 2 then x else 0)
  else if inArr (Reg.DOM_CTL 0) 101 off then getF Fl.DOM_CTL_SECURE_HOLD w
  else if off = Reg.PKG_LIMIT then getF Fl.PKG_LIMIT_LIMIT_W w
  else if off = Reg.PKG_STATUS then getF Fl.PKG_STATUS_UNMET w + 2 * getF Fl.PKG_STATUS_DERATED w
  else if Reg.PORT_CFG 0 ≤ off ∧ off < Reg.PORT_CFG 7 then recPort (off % 0x100000) w
  else if off = Reg.RAS_RESTITCH then getF Fl.RAS_RESTITCH_COUNT w
  else if off = Reg.RAS_RESERVE then w.toNat % 16
  else if off = Reg.DBG_STATUS then w.toNat
  else if inArr (Reg.SVC_DOWN 0) 16 off then w.toNat
  else if off = Reg.LAST_WAKE_SRC ∨ off = Reg.LAST_WAKE then w.toNat
  else if off = Reg.BOOT_STATUS then getF Fl.BOOT_STATUS_CAUSE w * 2 + b2n (getF Fl.BOOT_STATUS_STOP w == 1)
  else 0

/-- Whether a package's record holds a register by its key: a register of its dies, or one kept equal in the whole system. -/
def recKey (p k : Nat) : Bool := k / 0x100000000 / 8 == p || (k / 0x100000000 == 0 && decide (0x6040000 ≤ k % 0x100000000)
  && decide (k % 0x100000000 < 0x6041200))

/-- The recorded contents of a package's registers that differ from those after reset. -/
def recRegs (d : Dev) (p : Nat) : List (Nat × Nat) :=
  d.regs.filterMap (fun e =>
    if recKey p e.1 then
      let off := e.1 % 0x100000000
      let v := recVal off e.2
      if v = recVal off (regInit (e.1 / 0x100000000) off) then none else some (e.1, v)
    else none)

/-- Spare wires in use on a die, saturating at 15 (R434). -/
def wiresUsed (d : Dev) (D : Nat) : Nat :=
  min 15 ((d.regs.filter (fun e => e.1 / 0x100000000 == D && inArr (Reg.LNK_STATUS 0) 194 (e.1 % 0x100000000))).foldl
    (fun n e => n + ((List.range 16).filter (fun i => bitOf e.2 i)).length) 0)

/-- Remap entries in use of a physical port, saturating at 255 (R434). -/
def remapsUsed (d : Dev) (k : Nat) : Nat :=
  min 255 ((d.regs.filter (fun e => e.1 / 0x100000000 == portDie k && inArr (Reg.REMAP (portNum k) 0) 256 (e.1 % 0x100000000)
    && getB Fl.REMAP_VALID e.2)).length)

/-- The logical cores of a package that run. -/
def recRun (d : Dev) (p : Nat) : List Nat := (d.cores.filter (fun e => corePkg e.1 == p && e.2.run)).map (·.1)

/-- The queue ID of the package's error-log queue, and of its Crown event-log queue (R439; places DESIGN CHOICE, log entry 21). -/
def errQueue (p : Nat) : Nat := p * 2 ^ 16 + 0x1FFF
def evtQueue (p : Nat) : Nat := p * 2 ^ 16 + 0x1FFE

/-- A queue's ID while it exists. -/
def queueIdOf (d : Dev) (q : Nat) : Nat := match KMap.look none d.queues q with | some _ => q | none => 0

/-- What the record holds of a die beside its registers. -/
structure RecDie where
  crownDown : Bool
  worn : List Nat
  badCore : List Nat
  badSlice : List Nat
  wires : Nat
  remaps : List Nat
  deriving DecidableEq, Repr

/-- Everything that a package's record holds but its sampled fields, SEQUENCE, GENERATION, TIME and the requester. -/
structure RecView where
  regs : List (Nat × Nat)
  run : List Nat
  dies : List RecDie
  crown : Nat
  faults : List OpenFault
  fw : KMap (Option FwId)
  fuses : KMap Nat
  clamped : Bool
  times : Nat × Nat × Nat
  logs : Nat × Nat
  deriving DecidableEq, Repr

/-- The recorded state of a package (R434). -/
def recView (d : Dev) (p : Nat) : RecView :=
  let x := pkgSt d p
  let die (D : Nat) : RecDie :=
    let y := dieSt d D
    ⟨y.crownDown, y.worn, y.badCore, y.badSlice, wiresUsed d D, (List.range 7).map (fun n => remapsUsed d (D * 7 + n))⟩
  ⟨recRegs d p, recRun d p, (d.cfg.diesOf p).map die, x.crown, x.faults, x.fw, x.fuses, x.clamped, (x.releaseAt, x.reserveAt, x.exitAt),
    (queueIdOf d (errQueue p), queueIdOf d (evtQueue p))⟩

/-! ### GENERATION and event 500 -/

/-- The package Crown sends MSI-X vector 1 of PF0 on every port of the package that runs as an endpoint (R433). -/
def genMsix (p : Nat) (d : Dev) : Dev := forAll (d.cfg.diesOf p) (fun D => msixReq D 0 1) d

/-- Event 500 is raised with its MSI-X vectors and its platform event (R430). -/
def genRaise (p : Nat) (d : Dev) : Dev :=
  genMsix p (platformEvent p [500] (raisePkg p 500
    (updPkg p (fun x => { x with ev500At := some (nowOf d (crownDie d p)), ev500Held := false }) d)))

/-- After a change of GENERATION the package Crown raises event 500, no more than once in any 1 ms, and otherwise holds it
(R433). -/
def genEvent (p : Nat) (d : Dev) : Dev :=
  match (pkgSt d p).ev500At with
  | some t0 => if nowOf d (crownDie d p) < t0 + 1000000 then updPkg p (fun x => { x with ev500Held := true }) d else genRaise p d
  | none => genRaise p d

/-- GENERATION of a package. -/
def setGen (p n : Nat) (d : Dev) : Dev := updPkg p (fun x => { x with generation := n }) d

/-- What a command changes of a package's recorded state is one step with its increment of GENERATION (R433, log entry 19). -/
def genStep (d0 : Dev) (p : Nat) (d : Dev) : Dev :=
  if recView d0 p = recView d p then setGen p (pkgSt d0 p).generation d
  else genEvent p (setGen p ((pkgSt d0 p).generation + 1) d)

/-- The steps of change of every package. They touch the packages, dies and ports, and nothing else. -/
def genSync (d0 d : Dev) : Dev :=
  let x := forAll ((List.range 4).filter (fun p => decide (0 < d.cfg.ndie p))) (genStep d0) d
  { d with freeCtr := x.freeCtr, dies := x.dies, pkgs := x.pkgs, hsps := x.hsps }

/-- A meaning that changes only the device: the queue is left as it is, and each package's GENERATION follows its recorded state. -/
def onDev (s : State) (f : Dev → Dev) : Host.Outcome State Fault Refusal := .next { s with dev := genSync s.dev (f s.dev) }

end Sys2Proof.Machine
end

