-- ==== Sys2Proof/Machine/CrnBase.lean ====
section
/-! DEFINITION. A Crown's structure and its mailboxes: their registers and the end of a command (R425, R426). -/

namespace Sys2Proof.Machine

def crnSt (d : Dev) (D : Nat) : CrnSt := KMap.look (CrnSt.init D) d.crns D
def updCrn (D : Nat) (f : CrnSt → CrnSt) (d : Dev) : Dev := { d with crns := KMap.modify (CrnSt.init D) d.crns D f }

/-! ### Mailboxes (R425) -/

/-- The number of a mailbox as the caseback record names the requester (R434). -/
def mbxNum : Mbx → Nat
  | .crn => 0
  | .host => 1
  | .mctp => 2
  | .jtag => 3

/-- The die that drives the boot flash and holds the management endpoint (R428, R456). -/
def flashDie (d : Dev) (p : Nat) : Nat := p * 8 + (if fld d (p * 8) Reg.STRAPS Fl.STRAPS_BOOT_SRC = 1 then 1 else 0)

/-- Where a mailbox is kept: the MCTP endpoint is its package's, on the flash-driving die. -/
def mbxDie (d : Dev) (D : Nat) (b : Mbx) : Nat :=
  match b with
  | .mctp => flashDie d (D / 8)
  | _ => D

def mbxSt (d : Dev) (D : Nat) (b : Mbx) : MbxSt := KMap.look MbxSt.init (crnSt d (mbxDie d D b)).mbx (mbxNum b)
def updMbx (D : Nat) (b : Mbx) (f : MbxSt → MbxSt) (d : Dev) : Dev :=
  updCrn (mbxDie d D b) (fun x => { x with mbx := KMap.modify MbxSt.init x.mbx (mbxNum b) f }) d

/-- CRN.MBX_STATUS as it reads. -/
def MbxSt.status (x : MbxSt) : Word :=
  BitVec.ofNat 64 (b2n x.busy + b2n x.done * 2 + b2n x.overrun * 4 + b2n x.replayed * 8 + x.result % 16 * 2 ^ 8 + x.seq % 256 * 2 ^ 16)

/-- The numbered words of a response, from RESP0. -/
def putResp (m : KMap Word) (l : List Word) : KMap Word :=
  (l.zipIdx).foldl (fun m e => KMap.put 0 m e.2 e.1) m

/-- The requester is told that its command has ended (R426). -/
def mbxNotify (D : Nat) (b : Mbx) (result : Nat) (resp : List Word) (d : Dev) : Dev :=
  match b with
  | .crn => raise D 496 d
  | .host => msixReq D 0 0 d
  | .mctp => updPkg (D / 8) (fun x => { x with rsp := x.rsp ++ [.command result resp] }) d
  | .jtag => d

/-- A command ends (R426): the response and RESULT are written, DONE is set and BUSY cleared in one write, and the requester told. -/
def mbxFinish (D : Nat) (b : Mbx) (result : Nat) (resp : List Word) (d : Dev) : Dev :=
  mbxNotify D b result resp
    (updMbx D b (fun x => { x with busy := false, done := true, result := result, resp := putResp x.resp resp, wait := none }) d)

/-- The mailboxes of a package that wait for a normal-side power request of a die (R427, DOMAIN_REQ). -/
def waitingBoxes (d : Dev) (D n : Nat) : List (Nat × Mbx) :=
  (d.cfg.diesOf (D / 8)).flatMap (fun E => ([.host, .mctp] : List Mbx).filterMap (fun b =>
    if (b = .host ∨ E = flashDie d (D / 8)) ∧ (mbxSt d E b).wait = some (D, n) then some (E, b) else none))

/-- The outcome of a normal-side power request is final: the mailbox commands that wait for it end with it in RESP0. -/
def mbxOutcome (D n code : Nat) (d : Dev) : Dev :=
  forAll (waitingBoxes d D n) (fun e => mbxFinish e.1 e.2 0 [BitVec.ofNat 64 code]) d

end Sys2Proof.Machine
end

