-- ==== Sys2Proof/Machine/SoftFloat.lean ====
section
/-! DEFINITION. Floating-point arithmetic to IEEE 754-2019 (R10, R61) over the scalar and vector element formats: exact
arithmetic on integers, then one rounding. -/

namespace Sys2Proof.SF

/-- A format: exponent and fraction bits, and whether the top exponent holds infinities (E4M3 has none, R103). -/
structure Fmt where
  eb : Nat
  fb : Nat
  inf : Bool
  deriving DecidableEq, Repr

def b64 : Fmt := ⟨11, 52, true⟩
def b32 : Fmt := ⟨8, 23, true⟩
def b16 : Fmt := ⟨5, 10, true⟩
def bf16 : Fmt := ⟨8, 7, true⟩
def e4m3 : Fmt := ⟨4, 3, false⟩
def e5m2 : Fmt := ⟨5, 2, true⟩

def Fmt.width (f : Fmt) : Nat := 1 + f.eb + f.fb
def Fmt.bias (f : Fmt) : Int := 2 ^ (f.eb - 1) - 1
def Fmt.emax (f : Fmt) : Nat := 2 ^ f.eb - 1

/-- The canonical quiet NaN (R61, R102). -/
def Fmt.nan (f : Fmt) : Nat :=
  if f.inf then f.emax * 2 ^ f.fb + 2 ^ (f.fb - 1) else 2 ^ (f.eb + f.fb) - 1

/-- Infinity of a sign; in a format without infinities, the canonical NaN. -/
def Fmt.infBits (f : Fmt) (neg : Bool) : Nat :=
  if f.inf then b2n neg * 2 ^ (f.eb + f.fb) + f.emax * 2 ^ f.fb else f.nan

/-- The largest finite value of a sign. -/
def Fmt.maxBits (f : Fmt) (neg : Bool) : Nat :=
  b2n neg * 2 ^ (f.eb + f.fb) + (if f.inf then f.emax * 2 ^ f.fb - 1 else 2 ^ (f.eb + f.fb) - 2)

/-- Zero of a sign. -/
def Fmt.zero (f : Fmt) (neg : Bool) : Nat := b2n neg * 2 ^ (f.eb + f.fb)

/-- Exception flags in the order of SYS.FCSR.FLAGS (R61). -/
def NX : Nat := 1
def UF : Nat := 2
def OF : Nat := 4
def DZ : Nat := 8
def NV : Nat := 16

/-- A decoded value: a NaN (signalling or not), an infinity, or (−1)^neg × m × 2^e. -/
inductive Val where
  | nan (sig : Bool)
  | inf (neg : Bool)
  | fin (neg : Bool) (m : Nat) (e : Int)
  deriving DecidableEq, Repr

/-- The value that a bit pattern of a format spells. -/
def unpack (f : Fmt) (bits : Nat) : Val :=
  let b := bits % 2 ^ f.width
  let neg := decide (2 ^ (f.eb + f.fb) ≤ b)
  let ex := b / 2 ^ f.fb % 2 ^ f.eb
  let fr := b % 2 ^ f.fb
  if f.inf && ex == f.emax then (if fr = 0 then .inf neg else .nan (decide (fr < 2 ^ (f.fb - 1))))
  else if !f.inf && ex == f.emax && fr == 2 ^ f.fb - 1 then .nan false
  else if ex = 0 then .fin neg fr (1 - f.bias - f.fb)
  else .fin neg (2 ^ f.fb + fr) ((ex : Int) - f.bias - f.fb)

def Val.isNan : Val → Bool | .nan _ => true | _ => false
def Val.isSig : Val → Bool | .nan s => s | _ => false
def Val.isZero : Val → Bool | .fin _ m _ => m == 0 | _ => false
def Val.isInf : Val → Bool | .inf _ => true | _ => false
def Val.sign : Val → Bool | .fin n _ _ => n | .inf n => n | .nan _ => false

/-- Bits needed for a number. -/
def blen (n : Nat) : Nat := if n = 0 then 0 else Nat.log2 n + 1

/-- Whether a discarded part rounds the kept part up: mode (0 nearest even, 1 toward zero, 2 down, 3 up, 4 nearest away),
sign, kept part, discarded part and the value of one unit of the kept part. -/
def roundUp (rm : Nat) (neg : Bool) (hi lo unit : Nat) : Bool :=
  if lo = 0 then false
  else match rm with
    | 0 => decide (unit < 2 * lo) || (2 * lo == unit && hi % 2 == 1)
    | 2 => neg
    | 3 => !neg
    | 4 => decide (unit ≤ 2 * lo)
    | _ => false

/-- The result of an overflow by rounding mode: infinity or the largest finite value. -/
def overflowBits (f : Fmt) (rm : Nat) (neg : Bool) : Nat :=
  match rm with
  | 1 => f.maxBits neg
  | 2 => if neg then f.infBits true else f.maxBits false
  | 3 => if neg then f.maxBits true else f.infBits false
  | _ => f.infBits neg

/-- The magnitude rounded to a format: kept significand, its quantum exponent, and whether bits were discarded. -/
def quantize (f : Fmt) (rm : Nat) (neg : Bool) (m : Nat) (e : Int) : Nat × Int × Bool :=
  let E := e + blen m - 1
  let q := max E (1 - f.bias) - f.fb
  let sh := q - e
  if sh ≤ 0 then (m <<< (-sh).toNat, q, false)
  else
    let u := 2 ^ sh.toNat
    let hi := m / u
    let lo := m % u
    (hi + b2n (roundUp rm neg hi lo u), q, decide (lo ≠ 0))

/-- Whether a nonzero value is tiny: below the smallest normal before rounding; where only rounding to unbounded exponent
decides, by the implementation's choice. -/
def tiny (f : Fmt) (rm : Nat) (neg : Bool) (m : Nat) (e : Int) : Bool :=
  let E := e + blen m - 1
  if 1 - f.bias ≤ E then false
  else
    let r := quantize ⟨f.eb + 8, f.fb, true⟩ rm neg m e
    if r.2.1 + blen r.1 - 1 < 1 - f.bias then true else !Config.tinyAfter

/-- Round (−1)^neg × m × 2^e to a format: the bit pattern and the flags (R61). -/
def round (f : Fmt) (rm : Nat) (neg : Bool) (m : Nat) (e : Int) : Nat × Nat :=
  if m = 0 then (f.zero neg, 0)
  else
    let r := quantize f rm neg m e
    let ovf := decide (2 ^ (f.fb + 1) ≤ r.1)
    let mant := if ovf then r.1 / 2 else r.1
    let q := if ovf then r.2.1 + 1 else r.2.1
    let be : Nat := if mant < 2 ^ f.fb then 0 else (q + f.fb + f.bias).toNat
    let fr := mant % 2 ^ f.fb
    if (if f.inf then decide (f.emax ≤ be) else decide (f.emax < be) || (be == f.emax && fr == 2 ^ f.fb - 1)) then
      (overflowBits f rm neg, OF ||| NX)
    else
      (b2n neg * 2 ^ (f.eb + f.fb) + be * 2 ^ f.fb + fr,
        if r.2.2 then (if tiny f rm neg m e then UF ||| NX else NX) else 0)

/-- The canonical NaN, with NV when a signalling NaN is among the operands. -/
def nanOf (f : Fmt) (vs : List Val) : Nat × Nat := (f.nan, if vs.any Val.isSig then NV else 0)

/-- The exact sum of two finite values as sign, significand and exponent; an exact zero sum of unlike signs is −0 only when
rounding down. -/
def sumFin (rm : Nat) (n1 : Bool) (m1 : Nat) (e1 : Int) (n2 : Bool) (m2 : Nat) (e2 : Int) : Bool × Nat × Int :=
  let e := min e1 e2
  let a : Int := (m1 <<< (e1 - e).toNat : Nat) * (if n1 then -1 else 1)
  let b : Int := (m2 <<< (e2 - e).toNat : Nat) * (if n2 then -1 else 1)
  let s := a + b
  if s = 0 then ((if n1 == n2 then n1 else rm == 2), 0, e) else (decide (s < 0), s.natAbs, e)

/-- The sum of two decoded values rounded to a format. -/
def addV (f : Fmt) (rm : Nat) (a b : Val) : Nat × Nat :=
  match a, b with
  | .fin n1 m1 e1, .fin n2 m2 e2 => let s := sumFin rm n1 m1 e1 n2 m2 e2; round f rm s.1 s.2.1 s.2.2
  | .inf x, .inf y => if x == y then (f.infBits x, 0) else (f.nan, NV)
  | .inf x, .fin _ _ _ => (f.infBits x, 0)
  | .fin _ _ _, .inf y => (f.infBits y, 0)
  | _, _ => nanOf f [a, b]

/-- A value with its sign inverted. -/
def Val.neg : Val → Val
  | .nan s => .nan s
  | .inf n => .inf (!n)
  | .fin n m e => .fin (!n) m e

/-- The exact product of two values that are not NaN; `none` for an infinity times zero. -/
def mulV (a b : Val) : Option Val :=
  match a, b with
  | .fin n1 m1 e1, .fin n2 m2 e2 => some (.fin (n1 != n2) (m1 * m2) (e1 + e2))
  | .inf x, .fin n m _ => if m = 0 then none else some (.inf (x != n))
  | .fin n m _, .inf x => if m = 0 then none else some (.inf (x != n))
  | .inf x, .inf y => some (.inf (x != y))
  | _, _ => none

def add (f : Fmt) (rm a b : Nat) : Nat × Nat := addV f rm (unpack f a) (unpack f b)
def sub (f : Fmt) (rm a b : Nat) : Nat × Nat := addV f rm (unpack f a) (unpack f b).neg

def mul (f : Fmt) (rm a b : Nat) : Nat × Nat :=
  let x := unpack f a
  let y := unpack f b
  if x.isNan || y.isNan then nanOf f [x, y]
  else match mulV x y with
    | some (.fin n m e) => round f rm n m e
    | some (.inf n) => (f.infBits n, 0)
    | _ => (f.nan, NV)

/-- Fused multiply-add: the product, negated when `np`, plus the addend, negated when `na`, with one rounding (R60, R107). -/
def fma (f : Fmt) (rm : Nat) (np na : Bool) (a b c : Nat) : Nat × Nat :=
  let x := unpack f a
  let y := unpack f b
  let z := if na then (unpack f c).neg else unpack f c
  if x.isNan || y.isNan then nanOf f [x, y, z]
  else match mulV x y with
    | none => if z.isNan then (f.nan, if z.isSig || Config.fmaNanNV then NV else 0) else (f.nan, NV)
    | some p => if z.isNan then nanOf f [z] else addV f rm (if np then p.neg else p) z

def div (f : Fmt) (rm a b : Nat) : Nat × Nat :=
  match unpack f a, unpack f b with
  | .fin n1 m1 e1, .fin n2 m2 e2 =>
    if m2 = 0 then (if m1 = 0 then (f.nan, NV) else (f.infBits (n1 != n2), DZ))
    else
      let k := f.fb + 4 + blen m2
      let q := (m1 <<< k) / m2
      let s := b2n (decide ((m1 <<< k) % m2 ≠ 0))
      round f rm (n1 != n2) (2 * q + s) (e1 - e2 - k - 1)
  | .inf x, .fin n _ _ => (f.infBits (x != n), 0)
  | .fin n _ _, .inf y => (f.zero (n != y), 0)
  | .inf _, .inf _ => (f.nan, NV)
  | x, y => nanOf f [x, y]

/-- Integer square root by bits from the highest down. -/
def isqrtAux : Nat → Nat → Nat → Nat
  | 0, _, r => r
  | k + 1, n, r => if (r + 2 ^ k) * (r + 2 ^ k) ≤ n then isqrtAux k n (r + 2 ^ k) else isqrtAux k n r

def isqrt (n : Nat) : Nat := isqrtAux (blen n / 2 + 1) n 0

def sqrt (f : Fmt) (rm a : Nat) : Nat × Nat :=
  match unpack f a with
  | .fin n m e =>
    if m = 0 then (f.zero n, 0)
    else if n then (f.nan, NV)
    else
      let k := 2 * (f.fb + 4)
      let odd := e.emod 2 == 1
      let m' := (if odd then 2 * m else m) <<< k
      let e' := if odd then e - 1 else e
      let r := isqrt m'
      round f rm false (2 * r + b2n (decide (r * r ≠ m'))) ((e' - k) / 2 - 1)
  | .inf n => if n then (f.nan, NV) else (f.infBits false, 0)
  | x => nanOf f [x]

/-- Whether `a` is less than `b`, for values that are not NaN; zeros are equal. -/
def ltV (a b : Val) : Bool :=
  match a, b with
  | .inf x, .inf y => x && !y
  | .inf x, _ => x
  | _, .inf y => !y
  | .fin n1 m1 e1, .fin n2 m2 e2 =>
    let e := min e1 e2
    decide ((m1 <<< (e1 - e).toNat : Nat) * (if n1 then (-1 : Int) else 1) <
      (m2 <<< (e2 - e).toNat : Nat) * (if n2 then (-1 : Int) else 1))
  | _, _ => false

/-- minimumNumber or maximumNumber, with −0 below +0 (R107). -/
def minMax (f : Fmt) (isMax : Bool) (a b : Nat) : Nat × Nat :=
  let x := unpack f a
  let y := unpack f b
  let fl := if x.isSig || y.isSig then NV else 0
  let w := 2 ^ f.width
  if x.isNan && y.isNan then (f.nan, fl)
  else if x.isNan then (b % w, fl)
  else if y.isNan then (a % w, fl)
  else
    let less := ltV x y || (x.isZero && y.isZero && x.sign && !y.sign)
    ((if less != isMax then a else b) % w, 0)

/-- `FEQ` (0), `FLT` (1), `FLE` (2): the result bit and the flags. -/
def cmp (f : Fmt) (op a b : Nat) : Bool × Nat :=
  let x := unpack f a
  let y := unpack f b
  if x.isNan || y.isNan then (false, if op = 0 then (if x.isSig || y.isSig then NV else 0) else NV)
  else match op with
    | 0 => (!ltV x y && !ltV y x, 0)
    | 1 => (ltV x y, 0)
    | _ => (!ltV y x, 0)

/-- Conversion between formats. `sat` is the SAT bit for an 8-bit destination (R103); `none` for other destinations. -/
def cvt (src dst : Fmt) (rm : Nat) (sat : Option Bool) (a : Nat) : Nat × Nat :=
  match unpack src a with
  | .nan s => (dst.nan, if s then NV else 0)
  | .inf n =>
    match sat with
    | some true => (dst.maxBits n, 0)
    | _ => (dst.infBits n, 0)
  | .fin n m e =>
    let r := round dst rm n m e
    if r.2 / OF % 2 = 1 then
      match sat with
      | some true => (dst.maxBits n, r.2)
      | some false => (dst.infBits n, r.2)
      | none => r
    else r

/-- The integer that a finite value rounds to, and whether it is inexact. -/
def toInt (rm : Nat) (n : Bool) (m : Nat) (e : Int) : Int × Bool :=
  if 0 ≤ e then ((m <<< e.toNat : Nat) * (if n then (-1 : Int) else 1), false)
  else
    let u := 2 ^ (-e).toNat
    let hi := m / u
    let lo := m % u
    (((hi + b2n (roundUp rm n hi lo u) : Nat) : Int) * (if n then -1 else 1), decide (lo ≠ 0))

/-- Conversion to an integer of `w` bits (R61): the result as a `w`-bit pattern, and the flags. -/
def toIntBits (f : Fmt) (rm : Nat) (signed : Bool) (w : Nat) (a : Nat) : Nat × Nat :=
  let big := if signed then 2 ^ (w - 1) - 1 else 2 ^ w - 1
  let small := if signed then 2 ^ (w - 1) else 0
  match unpack f a with
  | .nan _ => (big, NV)
  | .inf n => (if n then small else big, NV)
  | .fin n m e =>
    let r := toInt rm n m e
    let lo : Int := if signed then -(2 ^ (w - 1) : Nat) else 0
    if r.1 < lo then (small, NV)
    else if (big : Int) < r.1 then (big, NV)
    else ((r.1 % (2 ^ w : Nat)).toNat, if r.2 then NX else 0)

/-- Conversion from an integer. -/
def ofInt (f : Fmt) (rm : Nat) (i : Int) : Nat × Nat := round f rm (decide (i < 0)) i.natAbs 0

/-- The class of a value: 0 −infinity, 1 −normal, 2 −subnormal, 3 −0, 4 +0, 5 +subnormal, 6 +normal, 7 +infinity,
8 signalling NaN, 9 quiet NaN. -/
def classOf (f : Fmt) (a : Nat) : Nat :=
  match unpack f a with
  | .nan s => if s then 8 else 9
  | .inf n => if n then 0 else 7
  | .fin n m _ =>
    if m = 0 then (if n then 3 else 4)
    else if m < 2 ^ f.fb then (if n then 2 else 5) else (if n then 1 else 6)

/-- The exact sum of a list of values rounded once (R109); NV for an infinity times zero is raised by the caller. -/
def sumList (f : Fmt) (rm : Nat) (l : List Val) : Nat × Nat :=
  if l.any Val.isNan then nanOf f l
  else
    let p := l.any (fun v => v == .inf false)
    let n := l.any (fun v => v == .inf true)
    if p && n then (f.nan, NV)
    else if p then (f.infBits false, 0)
    else if n then (f.infBits true, 0)
    else
      let s := l.foldl (fun (acc : Option (Bool × Nat × Int)) v =>
        match acc, v with
        | none, .fin n m e => some (n, m, e)
        | some (n1, m1, e1), .fin n2 m2 e2 => some (sumFin rm n1 m1 e1 n2 m2 e2)
        | a, _ => a) none
      match s with
      | none => (f.zero false, 0)
      | some (n, m, e) => round f rm n m e

end Sys2Proof.SF
end

