-- ==== Sys2Proof/Machine/Atom.lean ====
section
/-! DEFINITION. What an atomic operation makes of a location's old value (R72, R125), and bytes of lines. -/

namespace Sys2Proof

/-- A `w`-bit pattern as a signed integer. -/
def signedOf (w n : Nat) : Int := if n % 2 ^ w < 2 ^ (w - 1) then (n % 2 ^ w : Nat) else ((n % 2 ^ w : Nat) : Int) - (2 ^ w : Nat)

/-- The new value of a location (R72); floating-point scatter-reduction elements round with the mode at issue and raise no
flags (R125). -/
def Atom.apply (a : Atom) (old : Nat) : Nat :=
  let w := 8 * a.size
  let o := old % 2 ^ w
  let v := a.val % 2 ^ w
  match a.fp with
  | some rm =>
    let f := if a.size = 4 then SF.b32 else SF.b64
    match a.op with
    | .add => (SF.add f rm o v).1
    | .min => (SF.minMax f false o v).1
    | .max => (SF.minMax f true o v).1
    | _ => o
  | none =>
    let less := if a.uns then decide (o < v) else decide (signedOf w o < signedOf w v)
    match a.op with
    | .add => (o + v) % 2 ^ w
    | .swap => v
    | .cas => if o = a.cmp % 2 ^ w then v else o
    | .min => if less then o else v
    | .max => if less then v else o
    | .and => o &&& v
    | .or => o ||| v

/-- `n` bytes of a line from byte `off` on, as a number. -/
def lineGet (l : LineData) (off n : Nat) : Nat := (l.toNat >>> (8 * off)) % 2 ^ (8 * n)

/-- A line with `n` bytes from byte `off` on replaced. -/
def linePut (l : LineData) (off n v : Nat) : LineData :=
  let m : LineData := BitVec.ofNat 512 ((2 ^ (8 * n) - 1) <<< (8 * off))
  (l &&& ~~~ m) ||| (BitVec.ofNat 512 ((v % 2 ^ (8 * n)) <<< (8 * off)))

/-- A byte-enable mask spread over the bits of a line. -/
def beMask (be : BitVec 64) : LineData :=
  BitVec.ofNat 512 ((List.range 64).foldl (fun a i => if be.getLsbD i then a ||| (0xFF <<< (8 * i)) else a) 0)

/-- A line with the enabled bytes taken from another (R200, WrPartial). -/
def lineMerge (old new : LineData) (be : BitVec 64) : LineData :=
  (old &&& ~~~ beMask be) ||| (new &&& beMask be)

/-- The bytes of a line, byte 0 first. -/
def lineBytes (l : LineData) : List Byte := toBytes 64 l.toNat

/-- The line that 64 bytes spell. -/
def ofLineBytes (l : List Byte) : LineData := BitVec.ofNat 512 (ofBytes l)

end Sys2Proof
end

