-- ==== Sys2Proof/Machine/Domain.lean ====
section
/-! DEFINITION. The state of a power domain and its wake (R364, R371, R373). What a transition does to a domain's contents is in
Power.lean. -/

namespace Sys2Proof.Machine

/-- The key of domain `i` of a die. -/
def domKey (D i : Nat) : Nat := D * 128 + i
def domSt (d : Dev) (D i : Nat) : DomSt := KMap.look DomSt.init d.doms (domKey D i)
def updDom (D i : Nat) (f : DomSt → DomSt) (d : Dev) : Dev := { d with doms := KMap.modify DomSt.init d.doms (domKey D i) f }

/-- STATE of a domain: 0 on, 1 retention, 2 off, 3 and 4 entering them, 5 waking, 6 absent. -/
def domState (d : Dev) (D i : Nat) : Nat := fld d D (Reg.DOM_STATUS i) Fl.DOM_STATUS_STATE
def setDomState (D i st : Nat) (d : Dev) : Dev := setFld D (Reg.DOM_STATUS i) Fl.DOM_STATUS_STATE st d

/-- Whether a domain takes requests. -/
def domOn (d : Dev) (D i : Nat) : Bool := domState d D i == 0

/-! ### Voltage and operating points (R374 to R376) -/

/-- Whether a domain is clocked (R374): memory ports, the high-speed port, bridges. -/
def domClocked (i : Nat) : Bool := decide (88 ≤ i) && decide (i ≤ 98)

/-- Minimum voltage of an operating point in mV (R374). -/
def oppMin (i opp : Nat) : Nat :=
  if 88 ≤ i ∧ i ≤ 94 then [750, 750, 780, 800, 830, 850].getD opp 850
  else if i = 95 then [750, 750, 800, 850].getD opp 850
  else if 96 ≤ i ∧ i ≤ 98 then [750, 800].getD opp 800
  else 0

/-- The voltage range of a self-timed domain in mV (R364). -/
def voltRange (i : Nat) : Nat × Nat :=
  if i < 44 then (450, 1050) else if i < 88 then (650, 1050) else if i = 99 then (800, 1050) else (0, 4095)

/-- The voltage that a domain which is on moves to: VOLT within the range of R364, at least the minimum of the point in force. -/
def domTarget (d : Dev) (D i : Nat) : Nat :=
  let v := fld d D (Reg.DOM_CTL i) Fl.DOM_CTL_VOLT
  if domClocked i then max (min v 950) (oppMin i (fld d D (Reg.DOM_CTL i) Fl.DOM_CTL_OPP))
  else max (voltRange i).1 (min (voltRange i).2 v)

/-- The retention voltage in force (the field RET_V). -/
def retVolt (d : Dev) (D i : Nat) : Nat := max (fld d D (Reg.DOM_CTL i) Fl.DOM_CTL_RET_V) (Config.retVmin D i)

/-- The voltage that a domain moves to in its present state. -/
def voltGoal (d : Dev) (D i : Nat) : Nat :=
  match domState d D i with
  | 1 | 3 => retVolt d D i
  | 2 | 4 | 6 => 0
  | _ => domTarget d D i

/-- A voltage after `n` ns of moving from `v` to `g` by 1 mV in every `step` ns. -/
def slewTo (v g n step : Nat) : Nat := if v ≤ g then min g (v + n / step) else max g (v - n / step)

/-- VNOW (R371, R376): 50 mV/µs for a self-timed domain that is on, 500 mV/µs on entry to and exit from retention. -/
def voltNow (d : Dev) (D i : Nat) : Nat :=
  let x := domSt d D i
  let n := nowOf d D - x.vat
  if domState d D i = 0 ∧ domClocked i = false then slewTo x.vfrom (voltGoal d D i) n 20
  else if domState d D i = 0 then voltGoal d D i
  else slewTo x.vfrom (voltGoal d D i) n 2

/-- Note the present voltage before what it moves to changes. -/
def voltMark (D i : Nat) (d : Dev) : Dev :=
  let v := voltNow d D i
  updDom D i (fun x => { x with vfrom := v, vat := nowOf d D }) d

/-- The operating point of a clocked domain changes (R374, R375). -/
def oppSet (D i opp : Nat) (d : Dev) : Dev := setFld D (Reg.DOM_CTL i) Fl.DOM_CTL_OPP opp (voltMark D i d)

/-! ### Wakes -/

/-- Record a wake (R373): the domain, its cause and event, when it began, one more in GEN, and event 487. -/
def recordWake (D dom cause ev since : Nat) (d : Dev) : Dev :=
  let w := rg d D Reg.LAST_WAKE_SRC
  let w' := setF Fl.LAST_WAKE_SRC_GEN (getF Fl.LAST_WAKE_SRC_GEN w + 1) (setF Fl.LAST_WAKE_SRC_EVNUM ev
    (setF Fl.LAST_WAKE_SRC_CAUSE cause (setF Fl.LAST_WAKE_SRC_DOM dom 0)))
  raise D 487 (wr D Reg.LAST_WAKE_SRC w' (wr D Reg.LAST_WAKE (BitVec.ofNat 64 since) d))

/-- A domain in retention or off starts to wake (R371): it stays on, and REQ reads on. -/
def domWake (D i cause ev : Nat) (d : Dev) : Dev :=
  if domState d D i = 1 ∨ domState d D i = 2 then
    setDomState D i 5 (setFld D (Reg.DOM_CTL i) Fl.DOM_CTL_REQ 0 (voltMark D i
      (updDom D i (fun x => { x with cur := some ⟨0, 2, cause, ev, 0⟩, was := domState d D i, since := nowOf d D }) d)))
  else d

/-- A request reaches a domain (R371): one in retention, or a core's in either state, wakes; a request that comes while the
domain is on its way to retention makes a request for on, held until that transition ends (R366). -/
def domReach (D i : Nat) (d : Dev) : Dev :=
  if domState d D i = 1 ∨ (domState d D i = 2 ∧ i < 44) then domWake D i 2 0xFFF d
  else if domState d D i = 3 ∧ (domSt d D i).held = none then updDom D i (fun x => { x with held := some ⟨0, 2, 2, 0xFFF, 0⟩ }) d
  else d

/-- A request reaches a memory port in self-refresh (R284, R371): the port leaves it, and the request is then served. -/
def portReach (k : Nat) (d : Dev) : Dev :=
  let D := portDie k
  let i := 88 + portNum k
  if fld d D (Reg.PORT_STATUS (portNum k)) Fl.PORT_STATUS_STATE = 5 ∧ domState d D i = 1 then
    recordWake D i 2 0xFFF (nowOf d D) (setFld D (Reg.PORT_STATUS (portNum k)) Fl.PORT_STATUS_STATE 3
      (setDomState D i 0 (setFld D (Reg.DOM_CTL i) Fl.DOM_CTL_REQ 0 d)))
  else d

end Sys2Proof.Machine
end

