-- ==== Sys2Proof/Machine/MemMap.lean ====
section
/-! DEFINITION. The physical address map (R23 to R29), the interleave of DRAM over ports (R273), the split of a port data
address (R274), the check groups (R298), the code table (R300), and the region firewalls (R323 to R327). -/

namespace Sys2Proof.Machine

/-- What a physical address names (R23). -/
inductive Region where
  /-- Offset in the DRAM window of a package. -/
  | dram (p : Nat) (off : Nat)
  /-- Offset in the port window of a die. -/
  | portWin (D : Nat) (off : Nat)
  /-- Offset in the scratchpad window of slice number s of a die. -/
  | spad (D s : Nat) (off : Nat)
  /-- Offset in the register space of a die. -/
  | reg (D : Nat) (off : Nat)
  | unmapped
  deriving DecidableEq, Repr

/-- The address map (R23). -/
def regionOf (pa : Nat) : Region :=
  if pa < 0x040000000000 then .dram (pa / 2 ^ 40) (pa % 2 ^ 40)
  else if pa < 0xC00000000000 then .unmapped
  else if pa < 0xE00000000000 then
    let o := pa - 0xC00000000000
    .portWin (o / 2 ^ 43 * 8 + o / 2 ^ 40 % 8) (o % 2 ^ 40)
  else if pa < 0xE04000000000 then
    let o := pa - 0xE00000000000
    if o / 2 ^ 32 % 16 < 8 then .spad (o / 2 ^ 36 * 8 + o / 2 ^ 32 % 16) (o / 2 ^ 26 % 64) (o % 2 ^ 26) else .unmapped
  else if pa < 0xF00000000000 then .unmapped
  else if pa < 0xF04000000000 then
    let o := pa - 0xF00000000000
    if o / 2 ^ 32 % 16 < 8 then .reg (o / 2 ^ 36 * 8 + o / 2 ^ 32 % 16) (o % 2 ^ 32) else .unmapped
  else .unmapped

/-- Whether a block of the register-space table occupies an offset (R29). -/
def blockAt (off : Nat) : Bool :=
  decide (off < 0x210000) || (decide (0x300000 ≤ off) && decide (off < 0x530000))
  || (decide (0x600000 ≤ off) && decide (off < 0x700000)) || (decide (0x1000000 ≤ off) && decide (off < 0x1700000))
  || (decide (0x2000000 ≤ off) && decide (off < 0x2B00000)) || (decide (0x6000000 ≤ off) && decide (off < 0x8000000))

/-! ### Ports and geometry -/

/-- Rows per bank, spare rows per bank and data rows per bank of a density and mode (R270). -/
def geometry (density : Nat) (clamshell : Bool) : Nat × Nat × Nat :=
  match density, clamshell with
  | 0, false => (16384, 4, 14560)
  | 1, false => (24576, 6, 21840)
  | 2, false => (32768, 8, 29120)
  | 0, true => (32768, 8, 29120)
  | 1, true => (49152, 12, 43680)
  | 2, true => (65536, 7, 58248)
  | _, _ => (0, 0, 0)

/-- Geometry of a physical port from its configuration register. -/
def portGeom (d : Dev) (k : Nat) : Nat × Nat × Nat :=
  geometry (fld d (portDie k) (Reg.PORT_CFG (portNum k)) Fl.PORT_CFG_DENSITY)
    (flg d (portDie k) (Reg.PORT_CFG (portNum k)) Fl.PORT_CFG_CLAMSHELL)

/-- Data capacity of a physical port in bytes: 4 channels × 16 banks × data rows × 2,048 (R270). -/
def portCap (d : Dev) (k : Nat) : Nat := 4 * 16 * (portGeom d k).2.2 * 2048

/-- Data capacity C per port of a package; every port of a package has one density and mode (R271). -/
def pkgCap (d : Dev) (p : Nat) : Nat := portCap d (p * 8 * 7 + fld d (p * 8) Reg.MEMPORT ⟨2, 0⟩)

/-- Whether a package runs the die-local interleave (R272). -/
def dieLocal (d : Dev) (p : Nat) : Bool := flg d (p * 8) Reg.MEMMAP Fl.MEMMAP_MODE

/-- Usable DRAM length of a package in bytes (R24). -/
def usableLen (d : Dev) (p : Nat) : Nat := fld d (p * 8) Reg.MEMMAP Fl.MEMMAP_USABLE_GIB * 2 ^ 30

/-- The rotation that breaks power-of-two strides (R273). -/
def rot (q : Nat) : Nat := (q ^^^ (q >>> 6) ^^^ (q >>> 12) ^^^ (q >>> 18) ^^^ (q >>> 24)) % 64

/-- The die, logical port and port data address that a package window offset selects (R273). -/
def selectPort (loc : Bool) (ndie cap a : Nat) : Nat × Nat × Nat :=
  let slice := 6 * cap / 2 ^ 30 * 2 ^ 30
  let die0 := if loc then a / slice else 0
  let n := if loc then 6 else 6 * ndie
  let u := (a - die0 * slice * b2n loc) / 256
  let q := u / n
  let k := (u % n + rot q) % n
  (if loc then die0 else k / 6, if loc then k else k % 6, q * 256 + a % 256)

/-- The system die, logical port and port data address of a DRAM address. -/
def locate (d : Dev) (pa : Nat) : Nat × Nat × Nat :=
  let p := pa / 2 ^ 40
  let r := selectPort (dieLocal d p) (d.cfg.ndie p) (pkgCap d p) (pa % 2 ^ 40)
  (p * 8 + r.1, r.2)

/-- The physical port that serves a logical port of a die (R272). -/
def physPort (d : Dev) (D n : Nat) : Nat := D * 7 + fld d D Reg.MEMPORT ⟨3 * n + 2, 3 * n⟩

/-- The physical port and port data address of a DRAM address. -/
def portOf (d : Dev) (pa : Nat) : Nat × Nat :=
  let r := locate d pa
  (physPort d r.1 r.2.1, r.2.2)

/-- Parity of the low 48 bits of a number. -/
def parity (n : Nat) : Nat := (List.range 48).foldl (fun a i => a ^^^ (n >>> i % 2)) 0

/-- Where a line lies in its port: channel, bank, column line number, data row (R274). -/
structure RowPos where
  chan : Nat
  bank : Nat
  col : Nat
  dataRow : Nat
  deriving DecidableEq, Repr

/-- One bit of a port's channel or bank number: the parity of D under a mask register. -/
def maskBit (d : Dev) (k off dd : Nat) : Nat := parity (dd &&& (rg d (portDie k) off).toNat)

/-- The split of a port data address (R274). -/
def splitD (d : Dev) (k dd : Nat) : RowPos :=
  let n := portNum k
  ⟨maskBit d k (Reg.CHMASK n 0) dd + 2 * maskBit d k (Reg.CHMASK n 1) dd,
   maskBit d k (Reg.BAMASK n 0) dd + 2 * maskBit d k (Reg.BAMASK n 1) dd + 4 * maskBit d k (Reg.BAMASK n 2) dd
     + 8 * maskBit d k (Reg.BAMASK n 3) dd,
   dd / 2 ^ 14 % 8 * 4 + dd / 64 % 4, dd / 2 ^ 17⟩

/-- Physical row of a data row: 9 × (r >> 3) + (r & 7) (R274). -/
def physRow (r : Nat) : Nat := 9 * (r / 8) + r % 8
/-- Check row of a data row's block (R274). -/
def checkRow (r : Nat) : Nat := 9 * (r / 8) + 8

/-- Number i of a data line within its block: data row of the block × 32 + column line (R298). -/
def lineInBlock (x : RowPos) : Nat := x.dataRow % 8 * 32 + x.col

/-- Index of a line's check group in the order of R309. -/
def groupIdx (x : RowPos) : Nat := ((x.dataRow / 8 * 4 + x.chan) * 16 + x.bank) * 16 + lineInBlock x / 16

/-- The code that the region table gives for a package window offset (R300): false strong, true light. With `newOf` the
entry being converted reads with its new code. -/
def codeOfOffset (d : Dev) (p : Nat) (newOf : Option (Nat × Bool)) (a : Nat) : Bool :=
  let g := a / 2 ^ 30
  match (List.range 64).find? (fun n =>
      let w := rg d (p * 8) (Reg.CODE_REG n)
      getB Fl.CODE_REG_EN w && decide (getF Fl.CODE_REG_BASE w ≤ g) && decide (g < getF Fl.CODE_REG_LIMIT w)) with
  | none => false
  | some n =>
    match newOf with
    | some (m, c) => if m = n then c else getB Fl.CODE_REG_CODE (rg d (p * 8) (Reg.CODE_REG n))
    | none => getB Fl.CODE_REG_CODE (rg d (p * 8) (Reg.CODE_REG n))

/-- The package window offset that selects a logical port slot and port data address: the inverse of `selectPort`. -/
def offsetOf (loc : Bool) (ndie cap die lport dd : Nat) : Nat :=
  let n := if loc then 6 else 6 * ndie
  let q := dd / 256
  let k := if loc then lport else die * 6 + lport
  let r := (k + (64 * n - rot q)) % n
  (q * n + r) * 256 + dd % 256 + b2n loc * die * (6 * cap / 2 ^ 30 * 2 ^ 30)

/-- Port data addresses of the lines of the check group of a line: the lines of the same data row, channel and bank whose
line numbers fall in the same sixteen (R298). -/
def groupLines (d : Dev) (k dd : Nat) : List Nat :=
  let x := splitD d k dd
  ((List.range 2048).map (fun i => dd / 2 ^ 17 * 2 ^ 17 + i * 64)).filter (fun dd' =>
    let y := splitD d k dd'
    y.chan == x.chan && y.bank == x.bank && lineInBlock y / 16 == lineInBlock x / 16)

/-- The entry of the region code table under conversion in a package with its new code, when the line's check group lies
below the port's fence (R309). -/
def convNew (d : Dev) (p k dd : Nat) : Option (Nat × Bool) :=
  if flg d (p * 8) Reg.CODE_CONV Fl.CODE_CONV_BUSY
      && decide (groupIdx (splitD d k dd) < fld d (portDie k) (Reg.CONV_FENCE (portNum k)) Fl.CONV_FENCE_GROUP) then
    some (fld d (p * 8) Reg.CODE_CONV Fl.CODE_CONV_REGION, flg d (p * 8) Reg.CODE_CONV Fl.CODE_CONV_NEWCODE)
  else none

/-- Package window offset of port data address `dd` of logical port `n` of die `D`. -/
def winOffset (d : Dev) (D n dd : Nat) : Nat :=
  offsetOf (dieLocal d (D / 8)) (d.cfg.ndie (D / 8)) (pkgCap d (D / 8)) (D % 8) n dd

/-- The effective code of a line (R298): light only if the region table gives light for all 16 lines of its group. -/
def effCode (d : Dev) (pa : Nat) : Rs.Code :=
  let p := pa / 2 ^ 40
  let l := locate d pa
  let k := physPort d l.1 l.2.1
  let nw := convNew d p k l.2.2
  if codeOfOffset d p nw (pa % 2 ^ 40)
      && (groupLines d k l.2.2).all (fun dd => codeOfOffset d p nw (winOffset d l.1 l.2.1 dd)) then .light
  else .strong

/-! ### Region firewalls (R323 to R327) -/

/-- What an access needs: to read, to write, or both in one region (R324). -/
inductive Need where
  | r | w | rw
  deriving DecidableEq, Repr

/-- Whether a region's three registers admit an access (R324). -/
def regionAdmits (cfg limit mask : Word) (who : Who) (need : Need) (pa : Nat) : Bool :=
  getB Fl.FW_CFG_EN cfg && decide (getF Fl.FW_CFG_BASE cfg ≤ pa / 2 ^ 21) && decide (pa / 2 ^ 21 < getF Fl.FW_LIMIT_LIMIT limit)
    && (getB Fl.FW_CFG_NS cfg == who.ns) && mask.getLsbD who.part.toNat
    && (match need with
        | .r => getB Fl.FW_CFG_R cfg
        | .w => getB Fl.FW_CFG_W cfg
        | .rw => getB Fl.FW_CFG_R cfg && getB Fl.FW_CFG_W cfg)

/-- Whether firewall `f` of a die admits an access (R324). -/
def fwAdmits (d : Dev) (D f : Nat) (who : Who) (need : Need) (pa : Nat) : Bool :=
  (List.range 32).any (fun r =>
    regionAdmits (rg d D (Reg.FW_CFG f r)) (rg d D (Reg.FW_LIMIT f r)) (rg d D (Reg.FW_MASK f r)) who need pa)

/-- Whether a DRAM access passes the DRAM firewall check: within the usable length of a present package (R24) and admitted
by its table (R325). -/
def dramAdmits (d : Dev) (who : Who) (need : Need) (pa : Nat) : Bool :=
  let p := pa / 2 ^ 40
  decide (0 < d.cfg.ndie p) && decide (pa % 2 ^ 40 < usableLen d p) && fwAdmits d (p * 8) 0 who need pa

/-- Which unit found a refusal (the SRC field of ISO.FW_LAST). -/
inductive FwSrc where
  | core | hsp | queue | other
  deriving DecidableEq, Repr

def FwSrc.code : FwSrc → Nat
  | .core => 0 | .hsp => 1 | .queue => 2 | .other => 3

/-- Record a refusal in the copy that found it (R326): REFUSED, FW_LAST, and for the first refusal after EVT was cleared EVT
and the local event `ev` of the finding die. -/
def fwRefuse (D f : Nat) (who : Who) (write : Bool) (src : FwSrc) (pa ev : Nat) (d : Dev) : Dev :=
  let st := rg d D (Reg.FW_STATUS f)
  let last := setB Fl.FW_LAST_WRITE write (setB Fl.FW_LAST_NS who.ns (setF Fl.FW_LAST_PART who.part.toNat
    (setF Fl.FW_LAST_SRC src.code (BitVec.ofNat 64 (pa % 2 ^ 48)))))
  let d1 := wr D (Reg.FW_LAST f) last (bump D (Reg.FW_STATUS f) Fl.FW_STATUS_REFUSED 1 d)
  if getB Fl.FW_STATUS_EVT st then d1 else raise D ev (setFlg D (Reg.FW_STATUS f) Fl.FW_STATUS_EVT true d1)

end Sys2Proof.Machine
end

