-- ==== Sys2Proof/Machine/Dram.lean ====
section
/-! DEFINITION. DRAM behind the memory ports: the stored bytes and check bytes of a line, decoding with its corrections,
poison, the repeat tracker, row activation with disturbance protection, and the accesses that homes and other units make
(10_memory_ports.md, 11_memory_integrity.md). -/

namespace Sys2Proof.Machine

/-! ### Bytes of memory -/

/-- The stored byte at a DRAM address. -/
def memByte (d : Dev) (pa : Nat) : Byte := KMap.look memByte0 d.mem pa

/-- Store one byte. -/
def memPut (m : List Host.Cell) (pa : Nat) (b : Byte) : List Host.Cell := KMap.put memByte0 m pa b

/-- Store bytes from an address on. -/
def memPutAll (m : List Host.Cell) (pa : Nat) : List Byte → List Host.Cell
  | [] => m
  | b :: r => memPutAll (memPut m pa b) (pa + 1) r

/-- Remove every listed byte of an address range. -/
def memDrop (m : List Host.Cell) (lo hi : Nat) : List Host.Cell :=
  m.filter (fun e => !(decide (lo ≤ e.1) && decide (e.1 < hi)))

/-- Bytes of a line that an error injected at its port strikes at the next access (R452): one bit of one byte, or of one byte more
than the code corrects. -/
def injCount (d : Dev) (la : Nat) : Nat :=
  match (portSt d (portOf d la).1).inject with
  | none => 0
  | some ty => if ty = 2 then (effCode d la).t + 1 else 1

/-- The 64 stored data bytes of the line at a line address. -/
def storedData (d : Dev) (la : Nat) : List Byte :=
  (List.range 64).map (fun i => memByte d (la + i) ^^^ (if i < injCount d la then 1#8 else 0#8))

/-- The 8 bytes of check storage of a line (R298), held under line number × 8 + index. -/
def storedChk (d : Dev) (la : Nat) : List Byte := (List.range 8).map (fun i => KMap.look 0#8 d.chk (la / 64 * 8 + i))

/-- Store a list of check bytes. -/
def chkPutAll (m : KMap Byte) (k : Nat) : List Byte → KMap Byte
  | [] => m
  | b :: r => chkPutAll (KMap.put 0#8 m k b) (k + 1) r

/-- Mark a line of a port written since the port's lines were all poisoned. -/
def markWritten (k la : Nat) (d : Dev) : Dev :=
  if (portSt d k).allPoison then updPort k (fun x => { x with written := KMap.put false x.written (la / 64) true }) d else d

/-- Store a line with the check bytes of its effective code, poisoned or not (R295, R297). -/
def storeLine (la : Nat) (poison : Bool) (data : List Byte) (d : Dev) : Dev :=
  let c := effCode d la
  let d1 := { d with mem := memPutAll d.mem la data, chk := chkPutAll d.chk (la / 64 * 8) (Rs.checkBytes c poison data) }
  markWritten (portOf d la).1 la d1

/-- The state of a port (`PORT.STATUS.STATE`). -/
def portState (d : Dev) (k : Nat) : Nat := fld d (portDie k) (Reg.PORT_STATUS (portNum k)) Fl.PORT_STATUS_STATE

/-- Whether a line reads as poison because its port has failed, or because every line of its port was poisoned and the line
was not written since (R292). -/
def lineLost (d : Dev) (k la : Nat) : Bool :=
  portState d k == 6 || ((portSt d k).allPoison && !KMap.look false (portSt d k).written (la / 64))

/-- The decode of a stored line (R297). -/
def decodeLine (d : Dev) (la : Nat) : Rs.Dec :=
  if lineLost d (portOf d la).1 la then .poisoned
  else
    let c := effCode d la
    Rs.decode c (storedData d la) ((storedChk d la).take c.nchk)

/-! ### Records of a port -/

/-- A port's error record about a line: port data address with AKIND 1 (R438). -/
def portRec (k cls code dd : Nat) : ErrRec :=
  { ErrRec.mk' cls 0x07 (portNum k) code with addr := some dd, akind := 1 }

/-- A correction by a demand read (R301): CE_DEMAND, and a record with event k = 4 at the first after the count was cleared
and at every CE_EVERYth after it. -/
def countDemandCe (k dd : Nat) (d : Dev) : Dev :=
  let D := portDie k
  let n := portNum k
  let every := max 1 (fld d D (Reg.ECC_CTL n) Fl.ECC_CTL_CE_EVERY)
  let first := fld d D (Reg.ECC_STAT n) Fl.ECC_STAT_CE_DEMAND == 0
  let cnt := (portSt d k).sinceCe + 1
  let d1 := bump D (Reg.ECC_STAT n) Fl.ECC_STAT_CE_DEMAND 1 d
  if first || cnt == every then
    raisePort k 4 (record D { portRec k 0 0x01 dd with count := if first then 1 else cnt }
      (updPort k (fun x => { x with sinceCe := 0 }) d1))
  else updPort k (fun x => { x with sinceCe := cnt }) d1

/-! ### The repeat tracker (R303, R305) -/

def trackFind (d : Dev) (k dd : Nat) : Option TrackEnt := (portSt d k).track.find? (fun e => e.d == dd)

def trackFree (k dd : Nat) (d : Dev) : Dev :=
  updPort k (fun x => { x with track := x.track.filter (fun e => e.d != dd) }) d

/-- Set an entry's state and count, if the line has one. -/
def trackSet (k dd : Nat) (st : TrackSt) (count : Nat) (d : Dev) : Dev :=
  updPort k (fun x => { x with track := x.track.map (fun e => if e.d == dd then { e with st := st, count := count } else e) }) d

/-- The COUNTING entry with the lowest count, the earliest allocated of equal ones (R305). -/
def trackVictim (l : List TrackEnt) : Option TrackEnt :=
  l.foldl (fun acc e => if e.st == .counting then
      (match acc with | none => some e | some a => if e.count < a.count then some e else some a) else acc) none

/-- Allocate an entry for a line; a full tracker replaces its victim, or counts the line as untracked (R305). -/
def trackAlloc (k dd pa : Nat) (st : TrackSt) (d : Dev) : Dev × Bool :=
  let t := (portSt d k).track
  if t.length < 256 then (updPort k (fun x => { x with track := t ++ [⟨dd, pa, 0, st⟩] }) d, true)
  else
    match trackVictim t with
    | some v => (updPort k (fun x => { x with track := t.erase v ++ [⟨dd, pa, 0, st⟩] }) d, true)
    | none => (bump (portDie k) (Reg.TRACK_STAT (portNum k)) Fl.TRACK_STAT_UNTRACKED 1 d, false)

/-- A line is classed hard (R304): counted, recorded with bit 0 or 1 of INFO0 telling whether the bad bytes lie in its data
row or its check row, and event k = 4. -/
def hardLine (k dd : Nat) (inData inCheck : Bool) (d : Dev) : Dev :=
  raisePort k 4 (record (portDie k) { portRec k 0 0x0D dd with info0 := b2n inData + 2 * b2n inCheck }
    (bump (portDie k) (Reg.TRACK_STAT (portNum k)) Fl.TRACK_STAT_HARD 1 d))

/-- `on_read` of R303 for a demand read. -/
def onReadDemand (k dd pa : Nat) (r : Rs.Dec) (d : Dev) : Dev :=
  match trackFind d k dd, r with
  | some ⟨_, _, _, .rewritten⟩, .corrected _ a b => trackFree k dd (hardLine k dd a b d)
  | some ⟨_, _, _, .rewritten⟩, _ => trackFree k dd d
  | some e, .corrected _ _ _ => bumpTrack e d
  | none, .corrected _ _ _ =>
    let r := trackAlloc k dd pa .counting d
    if r.2 then bumpTrack ⟨dd, pa, 0, .counting⟩ r.1 else r.1
  | _, _ => d
where
  /-- Count one more correction; at REPAIR_AT the repair rewrite is scheduled. -/
  bumpTrack (e : TrackEnt) (d : Dev) : Dev :=
    let at' := max 1 (fld d (portDie k) (Reg.ECC_CTL (portNum k)) Fl.ECC_CTL_REPAIR_AT)
    if at' ≤ e.count + 1 ∧ e.st = .counting then
      record (portDie k) (portRec k 0 0x0B dd) (trackSet k dd .repairDue (e.count + 1) d)
    else trackSet k dd e.st (e.count + 1) d

/-- `on_write` of R303. -/
def onWrite (k dd : Nat) (d : Dev) : Dev :=
  match trackFind d k dd with
  | some ⟨_, _, _, .counting⟩ => trackFree k dd d
  | some ⟨_, _, c, .repairDue⟩ => trackSet k dd .rewritten c d
  | _ => d

/-! ### The check cache (R299) -/

/-- Number of the check line of a line within its port: block, channel, bank and check line of the block. -/
def checkLineOf (d : Dev) (k dd : Nat) : Nat :=
  let x := splitD d k dd
  ((x.dataRow / 8 * 4 + x.chan) * 16 + x.bank) * 32 + lineInBlock x / 8

/-- The check line of a line enters the check cache of 1,024 lines and 8 ways, dirty after a write (R299). Which check line a full set
gives up, written back if it is dirty, R299 leaves open; a check line reads the same from the cache and from its row. -/
def checkTouch (k dd : Nat) (dirty : Bool) (d : Dev) : Dev :=
  let cl := checkLineOf d k dd
  let l := (portSt d k).ccache
  let cur := KMap.look 0 l cl
  let put (d : Dev) : Dev := updPort k (fun x => { x with ccache := KMap.put 0 x.ccache cl (if dirty then 2 else max cur 1) }) d
  if cur ≠ 0 ∨ l.length < 8 then put d
  else
    let mine := l.filter (fun e => Config.checkSet e.1 % 128 == Config.checkSet cl % 128)
    match (if mine.length < 8 then none else freeChoice mine (draw d)) with
    | some v => put (updPort k (fun x => { x with ccache := KMap.del x.ccache v.1 }) (drawn d))
    | none => put d

/-- Write back every dirty check line of a port (R284, R299). -/
def checkFlush (k : Nat) (d : Dev) : Dev :=
  updPort k (fun x => { x with ccache := x.ccache.map (fun e => (e.1, 1)) }) d

/-! ### Row activation (R281, R282) -/

/-- The valid remap entry of a channel that names a row of a bank (R288). -/
def remapOf (d : Dev) (k chan bank row : Nat) : Option Word :=
  ((List.range 64).map (fun e => rg d (portDie k) (Reg.REMAP (portNum k) (chan * 64 + e)))).find? (fun w =>
    getB Fl.REMAP_VALID w && getF Fl.REMAP_BANK w == bank && getF Fl.REMAP_ROW w == row)

/-- The lowest spare row of a bank (R274). -/
def spareRow0 (d : Dev) (k : Nat) : Nat := 9 * ((portGeom d k).2.2 / 8)

/-- The bank and physical row that serve a row of a bank: the row itself, or the target of the remap entry that names it, and so on
for a target that was remapped in turn (R288, R304). -/
def rowTargetN (d : Dev) (k chan : Nat) : Nat → Nat → Nat → Nat × Nat
  | 0, bank, row => (bank, row)
  | f + 1, bank, row =>
    match remapOf d k chan bank row with
    | some w => rowTargetN d k chan f (getF Fl.REMAP_TBANK w) (spareRow0 d k + getF Fl.REMAP_TSPARE w)
    | none => (bank, row)

def rowTarget (d : Dev) (k chan bank row : Nat) : Nat × Nat := rowTargetN d k chan 64 bank row

/-- The entry of an activation table after one more activation of a row by a source (R281). -/
def rdVote (e : RdEnt) (who : Who) : RdEnt :=
  if e.cand = who then { e with count := e.count + 1, votes := e.votes + 1 }
  else if e.votes ≤ 1 then { e with count := e.count + 1, cand := who, votes := 1 }
  else { e with count := e.count + 1, votes := e.votes - 1 }

/-- The lowest count of a table. -/
def rdMin (t : List RdEnt) : Nat := t.foldl (fun a e => min a e.count) ((t.headD ⟨0, 0, ⟨0, false⟩, 0⟩).count)

/-- A bank's space-saving table after an activation (R281): a listed row counts up; an unlisted row joins, or replaces the
entry of lowest count with that count plus 1. -/
def rdActivate (t : List RdEnt) (row : Nat) (who : Who) : List RdEnt :=
  if t.any (fun e => e.row == row) then t.map (fun e => if e.row == row then rdVote e who else e)
  else if t.length < 64 then t ++ [⟨row, 1, who, 1⟩]
  else
    let m := rdMin t
    match takeFirst (fun e => e.count == m) t with
    | some (_, rest) => rest ++ [⟨row, m + 1, who, 1⟩]
    | none => t

/-- Start or restart a throttle of a source on a bank (R282): at most 16, a seventeenth replaces the one nearest its end. -/
def throttleStart (l : List Throttle) (t : Throttle) : List Throttle :=
  if l.any (fun x => x.who == t.who && x.bank == t.bank) then
    l.map (fun x => if x.who == t.who && x.bank == t.bank then { x with endAt := t.endAt } else x)
  else if l.length < 16 then l ++ [t]
  else
    let m := l.foldl (fun a x => min a x.endAt) t.endAt
    match takeFirst (fun x => x.endAt == m) l with
    | some (_, rest) => rest ++ [t]
    | none => l

/-- The actions when a row's count reaches THRESH (R282): the neighbours are refreshed, the entry's count falls to the
table's lowest, the candidate is throttled, and the trigger is counted with event k = 2. -/
def rdTrigger (k cb row : Nat) (d : Dev) : Dev :=
  let D := portDie k
  let n := portNum k
  let t := KMap.look [] (portSt d k).rd cb
  let m := rdMin t
  match t.find? (fun e => e.row == row) with
  | none => d
  | some e =>
    let t' := t.map (fun x => if x.row == row then { x with count := m } else x)
    let time := fld d D (Reg.RD_CTL n) Fl.RD_CTL_THR_TIME
    let d1 := updPort k (fun x => { x with rd := KMap.put [] x.rd cb t' }) d
    let th : Throttle := ⟨e.cand, cb, nowOf d D + time * 1000000, nowOf d D⟩
    let d2 := if time = 0 then d1
      else bump D (Reg.RD_STAT n) Fl.RD_STAT_THROTTLES 1
        (updPort k (fun x => { x with throttles := throttleStart x.throttles th }) d1)
    raisePort k 2 (bump D (Reg.RD_STAT n) Fl.RD_STAT_TRIGGERS 1 d2)

/-- An access opens its row if another is open: an activation, counted against its source (R281). -/
def rowAccess (k dd : Nat) (who : Who) (d : Dev) : Dev :=
  let x := splitD d k dd
  let tgt := rowTarget d k x.chan x.bank (physRow x.dataRow)
  let cb := x.chan * 16 + tgt.1
  if KMap.look none (portSt d k).openRow cb = some tgt.2 then d
  else
    let t := rdActivate (KMap.look [] (portSt d k).rd cb) tgt.2 who
    let act (h : Throttle) : Throttle :=
      if h.who == who && h.bank == cb then { h with lastAct := nowOf d (portDie k) } else h
    let row' (y : PortSt) : PortSt := { y with openRow := KMap.put none y.openRow cb (some tgt.2) }
    let rd' (y : PortSt) : PortSt := { y with rd := KMap.put [] y.rd cb t, throttles := y.throttles.map act }
    let d1 := updPort k (fun y => rd' (row' y)) d
    let thresh := max 1 (fld d (portDie k) (Reg.RD_CTL (portNum k)) Fl.RD_CTL_THRESH)
    if t.any (fun e => e.row == tgt.2 && decide (thresh ≤ e.count)) then rdTrigger k cb tgt.2 d1 else d1

/-! ### Accesses -/

/-- What decoding a demand read does to the port (R301 to R303). -/
def onDecode (k dd la : Nat) (r : Rs.Dec) (d : Dev) : Dev :=
  let D := portDie k
  let n := portNum k
  match r with
  | .good => onReadDemand k dd la r d
  | .corrected _ _ _ => onReadDemand k dd la r (countDemandCe k dd d)
  | .poisoned => onReadDemand k dd la r (bump D (Reg.ECC_STAT n) Fl.ECC_STAT_POISON_RD 1 d)
  | .uncorrectable =>
    raisePort k 5 (record D (portRec k 1 0x02 dd)
      (bump D (Reg.ECC_STAT n) Fl.ECC_STAT_UE 1 (bump D (Reg.ECC_STAT n) Fl.ECC_STAT_POISON_RD 1
        (storeLine la true (storedData d la) (onReadDemand k dd la r d)))))

/-- The data and poison mark that a read of a line returns (R301, R302, R483). -/
def lineValue (d : Dev) (la : Nat) : LineData × Bool :=
  match decodeLine d la with
  | .good => (ofLineBytes (storedData d la), false)
  | .corrected data _ _ => (ofLineBytes data, false)
  | .poisoned => (ofLineBytes (storedData d la), true)
  | .uncorrectable => (ofLineBytes (storedData d la), true)

/-- An error injected at the line's port has struck the line (R452). -/
def injectAt (la : Nat) (d : Dev) : Dev :=
  let n := injCount d la
  if n = 0 then d
  else updPort (portOf d la).1 (fun x => { x with inject := none })
    { d with mem := (List.range n).foldl (fun m i => memPut m (la + i) (memByte d (la + i) ^^^ 1#8)) d.mem }

/-- What a demand read of a line does to the port but for its row (R297, R301). -/
def lineRead (la : Nat) (d : Dev) : Dev :=
  let p := portOf d la
  onDecode p.1 p.2 la (decodeLine d la) (checkTouch p.1 p.2 false (injectAt la d))

/-- An access wakes its port and opens its row. -/
def rowOpen (la : Nat) (who : Who) (d : Dev) : Dev :=
  let p := portOf d la
  rowAccess p.1 p.2 who (portReach p.1 d)

/-- The effect of a demand read of a line by a source (R297, R301). -/
def dramRead (la : Nat) (who : Who) (d : Dev) : Dev := lineRead la (rowOpen la who d)

/-- A line is written, with its poison mark (R302, R303); a failed port discards it (R446). -/
def lineWrite (la : Nat) (data : LineData) (poison : Bool) (d : Dev) : Dev :=
  let p := portOf d la
  if portState d p.1 = 6 then d else onWrite p.1 p.2 (storeLine la poison (lineBytes data) (checkTouch p.1 p.2 true d))

/-- A whole-line write by a source. -/
def dramWrite (la : Nat) (data : LineData) (poison : Bool) (who : Who) (d : Dev) : Dev :=
  if portState d (portOf d la).1 = 6 then d else lineWrite la data poison (rowOpen la who d)

/-- A partial write: a read-modify-write whose read half is a demand read; a poisoned line stays poisoned (R302). -/
def dramWritePartial (la : Nat) (data : LineData) (be : BitVec 64) (who : Who) (d : Dev) : Dev :=
  let v := lineValue d la
  dramWrite la (lineMerge v.1 data be) v.2 who (dramRead la who d)

/-- The old value that an atomic at memory returns with its poison mark (R280). -/
def dramAtomicOld (d : Dev) (la off : Nat) (a : Atom) : Nat × Bool :=
  let v := lineValue d la
  if v.2 then (0, true) else (lineGet v.1 off a.size, false)

/-- An atomic at memory (R280): a poisoned line stays poisoned. -/
def dramAtomic (la off : Nat) (a : Atom) (who : Who) (d : Dev) : Dev :=
  let v := lineValue d la
  if v.2 then dramWrite la v.1 true who (dramRead la who d)
  else dramWrite la (linePut v.1 off a.size (a.apply (lineGet v.1 off a.size))) false who (dramRead la who d)

/-- A memory port's own firewall check found a refusal (R325, R326): event k = 6 of the port. -/
def portRefuse (pa : Nat) (who : Who) (write : Bool) (d : Dev) : Dev :=
  let k := (portOf d pa).1
  fwRefuse (portDie k) 0 who write .other pa (352 + 8 * portNum k + 6) d

end Sys2Proof.Machine
end

