-- ==== Sys2Proof/Machine/Slice.lean ====
section
/-! DEFINITION. An LLC slice: ways, allocation, victims, write-backs, locks, scratchpad (06_llc_scratchpad.md). -/

namespace Sys2Proof.Machine

/-- The key of a line: line number and address world; lines of one physical address in the two worlds are distinct (R312). -/
def lineKey (pa : Nat) (ns : Bool) : Nat := pa / 64 * 2 + b2n ns
/-- The line address of a key. -/
def keyAddr (k : Nat) : Nat := k / 2 * 64
/-- The world of a key. -/
def keyNs (k : Nat) : Bool := k % 2 == 1

/-- The tile whose register block serves a slice array. -/
def arrTile (d : Dev) (a : Nat) : Nat := sliceTile d a

/-- A field of a slice register of the tile that serves array `a`. -/
def sfld (d : Dev) (a : Nat) (off : Nat → Nat) (f : Fld) : Nat := fld d (sliceDie a) (off (arrTile d a)) f
/-- Set a field of a slice register. -/
def setSfld (a : Nat) (off : Nat → Nat) (f : Fld) (v : Nat) (d : Dev) : Dev := setFld (sliceDie a) (off (arrTile d a)) f v d
/-- Count in a slice register. -/
def sbump (a : Nat) (off : Nat → Nat) (f : Fld) (n : Nat) (d : Dev) : Dev := bump (sliceDie a) (off (arrTile d a)) f n d

/-- Ways backed as scratchpad (R172): way 15 downward. -/
def spadWays (d : Dev) (a : Nat) : Nat := sfld d a Reg.SLICE_STATUS Fl.SLICE_STATUS_SPAD_WAYS

/-- Scratchpad ways together with those being converted (R172). -/
def takenWays (d : Dev) (a : Nat) : Nat := max (spadWays d a) ((homeSt d a).conv.getD 0)

/-- The allocation mask of a partition (R171). -/
def wayMask (d : Dev) (a part : Nat) : Nat :=
  fld d (sliceDie a) (Reg.WAYPART (arrTile d a) (part / 4)) ⟨16 * (part % 4) + 15, 16 * (part % 4)⟩

/-- The ways a partition may allocate in: its mask less the scratchpad ways, or every cacheable way when that is empty
(R171); disabled ways of the set are out (R188). -/
def allocWays (d : Dev) (a set part : Nat) : List Nat :=
  let cacheable := (List.range (16 - takenWays d a)).filter (fun w => !(homeSt d a).off.contains (set, w))
  let masked := cacheable.filter (fun w => (wayMask d a part).testBit w)
  if masked.isEmpty then cacheable else masked

/-- A line in the LLC, if present. -/
def llcLine (d : Dev) (a k : Nat) : Option LlcLine := KMap.look none (homeSt d a).llc k

/-- Replace a line of the LLC. -/
def llcSetLine (a k : Nat) (l : Option LlcLine) (d : Dev) : Dev :=
  updHome a (fun x => { x with llc := KMap.put none x.llc k l }) d

/-- The lines of a set with their keys. -/
def llcSetLines (d : Dev) (a set : Nat) : List (Nat × LlcLine) :=
  (homeSt d a).llc.filterMap (fun e => match e.2 with
    | some l => if l.set == set then some (e.1, l) else none
    | none => none)

/-- Whether a line has an open transaction at the home. -/
def lineOpen (d : Dev) (a k : Nat) : Bool := (homeSt d a).txns.any (fun t => t.key == k)

/-- The leaf that a pseudo-LRU tree of 16 leaves points at among the eligible ways (R163): at each node the marked half when
it holds an eligible way, else the other. Node n has children 2n and 2n + 1; leaf 16 + w is way w. -/
def plruPick (bits : Nat) (elig : Nat → Bool) : Nat :=
  let has (lo n : Nat) : Bool := (List.range n).any (fun i => elig (lo + i))
  let stepNode (st : Nat × Nat × Nat) : Nat × Nat × Nat :=
    let half := st.2.2 / 2
    let right := if bits.testBit st.1 then has (st.2.1 + half) half else !has st.2.1 half
    if right then (2 * st.1 + 1, st.2.1 + half, half) else (2 * st.1, st.2.1, half)
  (stepNode (stepNode (stepNode (stepNode (1, 0, 16))))).2.1

/-- The tree after an access to a way: every node on its path points away from it. -/
def plruTouch (bits w : Nat) : Nat :=
  let setBit (b n : Nat) (v : Bool) : Nat := if v then b ||| 2 ^ n else b &&& (65535 - 2 ^ n)
  let l := 16 + w
  setBit (setBit (setBit (setBit bits (l / 2) (l % 2 == 0)) (l / 4) (l / 2 % 2 == 0)) (l / 8) (l / 4 % 2 == 0)) (l / 16)
    (l / 8 % 2 == 0)

/-- Mark a way of a set as accessed. -/
def llcTouch (a set w : Nat) (d : Dev) : Dev :=
  updHome a (fun x => { x with plru := KMap.put 0 x.plru set (plruTouch (KMap.look 0 x.plru set) w) }) d

/-- The requester of write-backs of a slice or keeper: partition 0 and the line's world (R325). -/
def wbWho (k : Nat) : Who := ⟨0, keyNs k⟩

/-- Write a line of the LLC back to memory if dirty and leave it clean. -/
def llcClean (a k : Nat) (d : Dev) : Dev :=
  match llcLine d a k with
  | some l => if l.dirty then llcSetLine a k (some { l with dirty := false }) (dramWrite (keyAddr k) l.data l.poison (wbWho k) d) else d
  | none => d

/-- Drop a line of the LLC without a write-back. -/
def llcDrop (a k : Nat) (d : Dev) : Dev := llcSetLine a k none d

/-- Evict a line of the LLC: written back if dirty, then dropped (R192: L2 copies and the directory entry stay). -/
def llcEvict (a k : Nat) (d : Dev) : Dev := llcDrop a k (llcClean a k d)

/-- Where a line is allocated: a free allowed way, else the way of a victim that holds no locked line and no line with an
open transaction (R170); `none` when there is neither. -/
def llcWay (d : Dev) (a set : Nat) (allowed : List Nat) : Option (Nat × Option Nat) :=
  let lines := llcSetLines d a set
  match allowed.find? (fun w => !lines.any (fun e => e.2.way == w)) with
  | some w => some (w, none)
  | none =>
    let ok (w : Nat) : Bool := allowed.contains w && lines.any (fun e => e.2.way == w && e.2.lock.isNone && !lineOpen d a e.1)
    if (List.range 16).any ok then
      let w := plruPick (KMap.look 0 (homeSt d a).plru set) ok
      some (w, (lines.find? (fun e => e.2.way == w)).map (·.1))
    else none

/-- Put a line into the LLC for a partition: a present line is replaced in its way; an absent one is allocated, or, when no
way is eligible, goes to memory if dirty. -/
def llcPut (a k : Nat) (data : LineData) (poison dirty : Bool) (part : Nat) (d : Dev) : Dev :=
  match llcLine d a k with
  | some l => llcTouch a l.set l.way
      (llcSetLine a k (some { l with data := data, poison := poison, dirty := l.dirty || dirty }) d)
  | none =>
    let set := Config.llcSet k % 3072
    match llcWay d a set (allocWays d a set part) with
    | some (w, v) =>
      let d1 := match v with | some vk => llcEvict a vk d | none => d
      llcTouch a set w (llcSetLine a k (some ⟨set, w, data, poison, dirty, none⟩) d1)
    | none => if dirty then dramWrite (keyAddr k) data poison (wbWho k) d else d

/-- The data of a line from the source (R205): the LLC copy when present, else memory. -/
def sourceData (d : Dev) (a k : Nat) : LineData × Bool :=
  match llcLine d a k with
  | some l => (l.data, l.poison)
  | none => lineValue d (keyAddr k)

/-- Whether a read of the source for a requester is refused by the memory port's firewall (R205, R325). -/
def sourceRefused (d : Dev) (a k : Nat) (who : Who) (need : Need) : Bool :=
  (llcLine d a k).isNone && !dramAdmits d who need (keyAddr k)

/-- Reading the source: a hit touches the LLC; a miss reads memory and allocates the line clean (R205). -/
def sourceRead (a k : Nat) (who : Who) (d : Dev) : Dev :=
  match llcLine d a k with
  | some l => llcTouch a l.set l.way d
  | none =>
    let v := lineValue d (keyAddr k)
    llcPut a k v.1 v.2 false who.part.toNat (dramRead (keyAddr k) who d)

/-! ### Locks (R176 to R180) -/

/-- Number of locked lines of a slice. -/
def lockCount (d : Dev) (a : Nat) : Nat :=
  (homeSt d a).llc.foldl (fun n e => match e.2 with | some l => n + b2n l.lock.isSome | none => n) 0

/-- Keep `SLICE.LOCK_STAT.LOCKED` equal to the number of locked lines. -/
def lockStat (a : Nat) (d : Dev) : Dev := setSfld a Reg.LOCK_STAT Fl.LOCK_STAT_LOCKED (lockCount d a) d

/-- A lock is lost to a removal or a lost bank (R178, R186, R187): LOCK_LOST, LOST_EVT and the tile's slice event. -/
def lockLost (a n : Nat) (d : Dev) : Dev :=
  if n = 0 then d
  else raiseSlot (sliceDie a) (sliceLog a) 6
    (setSfld a Reg.LOCK_STAT Fl.LOCK_STAT_LOST_EVT 1 (sbump a Reg.LOCK_STAT Fl.LOCK_STAT_LOCK_LOST n d))

/-- Remove a line from the LLC with the loss of its lock, if it holds one (R178). -/
def llcRemove (a k : Nat) (d : Dev) : Dev :=
  match llcLine d a k with
  | some l => if l.lock.isSome then lockStat a (lockLost a 1 (llcDrop a k d)) else llcDrop a k d
  | none => d

/-- The outcome code of a lock request for a line that is normal cacheable DRAM (R177). -/
def lockOutcome (d : Dev) (a k : Nat) (part : BitVec 6) : Nat :=
  let own := (llcLine d a k).bind (·.lock)
  let set := match llcLine d a k with | some l => l.set | none => Config.llcSet k % 3072
  let max' := min (sfld d a Reg.LOCK_CTL Fl.LOCK_CTL_MAX) 12288
  if own = some part then 0
  else if own.isSome then 5
  else if 4 ≤ ((llcSetLines d a set).filter (fun e => e.2.lock.isSome)).length then 2
  else if max' ≤ lockCount d a then 3
  else 0

/-- Place a line in a way from 0 to 7 and lock it for a partition (R177): the owner's allowed ways first, then any of 0 to 7. -/
def lockPlace (a k : Nat) (part : BitVec 6) (d : Dev) : Dev :=
  match llcLine d a k with
  | some l =>
    if l.way < 8 then lockStat a (llcSetLine a k (some { l with lock := some part }) d)
    else
      let d0 := llcDrop a k d
      lockStat a (place l.set l.data l.poison l.dirty d0)
  | none =>
    let v := lineValue d (keyAddr k)
    lockStat a (place (Config.llcSet k % 3072) v.1 v.2 false (dramRead (keyAddr k) ⟨part, keyNs k⟩ d))
where
  /-- Allocate in ways 0 to 7. -/
  place (set : Nat) (data : LineData) (poison dirty : Bool) (d : Dev) : Dev :=
    let low := (List.range 8).filter (fun w => !(homeSt d a).off.contains (set, w))
    let mine := low.filter (fun w => (wayMask d a part.toNat).testBit w)
    let pick := match llcWay d a set mine with
      | some r => some r
      | none => llcWay d a set low
    match pick with
    | some (w, v) =>
      let d1 := match v with | some vk => llcEvict a vk d | none => d
      llcTouch a set w (llcSetLine a k (some ⟨set, w, data, poison, dirty, some part⟩) d1)
    | none => if dirty then dramWrite (keyAddr k) data poison (wbWho k) d else d

/-- The outcome of an unlock (R177). -/
def unlockOutcome (d : Dev) (a k : Nat) (part : BitVec 6) : Nat :=
  match (llcLine d a k).bind (·.lock) with
  | none => 6
  | some p => if p = part then 1 else 5

/-- Release a line's lock; the line stays cached (R177). -/
def unlockLine (a k : Nat) (d : Dev) : Dev :=
  match llcLine d a k with
  | some l => lockStat a (llcSetLine a k (some { l with lock := none }) d)
  | none => d

/-- Release every lock of a slice whose owner satisfies `p`; lines stay cached and LOCK_LOST does not change (R180). -/
def releaseLocks (a : Nat) (p : BitVec 6 → Bool) (d : Dev) : Dev :=
  let unl (l : LlcLine) : LlcLine := match l.lock with
    | some q => if p q then { l with lock := none } else l
    | none => l
  lockStat a (updHome a (fun x => { x with llc := x.llc.map (fun e => (e.1, e.2.map unl)) }) d)

/-! ### Scratchpad (R172 to R175) -/

/-- Backed bytes of a slice's window (R25): 192 KiB per way. -/
def spadSize (d : Dev) (a : Nat) : Nat := spadWays d a * 196608

/-- A scratchpad line by its offset in lines. -/
def spadLine (d : Dev) (a u : Nat) : LineData × Bool := KMap.look (0#512, false) (homeSt d a).spad u

def spadPut (a u : Nat) (v : LineData × Bool) (d : Dev) : Dev :=
  updHome a (fun x => { x with spad := KMap.put (0#512, false) x.spad u v }) d

/-- Whether a scratchpad access is admitted: within the backed window of a slice with an array of its own (log entry 17), and by the slice's firewall
(R25, R326). -/
def spadAdmits (d : Dev) (D s off n : Nat) (who : Who) (need : Need) (pa : Nat) : Bool :=
  decide (s < 42) && !flg d D (Reg.LSLICE s) Fl.LSLICE_REDIRECTED && decide (off + n ≤ spadSize d (D * 42 + s)) && fwAdmits d D (1 + s) who need pa

/-- A scratchpad refusal (R25, R326): recorded at the slice's firewall; a slice number that the die does not have is recorded
at none. -/
def spadRefuse (D s : Nat) (who : Who) (write : Bool) (src : FwSrc) (pa : Nat) (d : Dev) : Dev :=
  if s < 42 then fwRefuse D (1 + s) who write src pa (8 * s + 7) d else d

end Sys2Proof.Machine
end

