-- ==== Sys2Proof/Machine/Home.lean ====
section
/-! DEFINITION. Homing (R164 to R168), the directory (R192, R193), and what a home does with requests, snoop replies,
write-backs and acknowledgements (R195 to R219, R485). A home of a redirected slice works in the array of the slice that
serves it (R166). Every operation answers the device and the messages it sends. -/

namespace Sys2Proof

/-- A message with a header and nothing after it. -/
def Msg.mk' (op : COp) (src dst : Agent) (txn addr : Nat) (who : Who) : Msg :=
  ⟨op, src, dst, txn, addr, who, 0, 0, 0, 0, false, 0, [], none, none⟩

/-- A reply to a request, with its TXN. -/
def Msg.reply (m : Msg) (op : COp) (src : Agent) : Msg := Msg.mk' op src m.src m.txn m.addr m.who

end Sys2Proof

namespace Sys2Proof.Machine

/-- A device together with the messages sent. -/
abbrev Out := Dev × List Msg

/-! ### Homing -/

/-- Reversal of bits 15 to 0. -/
def rev16 (x : Nat) : Nat := (List.range 16).foldl (fun a i => a + (x >>> i % 2) * 2 ^ (15 - i)) 0

/-- The index into a homing domain of length `n` (R165). -/
def hashIdx (pa n : Nat) : Nat :=
  let l := pa / 64 % 2 ^ 34
  let h := rev16 (l % 65536) ^^^ (l / 65536 % 65536) ^^^ (l / 2 ^ 32)
  h * n / 65536

/-- The slices of a package that a partition owns, in ascending g (R165, ISO.SLICE_OWN). -/
def ownedSlices (d : Dev) (p part : Nat) : List Nat :=
  (List.range (42 * d.cfg.ndie p)).filter (fun g =>
    let w := rg d (p * 8 + g / 42) (Reg.SLICE_OWN (g % 42))
    getB Fl.SLICE_OWN_EN w && getF Fl.SLICE_OWN_PART w == part
      && flg d (p * 8 + g / 42) (Reg.LSLICE (g % 42)) Fl.LSLICE_VALID)

/-- The lowest-numbered enabled home-region entry that covers a package window offset (R167). -/
def homeReg (d : Dev) (p off : Nat) : Option Nat :=
  (List.range 64).find? (fun n =>
    let w := rg d (p * 8) (Reg.HOME_REG n)
    getB Fl.HOME_REG_EN w && decide (getF Fl.HOME_REG_BASE w ≤ off / 2 ^ 30) && decide (off / 2 ^ 30 < getF Fl.HOME_REG_LIMIT w))

/-- The slice that homes a DRAM line under hashed homing, as (p × 8 + d) × 42 + s (R165). -/
def hashedHome (d : Dev) (pa : Nat) : Nat :=
  let p := pa / 2 ^ 40
  let own := match homeReg d p (pa % 2 ^ 40) with
    | some n => ownedSlices d p (fld d (p * 8) (Reg.HOME_REG n) Fl.HOME_REG_PART)
    | none => []
  if own.isEmpty then
    if dieLocal d p then (locate d pa).1 * 42 + hashIdx pa 42
    else p * 336 + hashIdx pa (42 * d.cfg.ndie p)
  else p * 336 + own.getD (hashIdx pa own.length) 0

/-- The logical slice that a core uses for tile-local lines (R168). -/
def tileLocalHome (d : Dev) (c : Nat) : Nat :=
  coreDie c * 42 + fld d (coreDie c) (Reg.LCORE (coreLog c)) Fl.LCORE_TL_SLICE

/-- Where a core sends its requests for a cacheable line: its home, or the keeper for another package (R164, R194). -/
def coreHomeAgent (d : Dev) (c pa : Nat) (tl : Bool) : Agent :=
  if tl then .home (tileLocalHome d c)
  else if pa / 2 ^ 40 = corePkg c then .home (hashedHome d pa)
  else .keeper (corePkg c) (pa / 2 ^ 40)

/-- Where a unit of package `p` that is no core sends its requests. -/
def unitHomeAgent (d : Dev) (p pa : Nat) : Agent :=
  if pa / 2 ^ 40 = p then .home (hashedHome d pa) else .keeper p (pa / 2 ^ 40)

/-! ### Messages -/

/-- STATE codes (R199). -/
def stI : Nat := 0
def stS : Nat := 1
def stE : Nat := 2
def stM : Nat := 3
def stO : Nat := 4
def stWB : Nat := 8
def stLOST : Nat := 9

/-! ### Directory -/

/-- The package of a slice array. -/
def slicePkg (a : Nat) : Nat := a / 336

/-- How a home of package `p` names an agent that holds a line: one of its cores, or a package through its keeper. -/
def holderOf (p : Nat) : Agent → Option Holder
  | .core c => if corePkg c = p then some (.core (c % 320)) else none
  | .keeper q _ => some (.pkg q)
  | _ => none

/-- The agent that a home or keeper of package `p` reaches a holder at; `home` is the package whose lines are homed. -/
def holderAgent (p home : Nat) : Holder → Agent
  | .core i => .core (p * 320 + i)
  | .pkg q => .keeper q home

def dirEnt (d : Dev) (a k : Nat) : DirEnt := KMap.look DirEnt.empty (homeSt d a).dir k

/-- Replace a directory entry. -/
def dirPut (a k : Nat) (e : DirEnt) (d : Dev) : Dev := updHome a (fun x => { x with dir := KMap.put DirEnt.empty x.dir k e }) d

/-- Active cores of a package whose group bit is set in a coarse vector (R193): bit 4d + g stands for cores 10g to 10g + 9 of
die d. -/
def coarseCores (d : Dev) (p : Nat) (v : BitVec 32) : List Nat :=
  (List.range (40 * d.cfg.ndie p)).filter (fun i =>
    v.getLsbD (i / 40 * 4 + i % 40 / 10) && flg d (p * 8 + i / 40) (Reg.LCORE (i % 40)) Fl.LCORE_VALID)

/-- Every holder that an entry records besides its owner. -/
def DirEnt.sharerList (e : DirEnt) (d : Dev) (p : Nat) : List Holder :=
  (match e.coarse with
   | some v => (coarseCores d p v).map Holder.core
   | none => e.sharers.map Holder.core)
  ++ ((List.range 4).filter (fun q => e.pkgs.getLsbD q)).map Holder.pkg

/-- Whether an entry records a holder, in either form. -/
def DirEnt.records (e : DirEnt) : Holder → Bool
  | .core i => e.owner == some (.core i) || (match e.coarse with
      | some v => v.getLsbD (i / 40 * 4 + i % 40 / 10)
      | none => e.sharers.contains i)
  | .pkg q => e.owner == some (.pkg q) || e.pkgs.getLsbD q

/-- Whether any L2 copy is recorded. -/
def DirEnt.any (e : DirEnt) : Bool :=
  e.owner.isSome || !e.sharers.isEmpty || (match e.coarse with | some v => v != 0#32 | none => false) || e.pkgs != 0#4

/-- Add a sharer; a fifth converts the entry to coarse form (R193). -/
def DirEnt.addSharer (e : DirEnt) : Holder → DirEnt
  | .pkg q => { e with pkgs := e.pkgs ||| BitVec.ofNat 4 (2 ^ q) }
  | .core i =>
    let bit (i : Nat) : BitVec 32 := BitVec.ofNat 32 (2 ^ (i / 40 * 4 + i % 40 / 10))
    match e.coarse with
    | some v => { e with coarse := some (v ||| bit i) }
    | none =>
      if e.sharers.contains i then e
      else if e.sharers.length < 4 then { e with sharers := e.sharers ++ [i] }
      else { e with sharers := [], coarse := some ((e.sharers ++ [i]).foldl (fun v j => v ||| bit j) 0#32) }

/-- Remove a holder: from OWNER, from the pointers, or a PKG bit; a coarse vector is left unchanged (R193). -/
def DirEnt.remove (e : DirEnt) (h : Holder) : DirEnt :=
  let e1 := if e.owner = some h then { e with owner := none, ownO := false } else e
  match h with
  | .core i => { e1 with sharers := e1.sharers.erase i }
  | .pkg q => { e1 with pkgs := e1.pkgs &&& ~~~ BitVec.ofNat 4 (2 ^ q) }

/-- The entry of a line with one owner in E or M and no sharers; a package owner also has its PKG bit (R192, R194). -/
def DirEnt.owned (h : Holder) : DirEnt :=
  { DirEnt.empty with owner := some h, pkgs := match h with | .pkg q => BitVec.ofNat 4 (2 ^ q) | .core _ => 0 }

/-- Directory set of a line: the 11 low bits of its line number in the package window, which leaves the 23 tag bits of
R192. -/
def dirSet (k : Nat) : Nat := k / 2 % 2048

/-- Keys of the entries of a directory set. -/
def dirSetKeys (d : Dev) (a set : Nat) : List Nat :=
  ((homeSt d a).dir.filter (fun e => dirSet e.1 == set)).map (·.1)

/-- Ways of a directory set in use: its entries, and those that open transactions are about to fill. -/
def dirSetUse (d : Dev) (a set : Nat) : Nat :=
  let ks := dirSetKeys d a set
  ks.length + ((homeSt d a).txns.filter (fun t => dirSet t.key == set && !ks.contains t.key && (match t.req with
    | some m => m.op == .rdShared || m.op == .rdUnique || m.op == .upgrade
    | none => false))).length

/-! ### Home registers -/

/-- Keep `COH.STATUS` equal to what is in use (R222). -/
def cohStatus (a : Nat) (d : Dev) : Dev :=
  let h := homeSt d a
  let coarse := (h.dir.filter (fun e => e.2.coarse.isSome)).length
  let off := Reg.COH_STATUS (arrTile d a)
  let D := sliceDie a
  setFld D off Fl.COH_STATUS_OPEN h.txns.length (setFld D off Fl.COH_STATUS_WAITING h.store.length
    (setFld D off Fl.COH_STATUS_CREDITS h.credits.length (setFld D off Fl.COH_STATUS_COARSE coarse
      (setFlg D off Fl.COH_STATUS_COMPAT_EFF (flg d D Reg.COH_CTL Fl.COH_CTL_COMPAT) d))))

/-! ### Transactions -/

/-- A transaction just opened for a request. -/
def Txn.ofReq (k : Nat) (m : Msg) (ph : TxPhase) (w : List Agent) (direct : Bool) : Txn :=
  ⟨k, some m, ph, w, [], none, false, false, direct, false, []⟩

def findTxn (d : Dev) (a k : Nat) : Option Txn := (homeSt d a).txns.find? (fun t => t.key == k)

def putTxn (a : Nat) (t : Txn) (d : Dev) : Dev :=
  updHome a (fun x => { x with txns := x.txns.filter (fun u => u.key != t.key) ++ [t] }) d

def closeTxn (a k : Nat) (d : Dev) : Dev := updHome a (fun x => { x with txns := x.txns.filter (fun u => u.key != k) }) d

/-- The data a transaction serves its requester with: what a holder returned, else the source. -/
def txnData (d : Dev) (a : Nat) (t : Txn) : LineData × Bool :=
  match t.got with | some v => v | none => sourceData d a t.key

/-- What a request needs of the firewall (R324): requests that read and write need both. -/
def needOf : COp → Need
  | .rdUnique | .upgrade | .wrPartial | .atomicHome | .scatter | .scatterRed => .rw
  | .wrFull => .w
  | _ => .r

/-- Whether the transaction must read memory for its requester and that read is refused (R205). -/
def txnRefused (d : Dev) (a : Nat) (t : Txn) (who : Who) : Bool :=
  t.got.isNone && sourceRefused d a t.key who (match t.req with | some m => needOf m.op | none => .r)

/-- Read the source when a transaction has no data of its own. -/
def txnRead (a : Nat) (t : Txn) (who : Who) (d : Dev) : Dev := if t.got.isSome then d else sourceRead a t.key who d

/-- A message of the home of array `a` with a line. -/
def withLine (m : Msg) (v : LineData × Bool) (st : Nat) : Msg := { m with line := v.1, poison := v.2, st := st }

/-- Apply an operation in the LLC: the line becomes dirty there with the given data (R205). -/
def applyLlc (a k : Nat) (v : LineData × Bool) (who : Who) (d : Dev) : Dev := llcPut a k v.1 v.2 true who.part.toNat d

/-- Bytes of an element size code (R200). -/
def elemBytes (s : Nat) : Nat := 2 ^ (s % 4)

/-- Update a packet in service; when its last element is served it ends with its reply (R217). -/
def pktDone (a : Nat) (m : Msg) (slot : Nat) (w : Word) (poison : Bool) (d : Dev) : Out :=
  match (homeSt d a).pkts.find? (fun p => p.req.src == m.src && p.req.txn == m.txn) with
  | none => (d, [])
  | some p =>
    let p' : Pkt := { p with left := p.left.erase slot, done := p.done ++ [(slot, w, poison)] }
    let rest := (homeSt d a).pkts.filter (fun q => !(q.req.src == m.src && q.req.txn == m.txn))
    if p'.left.isEmpty then
      let r := p.req.reply (if p.req.op = .gather then .respData else .comp) (.home a)
      let es := p.req.elems.map (fun e => match p'.done.find? (fun x => x.1 == e.slot) with
        | some x => { e with data := x.2.1 }
        | none => e)
      let mask := (p'.done.filter (fun x => x.2.2)).foldl (fun n x => n ||| 2 ^ x.1) 0
      (updHome a (fun x => { x with pkts := rest }) d, [if p.req.op = .gather then { r with elems := es, arg := mask } else r])
    else (updHome a (fun x => { x with pkts := rest ++ [p'] }) d, [])

/-- End a transaction whose snoops are all answered: grant, apply and reply as R205 and R485 give. -/
def finishTxn (a : Nat) (t : Txn) (d : Dev) : Out :=
  let k := t.key
  let e := dirEnt d a k
  let p := slicePkg a
  match t.req with
  | none =>
    -- an evicted directory entry: the returned dirty data goes into the LLC (R195)
    let d1 := match t.got with
      | some v => llcPut a k v.1 v.2 true 0 d
      | none => d
    (closeTxn a k (dirPut a k DirEnt.empty d1), [])
  | some m =>
    let who := m.who
    let hreq := holderOf p m.src
    let wait (d : Dev) : Dev := putTxn a { t with phase := .ack } d
    let refused (d : Dev) : Dev := portRefuse (keyAddr k) who false d
    match m.op with
    | .rdShared =>
      if t.direct && t.got.isNone && !t.lost && t.left then
        -- the owner sent the data itself and keeps a copy
        let e' := match hreq with | some h => e.addSharer h | none => e
        (wait (dirPut a k e' d), [])
      else if txnRefused d a t who then
        (closeTxn a k (refused d), [withLine (m.reply .data (.home a)) (0, true) stI])
      else
        let v := txnData d a t
        let d1 := txnRead a t who d
        let shared := e.any
        let e' := match hreq with
          | some h => if shared then e.addSharer h else DirEnt.owned h
          | none => e
        (wait (dirPut a k e' d1), [withLine (m.reply .data (.home a)) v (if shared then stS else stE)])
    | .rdUnique =>
      let e' := match hreq with | some h => DirEnt.owned h | none => DirEnt.empty
      if t.direct && t.got.isNone && t.left then (wait (dirPut a k e' d), [])
      else if txnRefused d a t who then
        (closeTxn a k (refused d), [withLine (m.reply .data (.home a)) (0, true) stI])
      else
        let v := txnData d a t
        let st := if t.gotDirty then stM else stE
        (wait (dirPut a k e' (txnRead a t who d)), [withLine (m.reply .data (.home a)) v st])
    | .upgrade =>
      let e' := match hreq with | some h => DirEnt.owned h | none => DirEnt.empty
      (wait (dirPut a k e' d), [{ m.reply .grant (.home a) with st := stM }])
    | .rdOnce =>
      if txnRefused d a t who then (closeTxn a k (refused d), [withLine (m.reply .data (.home a)) (0, true) stI])
      else
        let v := txnData d a t
        (closeTxn a k (txnRead a t who d), [withLine (m.reply .data (.home a)) v stI])
    | .gather =>
      let ref := txnRefused d a t who
      let v := txnData d a t
      let d1 := closeTxn a k (if ref then refused d else txnRead a t who d)
      match m.elems with
      | el :: _ =>
        let poison := ref || v.2
        let w := if poison then 0#64 else BitVec.ofNat 64 (lineGet v.1 (el.addr % 64) (elemBytes el.size))
        pktDone a m el.slot w poison d1
      | [] => (d1, [])
    | .wrFull =>
      (closeTxn a k (applyLlc a k (m.line, m.poison) who (dirPut a k DirEnt.empty d)), [m.reply .comp (.home a)])
    | .wrPartial =>
      if txnRefused d a t who then (closeTxn a k (refused d), [m.reply .comp (.home a)])
      else
        let v := txnData d a t
        (closeTxn a k (applyLlc a k (lineMerge v.1 m.line m.be, v.2 || m.poison) who (dirPut a k DirEnt.empty (txnRead a t who d))),
          [m.reply .comp (.home a)])
    | .atomicHome =>
      let r := m.reply .respData (.home a)
      match m.atom with
      | none => (closeTxn a k d, [r])
      | some at' =>
        if txnRefused d a t who then (closeTxn a k (refused d), [{ r with poison := true }])
        else
          let v := txnData d a t
          let off := m.addr % 64
          let old := lineGet v.1 off at'.size
          let d1 := dirPut a k DirEnt.empty (txnRead a t who d)
          if v.2 then (closeTxn a k (applyLlc a k v who d1), [{ r with poison := true }])
          else (closeTxn a k (applyLlc a k (linePut v.1 off at'.size (at'.apply old), false) who d1),
            [{ r with line := BitVec.ofNat 512 old }])
    | .scatter =>
      match m.elems with
      | el :: _ =>
        if txnRefused d a t who then pktDone a m el.slot 0 false (closeTxn a k (refused d))
        else
          let v := txnData d a t
          let d1 := applyLlc a k (linePut v.1 (el.addr % 64) (elemBytes el.size) el.data.toNat, v.2) who
            (dirPut a k DirEnt.empty (txnRead a t who d))
          pktDone a m el.slot 0 false (closeTxn a k d1)
      | [] => (closeTxn a k d, [])
    | .scatterRed =>
      match m.elems, m.atom with
      | el :: _, some at' =>
        if txnRefused d a t who then pktDone a m el.slot 0 false (closeTxn a k (refused d))
        else
          let v := txnData d a t
          let off := el.addr % 64
          let d1 := dirPut a k DirEnt.empty (txnRead a t who d)
          if v.2 then
            -- a poisoned location stays poisoned and the home raises an event (R125)
            pktDone a m el.slot 0 false (closeTxn a k (raiseSlot (sliceDie a) (sliceLog a) 6 (applyLlc a k v who d1)))
          else
            let new := { at' with val := el.data.toNat }.apply (lineGet v.1 off at'.size)
            pktDone a m el.slot 0 false (closeTxn a k (applyLlc a k (linePut v.1 off at'.size new, false) who d1))
      | _, _ => (closeTxn a k d, [])
    | .cmoClean =>
      let d1 := match t.got with
        | some v => llcPut a k v.1 v.2 true 0 d
        | none => d
      (closeTxn a k (llcClean a k d1), [m.reply .comp (.home a)])
    | .cmoInv => (closeTxn a k (llcRemove a k (dirPut a k DirEnt.empty d)), [m.reply .comp (.home a)])
    | .cmoFlush =>
      let d1 := match t.got with
        | some v => dramWrite (keyAddr k) v.1 v.2 (wbWho k) (llcRemove a k d)
        | none => llcRemove a k (llcClean a k d)
      (closeTxn a k (dirPut a k DirEnt.empty d1), [m.reply .comp (.home a)])
    | .lock =>
      -- ARG of a lock request carries the owner: the issuing core's SYS.PARTID (R176)
      let own := BitVec.ofNat 6 m.arg
      let o := if sourceRefused d a k who .r then 4 else lockOutcome d a k own
      (closeTxn a k (if o = 0 then lockPlace a k own d else d), [{ m.reply .comp (.home a) with arg := o }])
    | .unlock =>
      let o := unlockOutcome d a k (BitVec.ofNat 6 m.arg)
      (closeTxn a k (if o = 1 then unlockLine a k d else d), [{ m.reply .comp (.home a) with arg := o }])
    | _ => (closeTxn a k d, [])

/-- A snoop of the home of array `a` to a holder for a request. -/
def snoopTo (a k : Nat) (m : Msg) (op : COp) (h : Holder) : Msg :=
  { Msg.mk' op (.home a) (holderAgent (slicePkg a) (slicePkg a) h) m.txn (keyAddr k) ⟨m.who.part, keyNs k⟩ with
      fwd := if m.op = .rdShared ∨ m.op = .rdUnique then some m.src else none, qos := m.qos }

/-- Whether the owner sends its data straight to the requester: both are cores of the home's package (R205). -/
def directFor (a : Nat) (m : Msg) : Option Holder → Bool
  | some (.core _) => (match m.src with | .core c => corePkg c == slicePkg a | _ => false)
  | _ => false

/-- The owner phase of a request (R204: after every invalidation has been answered): the owner is snooped, or the request
ends. -/
def ownerPhase (a : Nat) (t : Txn) (m : Msg) (d : Dev) : Out :=
  let e := dirEnt d a t.key
  let hreq := holderOf (slicePkg a) m.src
  match e.owner with
  | some h =>
    let op : Option COp := match m.op with
      | .rdShared => some .snpShared
      | .rdUnique => if hreq == some h && (match h with | .core _ => true | .pkg _ => false) then none else some .snpUnique
      | .rdOnce | .gather => some .snpPeek
      | .wrPartial | .atomicHome | .scatter | .scatterRed => some .snpUnique
      | .cmoClean => some .snpClean
      | _ => none
    match op with
    | some o =>
      let dir := directFor a m (some h) && (m.op = .rdShared || m.op = .rdUnique)
      (putTxn a { t with phase := .owner, wait := [holderAgent (slicePkg a) (slicePkg a) h], direct := dir } d,
        [snoopTo a t.key m o h])
    | none => finishTxn a t d
  | none => finishTxn a t d

/-- The holders that a request invalidates or recalls before its owner phase, and the snoop they get (R205, R485). -/
def firstSnoops (d : Dev) (a : Nat) (m : Msg) (e : DirEnt) : List (Holder × COp) :=
  let p := slicePkg a
  let hreq := holderOf p m.src
  let sh := (e.sharerList d p).filter (fun h => e.owner != some h)
  let own := match e.owner with | some h => [h] | none => []
  match m.op with
  | .rdUnique => (sh.filter (fun h => hreq != some h)).map (fun h => (h, .snpInv))
  | .upgrade => ((own ++ sh).filter (fun h => hreq != some h)).map (fun h => (h, .snpInv))
  | .wrFull | .cmoInv => (own ++ sh).map (fun h => (h, .snpInv))
  | .wrPartial | .atomicHome | .scatter | .scatterRed => sh.map (fun h => (h, .snpInv))
  | .cmoFlush => (own ++ sh).map (fun h => (h, .recall))
  | _ => []

/-- Start a request whose line is free: open its transaction and send its first snoops (R203, R205). An `Upgrade` from a
core that the directory no longer records is performed as `RdUnique` (R206). -/
def startReq (a : Nat) (m : Msg) (d : Dev) : Out :=
  let k := lineKey m.addr m.who.ns
  let e := dirEnt d a k
  let rec? := match holderOf (slicePkg a) m.src with | some h => e.records h | none => false
  let conv := m.op = .upgrade && !rec?
  let m' := if conv then { m with op := .rdUnique } else m
  let d0 := if conv then sbump a Reg.COH_STAT Fl.COH_STAT_UPG_CONVERT 1 d else d
  let s := firstSnoops d0 a m' e
  let w := s.map (fun x => holderAgent (slicePkg a) (slicePkg a) x.1)
  let t := Txn.ofReq k m' .inval w false
  if s.isEmpty then ownerPhase a t m' d0
  else (putTxn a t d0, s.map (fun x => snoopTo a k m' x.2 x.1))

/-! ### Acceptance, waiting and compatibility mode -/

/-- Whether a request needs a directory entry that its line does not have. -/
def needsEntry (d : Dev) (a : Nat) (m : Msg) (k : Nat) : Bool :=
  (m.op == .rdShared || m.op == .rdUnique || m.op == .upgrade) && !(dirEnt d a k).any

/-- Whether a request must wait for its line: an open transaction, WBP, all trackers in use (R203), or a credit of another
requester that was told to resume (R211). -/
def lineBusy (d : Dev) (a k : Nat) (m : Msg) : Bool :=
  lineOpen d a k || (dirEnt d a k).wbp || decide (64 ≤ (homeSt d a).txns.length)
    || (homeSt d a).credits.any (fun c => c.key == k && c.sent && !(c.who == m.src && c.txn == m.txn))

/-- Entries of a directory set that may be evicted: no open transaction and no request waiting for the line (R195). -/
def dirVictims (d : Dev) (a set : Nat) : List Nat :=
  (dirSetKeys d a set).filter (fun k => !lineOpen d a k && !(dirEnt d a k).wbp
    && !((homeSt d a).queue ++ (homeSt d a).store).any (fun m => lineKey m.addr m.who.ns == k))

/-- Evict a directory entry by `Recall` to every holder (R195); which eligible entry goes the spec leaves open. -/
def dirEvict (a k : Nat) (d : Dev) : Out :=
  let e := dirEnt d a k
  let hs := (match e.owner with | some h => [h] | none => []) ++
    ((e.sharerList d (slicePkg a)).filter (fun h => e.owner != some h))
  let t : Txn := ⟨k, none, .inval, hs.map (holderAgent (slicePkg a) (slicePkg a)), [], none, false, false, false, false, []⟩
  let d1 := sbump a Reg.COH_ERR Fl.COH_ERR_DIR_EVICT 1 d
  if hs.isEmpty then finishTxn a t d1
  else (putTxn a t d1, hs.map (fun h =>
    Msg.mk' .recall (.home a) (holderAgent (slicePkg a) (slicePkg a) h) 0 (keyAddr k) (wbWho k)))

/-- Whether a home refuses with `Defer` what would otherwise wait (R211, R212). -/
def compatFor (d : Dev) (a : Nat) (m : Msg) : Bool :=
  flg d (sliceDie a) Reg.COH_CTL Fl.COH_CTL_COMPAT
  || (match m.src with
      | .keeper q _ => d.cfg.allDies.any (fun D => D / 8 == slicePkg a && flg d D Reg.KPR_STATUS Fl.KPR_STATUS_ACTIVE
          && fld d D Reg.KPR_STATUS Fl.KPR_STATUS_FAR_PKG == q && flg d D Reg.KPR_STATUS Fl.KPR_STATUS_FAR_COMPAT)
      | _ => false)

/-- Put a request that must wait in the home's queue, or refuse it with `Defer` on a credit in compatibility mode; with no
credit left it stays in the request channel (R203, R211). -/
def holdReq (a k : Nat) (m : Msg) (d : Dev) : Out :=
  if compatFor d a m && !(m.op == .gather || m.op == .scatter || m.op == .scatterRed) then
    if (homeSt d a).credits.length < 64 then
      let i := (homeSt d a).credits.length
      (sbump a Reg.COH_STAT Fl.COH_STAT_DEFERS 1
        (updHome a (fun x => { x with credits := x.credits ++ [⟨m.src, m.txn, k, false⟩] }) d),
        [{ m.reply .defer (.home a) with arg := i }])
    else ({ d with net := d.net ++ [m] }, [])
  else (updHome a (fun x => { x with queue := x.queue ++ [m] }) d, [])

/-- Drop the credit of a requester that has been accepted (R211). -/
def dropCredit (a : Nat) (m : Msg) (d : Dev) : Dev :=
  updHome a (fun x => { x with credits := x.credits.filter (fun c => !(c.who == m.src && c.txn == m.txn)) }) d

/-- A request reaches its home (R196, R203): it waits for its line, waits in the wait store for a directory way, or starts. -/
def acceptReq (a : Nat) (m : Msg) (d : Dev) : Out :=
  let k := lineKey m.addr m.who.ns
  if lineBusy d a k m then holdReq a k m d
  else if needsEntry d a m k then
    let set := dirSet k
    let waiters := (homeSt d a).store.any (fun x => dirSet (lineKey x.addr x.who.ns) == set)
    if !waiters && decide (dirSetUse d a set < 12) then startReq a m (dropCredit a m d)
    else
      let vs := dirVictims d a set
      if compatFor d a m && decide (16 ≤ (homeSt d a).store.length) then holdReq a k m d
      else if 16 ≤ (homeSt d a).store.length then ({ d with net := d.net ++ [m] }, [])
      else
        let d1 := updHome a (fun x => { x with store := x.store ++ [m] }) (dropCredit a m d)
        if waiters then (sbump a Reg.COH_STAT Fl.COH_STAT_PINNED_WAIT 1 d1, [])
        else match freeChoice vs (draw d1) with
          | some v => dirEvict a v (drawn d1)
          | none => (sbump a Reg.COH_STAT Fl.COH_STAT_PINNED_WAIT 1 d1, [])
  else startReq a m (dropCredit a m d)

/-! ### Replies that reach a home -/

/-- A transaction that has had every snoop answered moves on: from invalidations to the owner, or to its end. -/
def advance (a : Nat) (t : Txn) (d : Dev) : Out :=
  if !t.wait.isEmpty || !t.wbFrom.isEmpty then (putTxn a t d, [])
  else
    match t.phase, t.req with
    | .inval, some m => ownerPhase a t m (putTxn a t d)
    | .ack, _ => (putTxn a t d, [])
    | _, _ => finishTxn a t d

/-- Remove an agent from a line's entry after a snoop reply, as the snoop's kind and its result give. -/
def dirAfterSnoop (a : Nat) (t : Txn) (src : Agent) (st : Nat) (d : Dev) : Dev :=
  let e := dirEnt d a t.key
  match holderOf (slicePkg a) src with
  | none => d
  | some h =>
    if st = stO then dirPut a t.key { e with ownO := true } d
    else if st = stS then
      if e.owner = some h then dirPut a t.key ({ e with owner := none, ownO := false }.addSharer h) d else d
    else if st = stE then d
    else dirPut a t.key (e.remove h) d

/-- A snoop result reaches the home (R204, R205, R208, R213). ARG = 1 says that the holder's data follows. -/
def onSnpResp (a : Nat) (m : Msg) (d : Dev) : Out :=
  let k := lineKey m.addr m.who.ns
  match findTxn d a k with
  | none => (d, [])
  | some t =>
    if !t.wait.contains m.src then (d, [])
    else
      let w := t.wait.erase m.src
      let isOwner := (dirEnt d a k).owner == holderOf (slicePkg a) m.src
      if m.st = stWB then
        -- the write-back is sure to follow, unless it has come already (R213)
        advance a { t with wait := w, wbFrom := t.wbFrom ++ [m.src], direct := false } d
      else if m.st = stLOST then
        let d1 := dirAfterSnoop a t m.src stI d
        if isOwner then
          let v := sourceData d1 a k
          let d2 := record (sliceDie a) { ErrRec.mk' 1 0x02 (sliceLog a) 0x19 with addr := some (keyAddr k) }
            (sbump a Reg.COH_ERR Fl.COH_ERR_POISONED 1 (llcPut a k v.1 true true 0 d1))
          advance a { t with wait := w, lost := true, direct := false } d2
        else advance a { t with wait := w } d1
      else
        let keeps := m.st == stS || m.st == stO || m.st == stE
        let d1 := dirAfterSnoop a t m.src m.st d
        let served := t.direct && isOwner && (keeps || m.arg == 1)
        let awaits := m.arg == 1 && !served && t.got.isNone
        let dir := if isOwner then served else t.direct
        advance a { t with wait := w, wbFrom := if awaits then t.wbFrom ++ [m.src] else t.wbFrom,
                           left := t.left || keeps || served, direct := dir } d1

/-- Data of a snooped holder reaches the home (R205). STATE 0x3 or 0x4 marks data from a modified copy. -/
def onSnpDataHome (a : Nat) (m : Msg) (d : Dev) : Out :=
  let k := lineKey m.addr m.who.ns
  match findTxn d a k with
  | none => (d, [])
  | some t => advance a { t with wbFrom := t.wbFrom.erase m.src, got := some (m.line, m.poison),
                                 gotDirty := t.gotDirty || m.st == stM || m.st == stO } d

/-- Absorb a write-back: the data goes into the LLC dirty, the holder leaves the entry, WBP clears, `WbAck` is sent (R207). -/
def absorb (a k : Nat) (m : Msg) (d : Dev) : Out :=
  let e := dirEnt d a k
  let e1 := match holderOf (slicePkg a) m.src with | some h => e.remove h | none => e
  let e2 := { e1 with wbp := false }
  let e3 := if e2.any then e2 else DirEnt.empty
  (dirPut a k e3 (llcPut a k m.line m.poison true 0 d), [m.reply .wbAck (.home a)])

/-- Data of a write-back, a recall or a keeper eviction reaches the home (R195, R207, R213): a transaction that waits for it
takes it as the holder's reply; otherwise a line with WBP absorbs it; data ahead of its `WbDirty` waits for it. -/
def onWbData (a : Nat) (m : Msg) (d : Dev) : Out :=
  let k := lineKey m.addr m.who.ns
  let t? := findTxn d a k
  match t? with
  | some t =>
    if m.arg = 1 then
      if t.wbSeen.contains m.src then
        -- the data of a crossing WbDirty: absorbed at once and acknowledged (R213)
        let t' := { t with wait := t.wait.erase m.src, wbFrom := t.wbFrom.erase m.src, got := some (m.line, m.poison),
                           gotDirty := true, direct := false }
        let o := absorb a k m d
        let r := advance a t' o.1
        (r.1, o.2 ++ r.2)
      else ({ d with net := d.net ++ [m] }, [])
    else
      advance a { t with wbFrom := t.wbFrom.erase m.src, got := some (m.line, m.poison), gotDirty := true } d
  | none => if (dirEnt d a k).wbp then absorb a k m d else ({ d with net := d.net ++ [m] }, [])

/-- A `WbDirty` reaches the home (R207, R213): with a snoop to its sender outstanding it is taken as the snoop's reply and
counted; with no open transaction it sets WBP; otherwise it waits. -/
def onWbDirty (a : Nat) (m : Msg) (d : Dev) : Out :=
  let k := lineKey m.addr m.who.ns
  match findTxn d a k with
  | some t =>
    if t.wait.contains m.src || t.wbFrom.contains m.src then
      let w := if t.wbFrom.contains m.src then t.wbFrom else t.wbFrom ++ [m.src]
      (sbump a Reg.COH_STAT Fl.COH_STAT_WB_CROSS 1 (putTxn a
        { t with wait := t.wait.erase m.src, wbFrom := w, wbSeen := t.wbSeen ++ [m.src], direct := false } d), [])
    else (updHome a (fun x => { x with queue := x.queue ++ [m] }) d, [])
  | none => (dirPut a k { dirEnt d a k with wbp := true } d, [])

/-- An `EvictClean` reaches the home (R207, R213): absorbed, with no change to the entry when the sender is no longer
recorded or its snoop reply is on the way. -/
def onEvictClean (a : Nat) (m : Msg) (d : Dev) : Out :=
  let k := lineKey m.addr m.who.ns
  let ack := [m.reply .wbAck (.home a)]
  let e := dirEnt d a k
  match holderOf (slicePkg a) m.src with
  | none => (d, ack)
  | some h =>
    match findTxn d a k with
    | some t =>
      if t.wait.contains m.src || !e.records h then (d, ack)
      else (updHome a (fun x => { x with queue := x.queue ++ [m] }) d, [])
    | none =>
      let e1 := e.remove h
      (dirPut a k (if e1.any then e1 else DirEnt.empty) d, ack)

/-- Serve one waiting request that can go on: first of the wait store whose set has a free way, then first of the queue whose
line is free; in compatibility mode tell the first refused requester of a free line to resume (R196, R203, R211). -/
def serveOne (a : Nat) (d : Dev) : Option Out :=
  let h := homeSt d a
  match takeFirst (fun m => let k := lineKey m.addr m.who.ns
      !lineBusy d a k m && decide (dirSetUse d a (dirSet k) < 12)) h.store with
  | some (m, rest) => some (startReq a m (updHome a (fun x => { x with store := rest }) d))
  | none =>
    let free (m : Msg) : Bool :=
      if m.op == .wbDirty || m.op == .evictClean then !lineOpen d a (lineKey m.addr m.who.ns)
      else !lineBusy d a (lineKey m.addr m.who.ns) m
    match takeFirst free h.queue with
    | some (m, rest) =>
      let d1 := updHome a (fun x => { x with queue := rest }) d
      some (if m.op = .wbDirty then onWbDirty a m d1 else if m.op = .evictClean then onEvictClean a m d1 else acceptReq a m d1)
    | none =>
      match h.credits.find? (fun c => !c.sent && !lineOpen d a c.key && !(dirEnt d a c.key).wbp
          && !h.credits.any (fun c' => c'.key == c.key && c'.sent)) with
      | some c =>
        let mark (x : Credit) : Credit := if x = c then { x with sent := true } else x
        some (updHome a (fun x => { x with credits := x.credits.map mark }) d,
          [{ Msg.mk' .resume (.home a) c.who c.txn (keyAddr c.key) (wbWho c.key) with arg := h.credits.findIdx (· == c) }])
      | none => none

/-- Serve waiting requests until none can go on. -/
def pump : Nat → Nat → Out → Out
  | 0, _, o => o
  | f + 1, a, o =>
    match serveOne a o.1 with
    | some r => pump f a (r.1, o.2 ++ r.2)
    | none => o

/-- After a step of a home: its waiting requests are served as far as they can go, and its status register follows. -/
def homePump (a : Nat) (o : Out) : Out :=
  let n := (homeSt o.1 a).queue.length + (homeSt o.1 a).store.length + (homeSt o.1 a).credits.length + 1
  let r := pump n a o
  (cohStatus a r.1, r.2)

/-- A keeper reports an evicted entry (R195): the PKG bit clears, and dirty data goes into the LLC. -/
def onKeeperEvict (a : Nat) (m : Msg) (d : Dev) : Out :=
  let k := lineKey m.addr m.who.ns
  let e := dirEnt d a k
  let d0 := if m.arg = 1 then llcPut a k m.line m.poison true 0 d else d
  match holderOf (slicePkg a) m.src with
  | none => (d0, [])
  | some h =>
    let e1 := e.remove h
    (dirPut a k (if e1.any then e1 else DirEnt.empty) d0, [])

/-- A requester's acknowledgement closes its transaction (R203). -/
def onCompAck (a : Nat) (m : Msg) (d : Dev) : Out :=
  let k := lineKey m.addr m.who.ns
  match findTxn d a k with
  | some t => if t.phase = .ack then (closeTxn a k d, []) else (d, [])
  | none => (d, [])

/-- An atomic to the slice's scratchpad (R175, R181), checked by the scratchpad firewall; a poisoned line stays poisoned. -/
def spadAtomic (m : Msg) (D s off : Nat) (d : Dev) : Out :=
  let a := sliceArray d (D * 42 + s)
  let r := m.reply .respData (.home a)
  match m.atom with
  | none => (d, [r])
  | some x =>
    if spadAdmits d D s off x.size m.who .rw m.addr then
      let l := spadLine d a (off / 64)
      if l.2 then (d, [{ r with poison := true }])
      else
        let old := lineGet l.1 (off % 64) x.size
        (spadPut a (off / 64) (linePut l.1 (off % 64) x.size (x.apply old), false) d, [{ r with line := BitVec.ofNat 512 old }])
    else (spadRefuse D s m.who true .other m.addr d, [{ r with poison := true }])

/-- One element of a packet to scratchpad (R121, R175). -/
def spadElem (a : Nat) (m : Msg) (e : Elem) (D s off : Nat) (d : Dev) : Out :=
  let a' := sliceArray d (D * 42 + s)
  let n := elemBytes e.size
  let need : Need := match m.op with | .gather => .r | .scatter => .w | _ => .rw
  if spadAdmits d D s off n m.who need e.addr then
    let l := spadLine d a' (off / 64)
    match m.op with
    | .gather => pktDone a m e.slot (if l.2 then 0#64 else BitVec.ofNat 64 (lineGet l.1 (off % 64) n)) l.2 d
    | .scatter => pktDone a m e.slot 0 false (spadPut a' (off / 64) (linePut l.1 (off % 64) n e.data.toNat, l.2) d)
    | _ =>
      if l.2 then pktDone a m e.slot 0 false (raiseSlot (sliceDie a) (sliceLog a) 6 d)
      else match m.atom with
        | some x => pktDone a m e.slot 0 false
            (spadPut a' (off / 64) (linePut l.1 (off % 64) n ({ x with val := e.data.toNat }.apply (lineGet l.1 (off % 64) n)), false) d)
        | none => pktDone a m e.slot 0 false d
  else pktDone a m e.slot 0 (m.op == .gather) (spadRefuse D s m.who (m.op != .gather) .other e.addr d)

/-- A packet of elements reaches the home: it is put in service and each element becomes a request for its own line
(R200, R217). -/
def onPacket (a : Nat) (m : Msg) (d : Dev) : Out :=
  let p : Pkt := ⟨m, m.elems.map (·.slot), []⟩
  let d0 := updHome a (fun x => { x with pkts := x.pkts ++ [p] }) d
  m.elems.foldl (fun o e =>
    let r := match regionOf e.addr with
      | .spad D s off => spadElem a m e D s off o.1
      | _ => acceptReq a { m with addr := e.addr, elems := [e] } o.1
    let r' := pump 4 a r
    (r'.1, o.2 ++ r'.2)) (d0, [])

/-- A message reaches the home of a slice; `g` is the logical slice it names (R166, R201). -/
def homeDeliver (g : Nat) (m : Msg) (d : Dev) : Out :=
  let a := sliceArray d g
  homePump a (match m.op with
    | .gather | .scatter | .scatterRed => onPacket a m d
    | .wbDirty => onWbDirty a m d
    | .evictClean => onEvictClean a m d
    | .keeperEvict => onKeeperEvict a m d
    | .compAck => onCompAck a m d
    | .snpResp => onSnpResp a m d
    | .snpData => onSnpDataHome a m d
    | .wbData => onWbData a m d
    | .atomicHome => (match regionOf m.addr with
        | .spad D s off => spadAtomic m D s off d
        | _ => acceptReq a m d)
    | .rdShared | .rdUnique | .upgrade | .rdOnce | .wrFull | .wrPartial | .cmoClean | .cmoInv | .cmoFlush
    | .lock | .unlock => acceptReq a m d
    | _ => (d, []))

end Sys2Proof.Machine
end

