-- ==== Sys2Proof/Machine/CohCore.lean ====
section
/-! DEFINITION. The core's side of coherence: L2 fills and evictions, snoop answers and dwell, replies to requests (R144,
R145, R190, R205 to R215, R486), the requests of units that are no cores, and the atomic unit of a memory port (R218). -/

namespace Sys2Proof.Machine

/-! ### L2 -/

def l2Line (d : Dev) (c k : Nat) : Option L2Line := KMap.look none (cacheSt d c).l2 k

/-- Replace a line of an L2; a line that leaves takes its L1 copies along (R144). -/
def l2Put (c k : Nat) (l : Option L2Line) (d : Dev) : Dev :=
  let drop (x : CacheSt) : CacheSt := if l.isNone then { x with l1d := x.l1d.erase k, l1i := x.l1i.erase k } else x
  updCache c (fun x => drop { x with l2 := KMap.put none x.l2 k l, lost := if l.isSome then x.lost.erase k else x.lost }) d

/-- Whether any granule is poisoned: beyond L2 the whole line is (R486). -/
def L2Line.bad (l : L2Line) : Bool := l.poison != 0#8

/-- Whether a state is dirty. -/
def L2State.dirty : L2State → Bool
  | .M | .O => true
  | .E | .S => false

/-- Whether a core may write the line without a message (R190). -/
def L2State.writable : L2State → Bool
  | .M | .E => true
  | .O | .S => false

/-- Poison after a store of `n` bytes from byte `off` on: granules wholly written are cleared (R486). -/
def poisonStore (p : BitVec 8) (off n : Nat) : BitVec 8 :=
  BitVec.ofNat 8 ((List.range 8).foldl (fun a g =>
    if p.getLsbD g && !(decide (off ≤ 8 * g) && decide (8 * g + 8 ≤ off + n)) then a + 2 ^ g else a) 0)

/-- Whether a read of `n` bytes from byte `off` on touches a poisoned granule (R486). -/
def poisonRead (p : BitVec 8) (off n : Nat) : Bool :=
  (List.range 8).any (fun g => p.getLsbD g && decide (8 * g < off + n) && decide (off < 8 * g + 8))

/-- A line after a store to it: dirty, with the bytes written (R144, R486). -/
def L2Line.store (l : L2Line) (off n v : Nat) : L2Line :=
  { l with st := .M, data := linePut l.data off n v, poison := poisonStore l.poison off n }

/-- Update COH-visible dwell: the dwell of the core's die in nanoseconds (R209, R222). -/
def dwellNs (d : Dev) (c : Nat) : Nat := min 32 (fld d (coreDie c) Reg.COH_CTL Fl.COH_CTL_DWELL) * 10

/-- The time base value at which a dwell started now ends: the first 10 ns credit at or after now + D (R210). -/
def dwellEnd (d : Dev) (c : Nat) : Nat := ceilDiv (nowOf d (coreDie c) + dwellNs d c) 10 * 10

/-- Whether a dwell on a line is still running. -/
def dwelling (d : Dev) (c k : Nat) : Bool :=
  (cacheSt d c).dwell.any (fun e => e.1 == k && decide (nowOf d (coreDie c) < e.2))

def dwellStop (c k : Nat) (d : Dev) : Dev := updCache c (fun x => { x with dwell := x.dwell.filter (fun e => e.1 != k) }) d

/-- The snoop result of a core that holds nothing: LOST when the line's set has a disabled way (R208) or the line was in a LOST
bank (R372), else I. -/
def absentResult (d : Dev) (c k : Nat) : Nat :=
  if (cacheSt d c).lost.contains k then stLOST
  else if (cacheSt d c).off.any (fun e => e.1 == Config.l2Set k % 1024) then stLOST else stI

/-- A core answers a snoop now (R205, R208, R213, R485). -/
def answerSnoop (c : Nat) (m : Msg) (d : Dev) : Out :=
  let k := lineKey m.addr m.who.ns
  let me : Agent := .core c
  let resp (st arg : Nat) : Msg := { Msg.mk' .snpResp me m.src m.txn m.addr m.who with st := st, arg := arg }
  let dataTo (dst : Agent) (op : COp) (l : L2Line) (st : Nat) : Msg :=
    { Msg.mk' op me dst m.txn m.addr m.who with line := l.data, poison := l.bad, st := st }
  match l2Line d c k with
  | some l =>
    -- the requester when the data goes straight to it, else the snooper
    let tgt : Agent := match m.src, m.fwd with
      | .home a, some (.core r) => if corePkg r = slicePkg a ∧ corePkg c = slicePkg a then .core r else m.src
      | _, _ => m.src
    let gone (d : Dev) : Dev := dwellStop c k (l2Put c k none d)
    match m.op with
    | .snpShared =>
      match l.st with
      | .M => (l2Put c k (some { l with st := .O }) d, [dataTo tgt .snpData l stS, resp stO 1])
      | .O => (d, [dataTo tgt .snpData l stS, resp stO 1])
      | .E => (l2Put c k (some { l with st := .S }) d, [dataTo tgt .snpData l stS, resp stS 1])
      | .S => (d, [resp stS 0])
    | .snpUnique =>
      match l.st with
      | .M | .O => (gone d, [dataTo tgt .snpData l stM, resp stI 1])
      | .E => (gone d, [dataTo tgt .snpData l stE, resp stI 1])
      | .S => (gone d, [resp stI 0])
    | .snpInv => (gone d, [resp stI 0])
    | .snpPeek => (d, [dataTo m.src .snpData l (if l.st.dirty then stM else stE), resp (if l.st = .O then stO else stE) 1])
    | .snpClean =>
      match l.st with
      | .M => (l2Put c k (some { l with st := .E }) d, [dataTo m.src .snpData l stM, resp stE 1])
      | .E => (d, [resp stE 0])
      | .O => (l2Put c k (some { l with st := .S }) d, [dataTo m.src .snpData l stM, resp stS 1])
      | .S => (d, [resp stS 0])
    | .recall =>
      if l.st.dirty then (gone d, [dataTo m.src .wbData l stM, resp stI 1]) else (gone d, [resp stI 0])
    | _ => (d, [])
  | none =>
    match (cacheSt d c).vict.find? (fun e => e.1 == k) with
    | some e => (d, [resp (if e.2.st.dirty then stWB else stI) 0])
    | none => (d, [resp (absentResult d c k) 0])

/-- A snoop reaches a core: held while a dwell on its line runs, one of 16 snoop buffers each; with all in use it stays in
the snoop channel (R202, R209). -/
def onSnoop (c : Nat) (m : Msg) (d : Dev) : Out :=
  if dwelling d c (lineKey m.addr m.who.ns) then
    if (cacheSt d c).held.length < 16 then (updCache c (fun x => { x with held := x.held ++ [m] }) d, [])
    else ({ d with net := d.net ++ [m] }, [])
  else answerSnoop c m d

/-- The held snoops of a line are answered in order (R210). -/
def answerHeld (c k : Nat) (d : Dev) : Out :=
  let hs := (cacheSt d c).held.filter (fun m => lineKey m.addr m.who.ns == k)
  let d0 := updCache c (fun x => { x with held := x.held.filter (fun m => lineKey m.addr m.who.ns != k) }) d
  hs.foldl (fun o m => let r := answerSnoop c m o.1; (r.1, o.2 ++ r.2)) (d0, [])

/-- The dwell on a line ends, and held snoops are answered (R210). -/
def dwellEnds (c k : Nat) (d : Dev) : Out := answerHeld c k (dwellStop c k d)

/-- L2 evicts a line (R145): a write-back or an eviction notice goes to its home, the line moves to the victim buffer, its
dwell ends and held snoops are answered from there (R209). -/
def l2Evict (c k : Nat) (d : Dev) : Out :=
  match l2Line d c k with
  | none => (d, [])
  | some l =>
    let m := Msg.mk' (if l.st.dirty then .wbDirty else .evictClean) (.core c) l.home 0 (keyAddr k) ⟨0, keyNs k⟩
    let wb : List Msg := if l.st.dirty then
      [{ m with op := .wbData, line := l.data, poison := l.bad, arg := 1 }] else []
    let d1 := updCache c (fun x => { x with vict := x.vict ++ [(k, l)] }) (l2Put c k none d)
    let o := dwellEnds c k d1
    (o.1, m :: wb ++ o.2)

/-- Whether the victim buffer can take another line (R145). -/
def victFree (d : Dev) (c : Nat) : Bool := decide ((cacheSt d c).vict.length < 16)

/-- Lines of an L2 set. -/
def l2SetLines (d : Dev) (c set : Nat) : List (Nat × L2Line) :=
  (cacheSt d c).l2.filterMap (fun e => match e.2 with
    | some l => if l.set == set then some (e.1, l) else none
    | none => none)

/-- Fill a line into L2 (R144): in place, in a free way that is not disabled, or in the way of a victim; the spec leaves the
victim open (R145). -/
def l2Fill (c k : Nat) (st : L2State) (data : LineData) (poison : Bool) (home : Agent) (d : Dev) : Out :=
  let pz : BitVec 8 := if poison then 0xFF#8 else 0#8
  match l2Line d c k with
  | some l => (l2Put c k (some { l with st := st, data := data, poison := pz }) d, [])
  | none =>
    let set := Config.l2Set k % 1024
    let ls := l2SetLines d c set
    let off := (cacheSt d c).off
    match (List.range 16).find? (fun w => !ls.any (fun e => e.2.way == w) && !off.contains (set, w)) with
    | some w => (l2Put c k (some ⟨st, data, pz, set, w, home⟩) d, [])
    | none =>
      match freeChoice ls (draw d) with
      | some v =>
        let o := l2Evict c v.1 (drawn d)
        (l2Put c k (some ⟨st, data, pz, set, v.2.way, home⟩) o.1, o.2)
      | none => (d, [])

/-- The line that a fill of `k` takes from an L1 cache, when its set is full: the spec leaves the victim open. -/
def l1Victim (ways : Nat) (set : Nat → Nat) (l : List Nat) (k n : Nat) : Option Nat :=
  if l.length < ways then none
  else
    let mine := l.filter (fun j => set j == set k)
    if mine.length < ways then none else freeChoice mine n

/-- A load fills L1D, of 128 sets and 8 ways, beside L2 (R144). -/
def l1dFill (c k : Nat) (d : Dev) : Dev :=
  let l := (cacheSt d c).l1d
  if l.contains k then d
  else match l1Victim 8 (fun j => Config.l1dSet j % 128) l k (draw d) with
    | none => updCache c (fun x => { x with l1d := x.l1d ++ [k] }) d
    | some v => updCache c (fun x => { x with l1d := x.l1d.erase v ++ [k] }) (drawn d)

/-- A fetch fills L1I, of 256 sets and 4 ways, beside L2 (R144). -/
def l1iFill (c k : Nat) (d : Dev) : Dev :=
  let l := (cacheSt d c).l1i
  if l.contains k then d
  else match l1Victim 4 (fun j => Config.l1iSet j % 256) l k (draw d) with
    | none => updCache c (fun x => { x with l1i := x.l1i ++ [k] }) d
    | some v => updCache c (fun x => { x with l1i := x.l1i.erase v ++ [k] }) (drawn d)

/-! ### The store buffer (R142) -/

/-- Key of a store-buffer entry's line. -/
def SbEnt.key (e : SbEnt) : Nat := lineKey e.pa e.who.ns

/-- The oldest entry of a line is written to L2, which holds the line in M or E; the youngest entries of a checked pair's
leader stay until their group has matched (R155). -/
def sbCommit (c k : Nat) (d : Dev) : Dev :=
  match l2Line d c k, takeFirst (fun e => e.key == k && !e.nc) (cacheSt d c).sb with
  | some l, some (e, rest) =>
    if l.st.writable && decide ((cacheSt d c).sb.findIdx (fun x => x.key == k && !x.nc) + (cacheSt d c).sbHeld
        < (cacheSt d c).sb.length) then
      updCache c (fun x => { x with sb := rest }) (l2Put c k (some (l.store (e.pa % 64) e.size e.data)) d)
    else d
  | _, _ => d

/-! ### Requests and replies -/

/-- A core sends a request, under a new transaction number, if one of its 96 mesh entries is free and no request of the same
kind for the line is in progress; a request for a line in the victim buffer is parked (R145, R146). -/
def coreAsk (c : Nat) (m : Msg) (d : Dev) : Out :=
  let k := lineKey m.addr m.who.ns
  let cs := cacheSt d c
  if cs.miss.any (fun x => lineKey x.req.addr x.req.who.ns == k && x.req.op == m.op && x.result.isNone) then (d, [])
  else if 96 ≤ cs.miss.length || !victFree d c then (d, [])
  else
    let t := (cs.txn + 1) % 1024
    let m' := { m with src := .core c, txn := t }
    let parked := cs.vict.any (fun e => e.1 == k)
    (updCache c (fun x => { x with txn := t, miss := x.miss ++ [⟨m', parked, none, none⟩] }) d, if parked then [] else [m'])

def findMiss (d : Dev) (c t : Nat) : Option Miss := (cacheSt d c).miss.find? (fun x => x.req.txn == t && x.result.isNone)

def dropMiss (c t : Nat) (d : Dev) : Dev := updCache c (fun x => { x with miss := x.miss.filter (fun y => y.req.txn != t) }) d

def setMiss (c t : Nat) (f : Miss → Miss) (d : Dev) : Dev :=
  updCache c (fun x => { x with miss := x.miss.map (fun y => if y.req.txn == t then f y else y) }) d

/-- The L2 state that a STATE code grants (R199). -/
def grantedState : Nat → Option L2State
  | 1 => some .S
  | 2 => some .E
  | 3 => some .M
  | 4 => some .O
  | _ => none

/-- An ownership grant starts a dwell, and the store that asked for the line is written (R209). -/
def ownershipWon (c k : Nat) (d : Dev) : Dev :=
  let e := dwellEnd d c
  sbCommit c k (updCache c (fun x => { x with dwell := (k, e) :: x.dwell.filter (fun y => y.1 != k) }) d)

/-- Line data reaches the requesting core (R144): filled with its granted state and acknowledged; data that grants nothing is
kept as the request's result. -/
def onCoreData (c : Nat) (m : Msg) (d : Dev) : Out :=
  match findMiss d c m.txn with
  | none => (d, [])
  | some x =>
    let k := lineKey m.addr m.who.ns
    match grantedState m.st with
    | none => (setMiss c m.txn (fun y => { y with result := some m }) d, [])
    | some st =>
      let o := l2Fill c k st m.line m.poison x.req.dst (dropMiss c m.txn d)
      let d1 := if x.req.op = .rdShared then l1dFill c k o.1 else ownershipWon c k o.1
      (d1, o.2 ++ [Msg.mk' .compAck (.core c) x.req.dst m.txn m.addr m.who])

/-- Ownership without data reaches the requester (R205, R209). -/
def onGrant (c : Nat) (m : Msg) (d : Dev) : Out :=
  match findMiss d c m.txn with
  | none => (d, [])
  | some x =>
    let k := lineKey m.addr m.who.ns
    let d1 := match l2Line d c k with
      | some l => l2Put c k (some { l with st := .M }) d
      | none => d
    (ownershipWon c k (dropMiss c m.txn d1), [Msg.mk' .compAck (.core c) x.req.dst m.txn m.addr m.who])

/-- The home's acknowledgement frees the victim buffer entry and releases requests parked on it (R145, R207). -/
def onWbAck (c : Nat) (m : Msg) (d : Dev) : Out :=
  let k := lineKey m.addr m.who.ns
  let ps := (cacheSt d c).miss.filter (fun x => x.parked && lineKey x.req.addr x.req.who.ns == k)
  let un (x : Miss) : Miss := if lineKey x.req.addr x.req.who.ns == k then { x with parked := false } else x
  (updCache c (fun x => { x with vict := x.vict.filter (fun e => e.1 != k), miss := x.miss.map un }) d, ps.map (·.req))

/-- A message reaches a core. -/
def coreDeliver (c : Nat) (m : Msg) (d : Dev) : Out :=
  match m.op with
  | .snpShared | .snpUnique | .snpInv | .snpPeek | .snpClean | .recall => onSnoop c m d
  | .data | .snpData => onCoreData c m d
  | .grant => onGrant c m d
  | .wbAck => onWbAck c m d
  | .comp | .respData => (setMiss c m.txn (fun y => { y with result := some m }) d, [])
  | .defer => (setMiss c m.txn (fun y => { y with deferred := some m.arg }) d, [])
  | .resume =>
    match findMiss d c m.txn with
    | some x => (setMiss c m.txn (fun y => { y with deferred := none }) d, [x.req])
    | none => (d, [])
  | _ => (d, [])

/-! ### Units that are no cores -/

/-- A high-speed port, queue engine or Crown sends a request. -/
def extAsk (m : Msg) (d : Dev) : Out := ({ d with ext := d.ext ++ [⟨m, false, none, none⟩] }, [m])

/-- A reply reaches such a unit; a refused request is sent again after `Resume` (R211, R212). -/
def extDeliver (m : Msg) (d : Dev) : Out :=
  let hit (x : Miss) : Bool := x.req.src == m.dst && x.req.txn == m.txn
  let upd (f : Miss → Miss) : Dev := { d with ext := d.ext.map (fun x => if hit x then f x else x) }
  match m.op with
  | .data | .comp | .respData => (upd (fun x => { x with result := some m }), [])
  | .defer => (upd (fun x => { x with deferred := some m.arg }), [])
  | .resume => (upd (fun x => { x with deferred := none }), (d.ext.filter hit).map (·.req))
  | _ => (d, [])

/-! ### Memory ports -/

/-- An atomic or packet reaches the atomic unit of a memory port (R218, R280), behind the port's firewall check. -/
def portDeliver (m : Msg) (d : Dev) : Out :=
  let src := m.dst
  match m.op with
  | .atomicMem =>
    let r := m.reply .respData src
    match m.atom with
    | none => (d, [r])
    | some x =>
      if dramAdmits d m.who .rw m.addr then
        let la := m.addr / 64 * 64
        let old := dramAtomicOld d la (m.addr % 64) x
        (dramAtomic la (m.addr % 64) x m.who d, [{ r with line := BitVec.ofNat 512 old.1, poison := old.2 }])
      else (portRefuse m.addr m.who true d, [{ r with poison := true }])
  | .gather =>
    let r := m.reply .respData src
    let stepE (acc : Dev × List Elem × Nat) (e : Elem) : Dev × List Elem × Nat :=
      if dramAdmits acc.1 m.who .r e.addr then
        let v := lineValue acc.1 (e.addr / 64 * 64)
        let w := if v.2 then 0#64 else BitVec.ofNat 64 (lineGet v.1 (e.addr % 64) (elemBytes e.size))
        (dramRead (e.addr / 64 * 64) m.who acc.1, acc.2.1 ++ [{ e with data := w }], if v.2 then acc.2.2 ||| 2 ^ e.slot else acc.2.2)
      else (portRefuse e.addr m.who false acc.1, acc.2.1 ++ [{ e with data := 0 }], acc.2.2 ||| 2 ^ e.slot)
    let a := m.elems.foldl stepE (d, [], 0)
    (a.1, [{ r with elems := a.2.1, arg := a.2.2 }])
  | .scatter =>
    let stepE (d : Dev) (e : Elem) : Dev :=
      let la := e.addr / 64 * 64
      let n := elemBytes e.size
      if dramAdmits d m.who .rw e.addr then
        dramWritePartial la (linePut 0 (e.addr % 64) n e.data.toNat) (BitVec.ofNat 64 ((2 ^ n - 1) <<< (e.addr % 64))) m.who d
      else portRefuse e.addr m.who true d
    (m.elems.foldl stepE d, [m.reply .comp src])
  | .scatterRed =>
    let stepE (d : Dev) (e : Elem) : Dev :=
      let la := e.addr / 64 * 64
      match m.atom with
      | none => d
      | some x =>
        if dramAdmits d m.who .rw e.addr then dramAtomic la (e.addr % 64) { x with val := e.data.toNat } m.who d
        else portRefuse e.addr m.who true d
    (m.elems.foldl stepE d, [m.reply .comp src])
  | _ => (d, [])

end Sys2Proof.Machine
end

