-- ==== Sys2Proof/Machine/Keeper.lean ====
section
/-! DEFINITION. Keepers (R194, R195, R204, R208, R220): the record of which cores of a package hold lines homed in another
package, one outstanding request per line, and the forwarding of snoops and replies. -/

namespace Sys2Proof

/-- Whether a message is a snoop. -/
def COp.isSnoop : COp → Bool
  | .snpShared | .snpUnique | .snpInv | .snpPeek | .snpClean | .recall => true
  | _ => false

end Sys2Proof

namespace Sys2Proof.Machine

/-- The die whose rein stop holds the keeper of package `p` for package `q`: the active rein (R222, R262). -/
def keeperDie (d : Dev) (p q : Nat) : Nat :=
  match (d.cfg.diesOf p).find? (fun D => flg d D Reg.KPR_STATUS Fl.KPR_STATUS_ACTIVE
      && fld d D Reg.KPR_STATUS Fl.KPR_STATUS_FAR_PKG == q) with
  | some D => D
  | none => p * 8

def kEnt (d : Dev) (p q k : Nat) : DirEnt := KMap.look DirEnt.empty (keeperSt d p q).dir k

/-- Replace a keeper entry; ENTRIES follows (R222). -/
def kPut (p q k : Nat) (e : DirEnt) (d : Dev) : Dev :=
  let d1 := updKeeper p q (fun x => { x with dir := KMap.put DirEnt.empty x.dir k e }) d
  setFld (keeperDie d p q) Reg.KPR_STATUS Fl.KPR_STATUS_ENTRIES (keeperSt d1 p q).dir.length d1

/-- Whether a keeper transaction serves a snoop of the home rather than a request of a core. -/
def Txn.isSnoop (t : Txn) : Bool := match t.req with | some m => m.op.isSnoop | none => true

def kFind (d : Dev) (p q k : Nat) (snoop : Bool) : Option Txn :=
  (keeperSt d p q).txns.find? (fun t => t.key == k && t.isSnoop == snoop)

def kSet (p q : Nat) (t : Txn) (d : Dev) : Dev :=
  updKeeper p q (fun x => { x with txns := x.txns.filter (fun u => !(u.key == t.key && u.isSnoop == t.isSnoop)) ++ [t] }) d

def kClose (p q k : Nat) (snoop : Bool) (d : Dev) : Dev :=
  updKeeper p q (fun x => { x with txns := x.txns.filter (fun u => !(u.key == k && u.isSnoop == snoop)) }) d

/-- A snoop of the keeper to one of its cores; data comes back to the keeper. -/
def kSnoop (p q k : Nat) (op : COp) (ns : Bool) : Holder → Msg
  | .core i => Msg.mk' op (.keeper p q) (.core (p * 320 + i)) 0 (keyAddr k) ⟨0, ns⟩
  | .pkg _ => Msg.mk' op (.keeper p q) (.keeper p q) 0 (keyAddr k) ⟨0, ns⟩

/-- The cores that an entry of a keeper records, the owner first. -/
def kHolders (d : Dev) (p q k : Nat) : List Holder :=
  let e := kEnt d p q k
  (match e.owner with | some h => [h] | none => []) ++ ((e.sharerList d p).filter (fun h => e.owner != some h))

/-- A core's request passes through the keeper (R194): at most one is outstanding for a line, later ones wait in order. -/
def kRequest (p q : Nat) (m : Msg) (d : Dev) : Out :=
  let k := lineKey m.addr m.who.ns
  if (kFind d p q k false).isSome then (updKeeper p q (fun x => { x with queue := x.queue ++ [m] }) d, [])
  else
    (kSet p q (Txn.ofReq k m .owner [] false) d,
      [{ m with src := .keeper p q, dst := .home (hashedHome d m.addr) }])

/-- The next waiting request of a line goes on when the line is free at the keeper. -/
def kPump (p q : Nat) (o : Out) : Out :=
  match takeFirst (fun m => (kFind o.1 p q (lineKey m.addr m.who.ns) false).isNone) (keeperSt o.1 p q).queue with
  | some (m, rest) =>
    let r := kRequest p q m (updKeeper p q (fun x => { x with queue := rest }) o.1)
    (r.1, o.2 ++ r.2)
  | none => o

/-- Make room in a keeper set of 16 ways: the evicted entry is recalled from its cores, and `KeeperEvict` tells the home when
they have answered (R194, R195). -/
def kRoom (p q k : Nat) (d : Dev) : Out :=
  let st := keeperSt d p q
  let inSet := (st.dir.filter (fun e => e.1 / 2 % 8192 == k / 2 % 8192)).map (·.1)
  if inSet.length < 16 || inSet.contains k then (d, [])
  else
    match freeChoice (inSet.filter (fun j => (kFind d p q j false).isNone && (kFind d p q j true).isNone)) (draw d) with
    | none => (drawn d, [])
    | some v =>
      let hs := kHolders d p q v
      let t : Txn := ⟨v, none, .inval, hs.map (holderAgent p q), [], none, false, false, false, false, []⟩
      let d1 := bump (keeperDie d p q) Reg.KPR_STATUS Fl.KPR_STATUS_EVICTS 1 (drawn d)
      (kSet p q t d1, hs.map (kSnoop p q v .recall (keyNs v)))

/-- The reply of the home goes to the core that asked; a grant of ownership waits until the package's other copies are
invalidated (R204). -/
def kForward (p q : Nat) (t : Txn) (m : Msg) (d : Dev) : Out :=
  match t.req with
  | none => (d, [])
  | some r =>
    let k := t.key
    let h := (holderOf p r.src).getD (.core 0)
    let out : Msg := { m with src := .keeper p q, dst := r.src }
    let e := kEnt d p q k
    let others := (kHolders d p q k).filter (fun x => x != h)
    if m.st = stE ∨ m.st = stM then
      if others.isEmpty then
        let o := kRoom p q k d
        (kSet p q { t with phase := .ack } (kPut p q k { DirEnt.empty with owner := some h } o.1), o.2 ++ [out])
      else
        (kSet p q { t with phase := .inval, wait := others.map (holderAgent p q), got := some (m.line, m.poison), lost := m.op == .grant,
                           gotDirty := m.st == stM } d,
          others.map (kSnoop p q k .snpInv (keyNs k)))
    else if m.st = stS then
      let o := kRoom p q k d
      (kSet p q { t with phase := .ack } (kPut p q k (e.addSharer h) o.1), o.2 ++ [out])
    else if m.op = .defer ∨ m.op = .resume then (d, [out])
    else kPump p q (kClose p q k false d, [out])

/-- The package's other copies are gone: the grant goes on to its requester. -/
def kGranted (p q : Nat) (t : Txn) (d : Dev) : Out :=
  match t.req with
  | none => (d, [])
  | some r =>
    let h := (holderOf p r.src).getD (.core 0)
    let v := t.got.getD (0, false)
    let m := withLine (Msg.mk' (if t.lost then .grant else .data) (.keeper p q) r.src r.txn (keyAddr t.key) r.who) v
      (if t.gotDirty then stM else stE)
    (kSet p q { t with phase := .ack, wait := [] } (kPut p q t.key { DirEnt.empty with owner := some h } d), [m])

/-- A snoop of the home reaches the keeper: forwarded to the cores it records, or answered at once (R194, R208, R485). -/
def kOnSnoop (p q : Nat) (m : Msg) (d : Dev) : Out :=
  let k := lineKey m.addr m.who.ns
  let e := kEnt d p q k
  let tg : List Holder := match m.op with
    | .snpShared | .snpPeek | .snpClean => (match e.owner with | some h => [h] | none => [])
    | _ => kHolders d p q k
  if tg.isEmpty then
    (d, [{ Msg.mk' .snpResp (.keeper p q) m.src m.txn m.addr m.who with st := if e.any then stS else stI }])
  else (kSet p q (Txn.ofReq k m .inval (tg.map (holderAgent p q)) false) d, tg.map (kSnoop p q k m.op m.who.ns))

/-- Every core has answered a forwarded snoop: one reply to the home, with its data if there is any (R194). -/
def kSnoopDone (p q : Nat) (t : Txn) (d : Dev) : Out :=
  match t.req with
  | none =>
    -- an evicted entry: the home learns of it, with the dirty data if any (R195)
    let v := t.got.getD (0, false)
    let m := Msg.mk' .keeperEvict (.keeper p q) (.home (hashedHome d (keyAddr t.key))) 0 (keyAddr t.key) ⟨0, keyNs t.key⟩
    (kClose p q t.key true (kPut p q t.key DirEnt.empty d),
      [{ withLine m v stI with arg := b2n t.got.isSome }])
  | some m =>
    let e := kEnt d p q t.key
    let st := if t.lost then stLOST
      else if !e.any then stI
      else if e.ownO then stO
      else if e.owner.isSome then stE
      else stS
    let r := { Msg.mk' .snpResp (.keeper p q) m.src m.txn m.addr m.who with st := st, arg := b2n t.got.isSome }
    let dm : List Msg := match t.got with
      | some v => [withLine (Msg.mk' (if m.op = .recall then .wbData else .snpData) (.keeper p q) m.src m.txn m.addr m.who) v
          (if t.gotDirty then stM else stE)]
      | none => []
    (kClose p q t.key true d, dm ++ [r])

/-- A keeper transaction with nothing outstanding moves on. -/
def kAdvance (p q : Nat) (t : Txn) (d : Dev) : Out :=
  if !t.wait.isEmpty || !t.wbFrom.isEmpty then (kSet p q t d, [])
  else if t.isSnoop then kSnoopDone p q t d
  else if t.phase = .inval then kGranted p q t d
  else (kSet p q t d, [])

/-- A snoop result of a core reaches the keeper. -/
def kOnResp (p q : Nat) (m : Msg) (d : Dev) : Out :=
  let k := lineKey m.addr m.who.ns
  let pick := match kFind d p q k true with
    | some t => if t.wait.contains m.src then some t else kFind d p q k false
    | none => kFind d p q k false
  match pick with
  | none => (d, [])
  | some t =>
    let e := kEnt d p q k
    let h := (holderOf p m.src).getD (.core 0)
    let e' := if m.st = stO then { e with ownO := true }
      else if m.st = stS then { e with owner := none, ownO := false }.addSharer h
      else if m.st = stE then e
      else e.remove h
    let aw := (m.arg == 1 && t.got.isNone && t.isSnoop) || m.st == stWB
    kAdvance p q { t with wait := t.wait.erase m.src, wbFrom := if aw then t.wbFrom ++ [m.src] else t.wbFrom,
                          lost := t.lost || (m.st == stLOST && t.isSnoop) } (kPut p q k e' d)

/-- Data of a core reaches the keeper: of a forwarded snoop, or of a write-back, which the keeper passes to the home. -/
def kOnData (p q : Nat) (m : Msg) (d : Dev) : Out :=
  let k := lineKey m.addr m.who.ns
  match kFind d p q k true with
  | some t => kAdvance p q { t with wbFrom := t.wbFrom.erase m.src, got := some (m.line, m.poison),
                                    gotDirty := t.gotDirty || m.st == stM || m.op == .wbData } d
  | none =>
    if m.op = .wbData then (d, [{ m with src := .keeper p q, dst := .home (hashedHome d m.addr) }]) else (d, [])

/-- A write-back or eviction notice of a core (R194, R207): the last copy of the package, and any dirty copy after the other
copies are invalidated, is reported to the home; another clean copy is absorbed by the keeper. -/
def kOnEvict (p q : Nat) (m : Msg) (d : Dev) : Out :=
  let k := lineKey m.addr m.who.ns
  let h := (holderOf p m.src).getD (.core 0)
  let e := (kEnt d p q k).remove h
  let d1 := kPut p q k e d
  let up : Msg := { m with src := .keeper p q, dst := .home (hashedHome d m.addr) }
  if m.op = .wbDirty then
    let hs := kHolders d1 p q k
    (kPut p q k DirEnt.empty d1, hs.map (kSnoop p q k .snpInv (keyNs k)) ++ [up])
  else if e.any then (d1, [m.reply .wbAck (.keeper p q)])
  else (kPut p q k DirEnt.empty d1, [m.reply .wbAck (.keeper p q), up])

/-- A message reaches the keeper of package `p` for package `q`. -/
def keeperDeliver (p q : Nat) (m : Msg) (d : Dev) : Out :=
  let k := lineKey m.addr m.who.ns
  match m.op with
  | .snpShared | .snpUnique | .snpInv | .snpPeek | .snpClean | .recall => kOnSnoop p q m d
  | .snpResp => kOnResp p q m d
  | .snpData | .wbData => kOnData p q m d
  | .wbDirty | .evictClean => kOnEvict p q m d
  | .compAck =>
    match kFind d p q k false with
    | some _ => kPump p q (kClose p q k false d, [{ m with src := .keeper p q, dst := .home (hashedHome d m.addr) }])
    | none => (d, [])
  | .data | .grant | .comp | .respData | .defer | .resume =>
    match kFind d p q k false with
    | some t => kForward p q t m d
    | none => (d, [])
  | .wbAck =>
    match d.cfg.allDies.flatMap (fun D => (List.range 40).map (fun c => D * 40 + c)) |>.find? (fun c =>
        corePkg c == p && (cacheSt d c).vict.any (fun e => e.1 == k && e.2.home == .keeper p q)) with
    | some c => (d, [{ m with src := .keeper p q, dst := .core c }])
    | none => (d, [])
  | .keeperEvict => (d, [])
  | _ => kRequest p q m d

end Sys2Proof.Machine
end

