-- ==== Sys2Proof/Machine/Deliver.lean ====
section
/-! DEFINITION. Delivery of a coherence message to whatever it is addressed to, and the settling of the messages that an
operation sends: every message that an operation causes is delivered in the order sent until none is left, which is one
of the orders that R198 allows (log entry 10). -/

namespace Sys2Proof.Machine

/-- A message reaches its destination (R201). -/
def deliver (m : Msg) (d : Dev) : Out :=
  match m.dst with
  | .core c => coreDeliver c m d
  | .home g =>
    -- a slice in retention is woken, and the message waits (R184, R371)
    if domOn d (sliceDie g) (44 + sliceTile d g) then homeDeliver g m d
    else
      let d1 := domReach (sliceDie g) (44 + sliceTile d g) d
      ({ d1 with net := d1.net ++ [m] }, [])
  | .keeper p q => keeperDeliver p q m d
  | .port _ => portDeliver m d
  | .hsp _ => extDeliver m d
  | .crown _ => extDeliver m d

/-- Deliver messages and those they cause, in the order sent; messages still undelivered when `fuel` runs out stay on their
way. -/
def settle : Nat → List Msg → Dev → Dev
  | 0, ms, d => { d with net := d.net ++ ms }
  | _ + 1, [], d => d
  | f + 1, m :: r, d =>
    let o := deliver m d
    settle f (r ++ o.2) o.1

/-- Deliver what an operation sent, and what follows from it. -/
def run (o : Out) : Dev := settle 4096 o.2 o.1

/-- A unit that is no core asks with a fresh tag and its request is followed to its end; the reply if it has come. -/
def extRun (m : Msg) (d : Dev) : Dev × Option Msg :=
  let t := 1024 + d.freeCtr
  let m' := { m with txn := t }
  let d1 := run (extAsk m' { d with freeCtr := d.freeCtr + 1 })
  let hit (x : Miss) : Bool := x.req.src == m'.src && x.req.txn == t
  match d1.ext.find? hit with
  | some ⟨_, _, _, some r⟩ => ({ d1 with ext := d1.ext.filter (fun x => !hit x) }, some r)
  | _ => (d1, none)

/-- The message of a command reaches its receiver: it leaves the messages on their way, and those it causes join them. -/
def msgStep (m : Msg) (d : Dev) : Dev :=
  let o := deliver m { d with net := d.net.erase m }
  { o.1 with net := o.1.net ++ o.2 }

end Sys2Proof.Machine
end

