-- ==== Sys2Proof/Machine/CoreRegs.lean ====
section
/-! DEFINITION. The registers of a core: general, floating-point, vector and mask registers, system registers with their
per-level copies, processor state, and the world and partition of a core's accesses (R54, R55, R86, R95, R311). -/

namespace Sys2Proof.Machine

def coreSt (d : Dev) (c : Nat) : CoreSt := KMap.look CoreSt.init d.cores c
def updCore (c : Nat) (f : CoreSt → CoreSt) (d : Dev) : Dev := { d with cores := KMap.modify CoreSt.init d.cores c f }
def arch (d : Dev) (c : Nat) : Arch := (coreSt d c).arch
/-- Replace the architectural registers of a core. -/
def updArch (c : Nat) (f : Arch → Arch) (d : Dev) : Dev := updCore c (fun x => { x with arch := f x.arch }) d

/-! ### General, floating-point, vector and mask registers -/

/-- A general register; g0 reads as zero (R54). A register that nothing has written reads as zero (log entry 5). -/
def gReg (d : Dev) (c r : Nat) : Word := if r = 0 then 0 else KMap.look 0 (arch d c).g r

/-- Write a general register; a write to g0 is discarded (R54). -/
def setG (c r : Nat) (v : Word) (d : Dev) : Dev :=
  if r = 0 then d else updArch c (fun a => { a with g := KMap.put 0 a.g r v }) d

def fReg (d : Dev) (c r : Nat) : Word := KMap.look 0 (arch d c).f r
def setFR (c r : Nat) (v : Word) (d : Dev) : Dev := updArch c (fun a => { a with f := KMap.put 0 a.f r v }) d
def vReg (d : Dev) (c r : Nat) : VecData := KMap.look 0 (arch d c).v r
def setV (c r : Nat) (v : VecData) (d : Dev) : Dev := updArch c (fun a => { a with v := KMap.put 0 a.v r v }) d
def kReg (d : Dev) (c r : Nat) : VecData := KMap.look 0 (arch d c).k r
def setK (c r : Nat) (v : VecData) (d : Dev) : Dev := updArch c (fun a => { a with k := KMap.put 0 a.k r v }) d

def pcOf (d : Dev) (c : Nat) : Word := (arch d c).pc
def setPc (c : Nat) (v : Word) (d : Dev) : Dev := updArch c (fun a => { a with pc := v }) d

/-! ### System registers -/

/-- Numbers of the system registers (R86, R95, R161, R176, R226). -/
def Sr.FCSR : Nat := 0x000
def Sr.VCFG : Nat := 0x010
def Sr.VL : Nat := 0x011
def Sr.VSTART : Nat := 0x012
def Sr.VBYTES : Nat := 0x013
def Sr.PSTATE : Nat := 0x400
def Sr.EPC : Nat := 0x401
def Sr.ECAUSE : Nat := 0x402
def Sr.EADDR : Nat := 0x403
def Sr.EPSTATE : Nat := 0x404
def Sr.EVEC : Nat := 0x405
def Sr.SCRATCH : Nat := 0x406
def Sr.CORENUM : Nat := 0x407
def Sr.TTB0 : Nat := 0x410
def Sr.TTB1 : Nat := 0x411
def Sr.PMCTL : Nat := 0x428
def Sr.PMSEL0 : Nat := 0x430
def Sr.PMC0 : Nat := 0x438
def Sr.LLOCK : Nat := 0x448
def Sr.LUNLOCK : Nat := 0x449
def Sr.LLSTAT : Nat := 0x44A
def Sr.QIMG : Nat := 0x450
def Sr.QCMD : Nat := 0x451
def Sr.QCMDSTAT : Nat := 0x452
def Sr.PARTID : Nat := 0x800
def Sr.EIPA : Nat := 0x801
def Sr.HTTB : Nat := 0x810
def Sr.S2TTB : Nat := 0x811
def Sr.BPCTL : Nat := 0x820
def Sr.PFCTL : Nat := 0x821
def Sr.MTTB : Nat := 0xC10

/-- Number of the PL`l` copy of a per-level register (R86). -/
def Sr.copy (l n : Nat) : Nat := n - 0x401 + 0x841 + (l - 1) * 0x400

/-- What a system register holds after reset (R55, R95, R161, R176, R226); where the map gives a dash, zero (log entry 5). -/
def srReset (n : Nat) : Word :=
  if n = Sr.PSTATE then 3 else
  if n = Sr.VCFG then 0x8000000000000000#64 else
  if n = Sr.BPCTL then 0x105#64 else
  if n = Sr.PFCTL then 0x2083#64 else
  if n = Sr.LLSTAT then 0xF else
  if n = Sr.QCMDSTAT then 0xF else 0

/-- The stored value of a system register by the number of its copy. -/
def sr (d : Dev) (c n : Nat) : Word := KMap.look (srReset n) (arch d c).sr n
def setSr (c n : Nat) (v : Word) (d : Dev) : Dev := updArch c (fun a => { a with sr := KMap.put (srReset n) a.sr n v }) d

/-- Fields of PSTATE (R55). -/
def Ps.PL : Fld := ⟨1, 0⟩
def Ps.NS : Fld := ⟨2, 2⟩
def Ps.IEN : Fld := ⟨3, 3⟩
def Ps.IES : Fld := ⟨4, 4⟩
def Ps.VEN : Fld := ⟨5, 5⟩
def Ps.SS : Fld := ⟨6, 6⟩

def pstate (d : Dev) (c : Nat) : Word := sr d c Sr.PSTATE
/-- The privilege level of a core (R55). -/
def plOf (d : Dev) (c : Nat) : Nat := getF Ps.PL (pstate d c)
/-- Whether a core runs in the normal world (R55). -/
def nsOf (d : Dev) (c : Nat) : Bool := getB Ps.NS (pstate d c)

/-- SYS.PARTID of a core. -/
def partId (d : Dev) (c : Nat) : BitVec 6 := BitVec.ofNat 6 (sr d c Sr.PARTID).toNat

/-- The partition of a core's accesses at a level (R311). -/
def accPart (d : Dev) (c : Nat) : BitVec 6 :=
  match plOf d c with
  | 3 => 0
  | 2 => BitVec.ofNat 6 (fld d (coreDie c) Reg.HYP_PART (if nsOf d c then Fl.HYP_PART_NS_HYP else Fl.HYP_PART_S_HYP))
  | _ => partId d c

/-- Whether a partition is sealed (R334). -/
def isSealed (d : Dev) (p : Nat) : Bool := fld d 0 (Reg.PART p) Fl.PART_STATE == 3

/-- Whether the predictor of a core runs in FLUSH mode (R138, R139). -/
def flushMode (d : Dev) (c : Nat) : Bool := isSealed d (partId d c).toNat || bitsOf (sr d c Sr.BPCTL) 1 0 != 0

/-- Whether observation of a world is enabled by a debug enable (R331): the observe or the control enable. -/
def dbgObserve (d : Dev) (secure : Bool) : Bool :=
  if secure then flg d 0 Reg.DBG_STATUS Fl.DBG_STATUS_SW_OBSERVE || flg d 0 Reg.DBG_STATUS Fl.DBG_STATUS_SW_CONTROL
  else flg d 0 Reg.DBG_STATUS Fl.DBG_STATUS_NW_OBSERVE || flg d 0 Reg.DBG_STATUS Fl.DBG_STATUS_NW_CONTROL

/-- Whether control of a world is enabled (R331). -/
def dbgControl (d : Dev) (secure : Bool) : Bool :=
  if secure then flg d 0 Reg.DBG_STATUS Fl.DBG_STATUS_SW_CONTROL else flg d 0 Reg.DBG_STATUS Fl.DBG_STATUS_NW_CONTROL

/-- Flush the predictor tables (R138). -/
def flushPred (c : Nat) (d : Dev) : Dev := updCore c (fun x => { x with pred := Pred.flushed }) d

/-- Whether the core is the leader of a bound pair (R155). -/
def isLeader (d : Dev) (c : Nat) : Bool :=
  fld d (coreDie c) (Reg.PAIR_STATUS (coreTile d c)) Fl.PAIR_STATUS_STATE == 2

/-- Remove every entry that satisfies `p` from the TLB of every core. -/
def tlbPurge (p : TlbEnt → Bool) (d : Dev) : Dev :=
  { d with cores := d.cores.map (fun e => (e.1, { e.2 with tlb := e.2.tlb.filter (fun t => !p t) })) }

/-- The value of VCFG when it is invalid. -/
def vcfgIll : Word := 0x8000000000000000#64

/-! ### Performance counters (R158, R159) -/

/-- Events whose count depends on timing or on speculation: this model has neither, so their counts are free values. -/
def pmcFree (e : Nat) : Bool :=
  e == 0 || (decide (0x0F ≤ e) && decide (e ≤ 0x13)) || (decide (0x100 ≤ e) && decide (e ≤ 0x109))

/-- Whether the counters of a core count now (R158): its level selected, and in the secure world observation enabled. -/
def pmcOn (d : Dev) (c : Nat) : Bool :=
  let w := sr d c Sr.PMCTL
  w.getLsbD (16 + plOf d c) && (nsOf d c || dbgObserve d true) && !(bitOf w 20 && bitsOf w 15 8 != 0)

/-- Add to counter `n`: a pass to 0 sets its OVF bit and raises the tile's counter-overflow event (R158). -/
def pmcAdd (c n k : Nat) (d : Dev) : Dev :=
  let v := (sr d c (Sr.PMC0 + n)).toNat + k
  let d1 := setSr c (Sr.PMC0 + n) (BitVec.ofNat 64 v) d
  if v < 2 ^ 64 then d1
  else raiseSlot (coreDie c) (coreLog c) 3 (setSr c Sr.PMCTL (sr d c Sr.PMCTL ||| BitVec.ofNat 64 (2 ^ (8 + n))) d1)

/-- Count the events of an instruction, given as (event, how often) (R158). -/
def pmcCount (c : Nat) (evs : List (Nat × Nat)) (d : Dev) : Dev :=
  if !pmcOn d c then d
  else forAll (List.range 8) (fun n d =>
    if !(sr d c Sr.PMCTL).getLsbD n then d
    else
      let e := bitsOf (sr d c (Sr.PMSEL0 + n)) 8 0
      if pmcFree e then pmcAdd c n (Config.freeNat (draw d)) (drawn d)
      else match evs.find? (fun x => x.1 == e) with
        | some x => if x.2 = 0 then d else pmcAdd c n x.2 d
        | none => d) d

/-! ### Pace tokens (R37 to R40) -/

/-- The effective rate (R39) from the control register and the package cap. -/
def paceEffective (ctl : Word) (cap : Nat) : Nat × Bool :=
  let caps := (if getB Fl.PACE_CTL_EN ctl then [getF Fl.PACE_CTL_RATE ctl] else []) ++ (if cap = 0 then [] else [cap])
  match caps with
  | [] => (0, false)
  | c0 :: r =>
    let m := r.foldl min c0
    let e := max 64 (max m (getF Fl.PACE_CTL_FLOOR ctl))
    (e, decide (m < e))

/-- Burst depth in hundredths of a token (R38). -/
def paceDepth (ctl : Word) : Int := 100 * (max 1 (getF Fl.PACE_CTL_BURST ctl) : Nat)

/-- Whether a core may dispatch: uncapped, or a whole token in the bucket (R37). -/
def paceOk (d : Dev) (c : Nat) : Bool :=
  fld d (coreDie c) (Reg.PACE_STATUS (coreTile d c)) Fl.PACE_STATUS_EFFECTIVE == 0 || decide (100 ≤ (coreSt d c).tokens)

/-- Consume tokens (R37). An operation of several tokens dispatches with one token in the bucket and leaves the rest as a
debt, so that the long-run rate is exact (log entry 11). -/
def paceTake (c n : Nat) (d : Dev) : Dev :=
  if fld d (coreDie c) (Reg.PACE_STATUS (coreTile d c)) Fl.PACE_STATUS_EFFECTIVE = 0 then d
  else updCore c (fun x => { x with tokens := x.tokens - 100 * (n : Int) }) d

/-- Dispatch has waited for a token (R38). -/
def paceStarved (c : Nat) (d : Dev) : Dev :=
  setFlg (coreDie c) (Reg.PACE_STATUS (coreTile d c)) Fl.PACE_STATUS_STARVED true d

end Sys2Proof.Machine
end

