-- ==== Sys2Proof/Machine/Act.lean ====
section
/-! DEFINITION. Synchronous exceptions, and `Act`: an operation of an instruction that ends with a result, an exception, or by
waiting (R85, R87). -/

namespace Sys2Proof.Machine

/-- A synchronous exception (R87): cause code, SYS.EADDR, further bits of SYS.ECAUSE, the intermediate physical address of a
stage-2 fault, and whether a load's destination is set to zero (R11, R26, R329). -/
structure Exn where
  code : Nat
  addr : Word
  bits : Nat
  eipa : Option Word
  zero : Bool
  deriving DecidableEq, Repr

/-- An exception with nothing but its code and address. -/
def Exn.of (code : Nat) (addr : Word) : Exn := ⟨code, addr, 0, none, false⟩

/-- How an operation of an instruction ends. -/
inductive Res (α : Type) where
  | ok (a : α)
  | exn (e : Exn)
  | wait
  deriving DecidableEq, Repr

/-- An operation of an instruction. -/
def Act (α : Type) : Type := Dev → Dev × Res α

/-- Answer a value. -/
def Act.ret {α : Type} (a : α) : Act α := fun d => (d, .ok a)
/-- One operation, then another on its value. -/
def Act.bnd {α β : Type} (x : Act α) (f : α → Act β) : Act β := fun d =>
  match x d with
  | (d1, .ok a) => f a d1
  | (d1, .exn e) => (d1, .exn e)
  | (d1, .wait) => (d1, .wait)
/-- A value of the device. -/
def Act.get {α : Type} (f : Dev → α) : Act α := fun d => (d, .ok (f d))
/-- An operation chosen by the device it starts at. -/
def Act.of {α : Type} (f : Dev → Act α) : Act α := fun d => f d d
/-- A change of the device. -/
def Act.upd (f : Dev → Dev) : Act Unit := fun d => (f d, .ok ())
/-- An exception. -/
def Act.raise {α : Type} (e : Exn) : Act α := fun d => (d, .exn e)
/-- Wait: the instruction does not complete yet. -/
def Act.hold {α : Type} : Act α := fun d => (d, .wait)
/-- An exception unless a condition holds. -/
def Act.need (b : Bool) (e : Exn) : Act Unit := if b then Act.ret () else Act.raise e
/-- The exception that an optional check gives. -/
def Act.check (o : Option Exn) : Act Unit := match o with | some e => Act.raise e | none => Act.ret ()
/-- An operation for each element of a list. -/
def Act.each {α : Type} (f : α → Act Unit) : List α → Act Unit
  | [] => Act.ret ()
  | a :: r => (f a).bnd fun _ => Act.each f r
/-- The values of an operation for each element of a list. -/
def Act.map {α β : Type} (f : α → Act β) : List α → Act (List β)
  | [] => Act.ret []
  | a :: r => (f a).bnd fun b => (Act.map f r).bnd fun l => Act.ret (b :: l)

end Sys2Proof.Machine
end

