-- ==== Sys2Proof/Machine/Entry.lean ====
section
/-! DEFINITION. Taking an exception and returning from one (R87, R88, R81), taking an event (R315, R354), the world entry
record, the service timer and the forced exit (R316 to R320). -/

namespace Sys2Proof.Machine

/-! ### Exception entry -/

/-- The level that a cause is taken to by default (R87). -/
def defaultLevel (code : Nat) : Nat :=
  if code = 0x0E ∨ code = 0x0F ∨ code = 0x15 then 2 else if code = 0x16 then 3 else 1

/-- Whether a system register belongs to the world entry record (R316): minimum level PL0 to PL2, the vector state excepted;
the copies of PL1 and PL2 of the per-level registers are among them. -/
def inWorldRec (n : Nat) : Bool :=
  (decide (n < 0xC00) && !(decide (0x10 ≤ n) && decide (n ≤ 0x13))) || (decide (0xC41 ≤ n) && decide (n ≤ 0xC46))

/-- Flush the predictor when the level or the world has changed in FLUSH mode (R138). -/
def flushOnChange (c pl : Nat) (ns : Bool) (d : Dev) : Dev :=
  if flushMode d c && (plOf d c != pl || nsOf d c != ns) then pmcCount c [(6, 1)] (flushPred c d) else d

/-- The service timer is armed and the service recorded (R316, R317): `svc` the IMM12 of a MONCALL, none for an event. -/
def armService (c : Nat) (svc : Option Nat) (d : Dev) : Dev :=
  let D := coreDie c
  let off := Reg.SVC_STATUS (coreLog c)
  let a := arch d c
  let r : WorldRec := ⟨a.g, a.f, a.sr.filter (fun e => inWorldRec e.1), sr d c (Sr.copy 3 Sr.EPC), sr d c (Sr.copy 3 Sr.EPSTATE)⟩
  let d1 := updCore c (fun x => { x with world := some r, armedAt := some (nowOf d D), expiredAt := none }) d
  setFlg D off Fl.SVC_STATUS_ARMED true (setFlg D off Fl.SVC_STATUS_EXPIRED false
    (setFld D off Fl.SVC_STATUS_SVC (svc.getD 0) (setFlg D off Fl.SVC_STATUS_BY_EVENT svc.isNone d1)))

/-- The service timer is disarmed (R317). -/
def disarmService (c : Nat) (d : Dev) : Dev :=
  let D := coreDie c
  let off := Reg.SVC_STATUS (coreLog c)
  setFlg D off Fl.SVC_STATUS_ARMED false (setFlg D off Fl.SVC_STATUS_EXPIRED false
    (updCore c (fun x => { x with armedAt := none, expiredAt := none }) d))

/-- PSTATE after an entry to level `t` (R88). -/
def entryPstate (ps : Word) (t : Nat) : Word :=
  let p1 := if t = 3 then setB Ps.NS false ps else ps
  let p2 := setB Ps.IEN false (setF Ps.PL t p1)
  setB Ps.SS false (if getB Ps.NS p2 then p2 else setB Ps.IES false p2)

/-- Exception entry (R88): `cause` without FROM_PL and FROM_NS; `svc` as for `armService`. -/
def enter (c t : Nat) (cause addr : Word) (retpc : Word) (svc : Option Nat) (d : Dev) : Dev :=
  let ps := pstate d c
  let cz := cause ||| BitVec.ofNat 64 (getF Ps.PL ps * 2 ^ 8 + getF Ps.NS ps * 2 ^ 10)
  let vec := (sr d c (Sr.copy t Sr.EVEC)) &&& 0xFFFFFFFFFFFFF000#64
  let d1 := setSr c (Sr.copy t Sr.EADDR) addr (setSr c (Sr.copy t Sr.ECAUSE) cz
    (setSr c (Sr.copy t Sr.EPSTATE) ps (setSr c (Sr.copy t Sr.EPC) retpc d)))
  let d2 := setPc c (if cause.msb then vec + 0x200 else vec) (setSr c Sr.PSTATE (entryPstate ps t) d1)
  let d3 := if t = 3 ∧ getB Ps.NS ps = true then armService c svc d2 else d2
  flushOnChange c (getF Ps.PL ps) (getB Ps.NS ps) d3

/-- Take a synchronous exception at the current instruction (R87): EPC names the instruction, or the next one for codes 0x14
to 0x18. -/
def takeExn (c : Nat) (e : Exn) (d : Dev) : Dev :=
  let t := max (defaultLevel e.code) (plOf d c)
  let pc := pcOf d c
  let ret := if 0x14 ≤ e.code ∧ e.code ≤ 0x17 then pc + 4 else pc
  let d1 := match e.eipa with | some i => setSr c Sr.EIPA i d | none => d
  enter c t (BitVec.ofNat 64 (e.code + e.bits)) e.addr ret (some (e.bits / 2 ^ 32)) d1

/-- The return from an exception (R81) to a saved PC and PSTATE. The normal world does not reach the secure world by it (R55).
A return to the normal world disarms the service timer (R317). -/
def eret (c : Nat) (d : Dev) : Dev :=
  let pl := plOf d c
  let ns := nsOf d c
  let es := (sr d c (Sr.copy pl Sr.EPSTATE)) &&& 0x7F#64
  let e1 := if ns then setB Ps.NS true es else es
  let e2 := if getB Ps.NS e1 then setB Ps.IES true e1 else e1
  let d1 := setPc c ((sr d c (Sr.copy pl Sr.EPC)) &&& 0xFFFFFFFFFFFFFFFC#64) (setSr c Sr.PSTATE e2 d)
  let d2 := if getB Ps.NS e2 && !ns then disarmService c d1 else d1
  flushOnChange c pl ns d2

/-- Whether ERET is refused (R81): EPSTATE names a higher level, or PL3 with NS = 1. -/
def eretIllegal (d : Dev) (c : Nat) : Bool :=
  let es := sr d c (Sr.copy (plOf d c) Sr.EPSTATE)
  decide (plOf d c < getF Ps.PL es) || (getF Ps.PL es == 3 && (getB Ps.NS es || nsOf d c))

/-! ### Events -/

/-- Whether R315 and R354 let a core take an event at this boundary. -/
def evAllowed (d : Dev) (c : Nat) (e : Cand) : Bool :=
  let ps := pstate d c
  let ns := getB Ps.NS ps
  if isExpiry c e then !ns
  else decide (e.prio < rprio (cifSt d c e.ns)) && (if e.ns then ns && getB Ps.IEN ps else ns || getB Ps.IES ps)

/-- Whether an operation that has left the core and cannot be withdrawn is still unanswered. -/
def committedOp (d : Dev) (c : Nat) : Bool :=
  (cacheSt d c).miss.any (fun x => !(x.req.op == .rdShared || x.req.op == .rdUnique || x.req.op == .upgrade || x.req.op == .gather))

/-- The event that a core takes at this boundary (R354); a vector store that has begun is not left part-way (R117), nor a load from a port window (R397). -/
def eligibleEv (d : Dev) (c : Nat) : Option Cand :=
  if committedOp d c || (coreSt d c).vprog.isSome || !(coreSt d c).win.isEmpty then none else firstCand ((allCands d c).filter (evAllowed d c))

/-- Take an event (R354, R88): to the higher of its level and the current one. SYS.EADDR has no stated value for an event. -/
def takeEvent (c : Nat) (e : Cand) (d : Dev) : Dev :=
  let num := if e.virt then 0xFFF else e.ident
  enter c (max e.lvl (plOf d c)) (BitVec.ofNat 64 (2 ^ 63 + num * 2 ^ 48)) (Config.freeWord (draw d)) (pcOf d c) none
    (updCore c (fun x => { x with wfe := none, qwait := none }) (drawn d))

/-- Whether any event is pending for a core, enabled or not (R82). -/
def anyPending (d : Dev) (c : Nat) : Bool :=
  d.regs.any (fun e =>
    let off := e.1 % 0x100000000
    decide (Reg.EVC_ROUTE 0 ≤ off) && decide (off < Reg.EVC_ROUTE 511) && decide (e.1 / 0x100000000 / 8 = corePkg c)
      && getB Fl.EVC_ROUTE_PENDING e.2 && decide (routeCore (e.1 / 0x100000000) e.2 = c))
  || !(cifSt d c false).vpend.isEmpty || !(cifSt d c true).vpend.isEmpty

/-- Whether a core's WFE has come to its end (R82). -/
def wfeOver (d : Dev) (c : Nat) : Bool :=
  match (coreSt d c).wfe with
  | none => true
  | some t => decide (t ≤ nowOf d (coreDie c)) || anyPending d c


/-- Whether a core runs instructions: running, not halted, not a checker (R154, R377). -/
def coreRuns (d : Dev) (c : Nat) : Bool :=
  d.cfg.present (coreDie c) && (coreSt d c).run && !(coreSt d c).halted
    && fld d (coreDie c) (Reg.PAIR_STATUS (coreTile d c)) Fl.PAIR_STATUS_STATE != 3

/-- At an instruction boundary a running core takes the first eligible event (R354). -/
def takeEventStep (c : Nat) (d : Dev) : Dev :=
  if !coreRuns d c || !wfeOver d c then d
  else match eligibleEv d c with
    | some e => takeEvent c e d
    | none => d

/-! ### The forced exit (R319) -/

/-- The value of a service that does not return (R318). -/
def svcUnavailable : Word := 0xFFFFFFFFFFFFFFFE#64

/-- Enter a service number in the down list of every die (R319, R320): 16 entries, unchanged when all are in use. -/
def svcDown (svc : Nat) (d : Dev) : Dev :=
  let ent (n : Nat) : Word := rg d 0 (Reg.SVC_DOWN n)
  if (List.range 16).any (fun n => getB Fl.SVC_DOWN_VALID (ent n) && getF Fl.SVC_DOWN_SVC (ent n) == svc) then d
  else match (List.range 16).find? (fun n => !getB Fl.SVC_DOWN_VALID (ent n)) with
    | some n => forAll ((List.range 4).filter (fun p => 0 < d.cfg.ndie p)) (fun p => raisePkg p 499)
        (wr 0 (Reg.SVC_DOWN n) (setB Fl.SVC_DOWN_VALID true (setF Fl.SVC_DOWN_SVC svc 0)) d)
    | none => d

/-- Whether a service is in the down list of a die (R320). -/
def svcIsDown (d : Dev) (D svc : Nat) : Bool :=
  (List.range 16).any (fun n => flg d D (Reg.SVC_DOWN n) Fl.SVC_DOWN_VALID && fld d D (Reg.SVC_DOWN n) Fl.SVC_DOWN_SVC == svc)

/-- Restore the registers of a world entry record (R319, step 3). -/
def restoreWorld (r : WorldRec) (a : Arch) : Arch :=
  let keep := a.sr.filter (fun e => !inWorldRec e.1)
  { a with g := r.g, f := r.f, pc := r.epc, v := [], k := [],
           sr := r.sr.foldl (fun m e => KMap.put (srReset e.1) m e.1 e.2) keep }

end Sys2Proof.Machine
end

