-- ==== Sys2Proof/Machine/Queue.lean ====
section
/-! DEFINITION. Strap queues as their engines hold them: identity, slots, the ring, acceptance, framing, packing, popping and
status (R223 to R243, but for the instructions, which are in QueueIsa.lean). -/

namespace Sys2Proof.Machine

/-! ### Identity (R223) -/

/-- The die that a queue ID names, as p × 8 + d. -/
def qDie (q : Nat) : Nat := q / 2 ^ 13 % 32
def queueAt (d : Dev) (q : Nat) : Option QueueSt := KMap.look none d.queues q
def updQueue (q : Nat) (f : QueueSt → QueueSt) (d : Dev) : Dev :=
  { d with queues := KMap.modify none d.queues q (fun o => o.map f) }
/-- Whether a queue ID names a present die whose table is in use (R224). -/
def qTabOn (d : Dev) (q : Nat) : Bool := d.cfg.present (qDie q) && flg d (qDie q) Reg.QTAB Fl.QTAB_EN
/-- The core of a queue's head engine. -/
def headCore (q : Nat) (s : QueueSt) : Nat := qDie q * 40 + s.cons
def qEng (d : Dev) (e : Nat) : QEngSt := KMap.look QEngSt.init d.qengs e
def updQEng (e : Nat) (f : QEngSt → QEngSt) (d : Dev) : Dev := { d with qengs := KMap.modify QEngSt.init d.qengs e f }
/-- Add to a counter of the registers of an engine's tile. -/
def qBump (e : Nat) (off : Nat → Nat) (f : Fld) (n : Nat) (d : Dev) : Dev := bump (coreDie e) (off (coreTile d e)) f n d

/-! ### Descriptors (R224, R225) -/

/-- The physical address of a descriptor. -/
def descAddr (d : Dev) (q : Nat) : Nat := fld d (qDie q) Reg.QTAB Fl.QTAB_BASE * 2 ^ 19 + q % 8192 * 64

/-- Word 0 of a descriptor. -/
def QueueSt.word0 (s : QueueSt) (valid : Bool) : Nat :=
  b2n valid + b2n s.packed * 2 + b2n s.framed * 4 + b2n s.ns * 8 + b2n s.notify * 16 + b2n s.faulted * 32 + s.ringLg * 2 ^ 8
    + s.cons * 2 ^ 16 + s.owner.toNat * 2 ^ 24 + s.packWait * 2 ^ 32 + s.openTo * 2 ^ 48

/-- The 64 bytes of a descriptor. -/
def QueueSt.desc (s : QueueSt) (valid : Bool) : LineData :=
  BitVec.ofNat 512 (s.word0 valid + s.ringBase * 2 ^ 64 + s.pushMask.toNat * 2 ^ 128 + s.popMask.toNat * 2 ^ 192
    + s.tail % 2 ^ 64 * 2 ^ 256 + s.head % 2 ^ 64 * 2 ^ 320 + (min s.discarded (2 ^ 32 - 1)) * 2 ^ 384
    + (min s.forced (2 ^ 32 - 1)) * 2 ^ 416)

/-- The mesh controller writes a descriptor to the table, with its own rights. -/
def writeDesc (q : Nat) (s : QueueSt) (valid : Bool) (d : Dev) : Dev := dramWrite (descAddr d q) (s.desc valid) false Who.platform d

/-! ### The ring (R230, R240) -/

/-- Address of the ring place of an entry number. -/
def ringPlace (s : QueueSt) (n : Nat) : Nat := s.ringBase + n % 2 ^ s.ringLg * 64
/-- The requester of a queue's ring accesses: OWNER and NS. -/
def ringWho (s : QueueSt) : Who := ⟨s.owner, s.ns⟩

/-- Whether the queue-spill check admits a ring access (R323, R325); the ring lies in the DRAM window, whose own check it passes at
the memory port. -/
def spillAdmits (d : Dev) (q : Nat) (s : QueueSt) (need : Need) (pa : Nat) : Bool :=
  fwAdmits d (qDie q) 44 (ringWho s) need pa && dramAdmits d (ringWho s) need pa

/-- A refused ring access faults the queue (R240, R326): FAULTED, a record, firewall 44, and event k = 6 of the head engine. -/
def ringRefused (q : Nat) (s : QueueSt) (write : Bool) (pa : Nat) (d : Dev) : Dev :=
  let D := qDie q
  let ev := 8 * s.cons + 6
  let first := !flg d D (Reg.FW_STATUS 44) Fl.FW_STATUS_EVT
  let d1 := fwRefuse D 44 (ringWho s) write .queue pa ev d
  let d2 := if first then d1 else raise D ev d1
  let d3 := record D { ErrRec.mk' 2 0x03 s.cons 0x18 with who := some (ringWho s), addr := some q, akind := 2 } d2
  updQueue q (fun x => { x with faulted := true }) (qBump (headCore q s) Reg.QENG_ERR Fl.QENG_ERR_SPILL_REFUSED 1 d3)

/-- Count one entry written to a ring; SPILLS counts in units of 1,024 (R243). -/
def countSpill (e : Nat) (d : Dev) : Dev :=
  let d1 := updQEng e (fun x => { x with spills := x.spills + 1 }) d
  if (qEng d1 e).spills % 1024 = 0 then qBump e Reg.QENG_STAT Fl.QENG_STAT_SPILLS 1 d1 else d1

/-- Count one entry read from a ring. -/
def countRefill (e : Nat) (d : Dev) : Dev :=
  let d1 := updQEng e (fun x => { x with refills := x.refills + 1 }) d
  if (qEng d1 e).refills % 1024 = 0 then qBump e Reg.QENG_STAT Fl.QENG_STAT_REFILLS 1 d1 else d1

/-! ### Slots (R229) -/

/-- The entries that wait in the tail window of a stop. -/
def tailOf (s : QueueSt) (stop : Nat) : List (QProd × QItem) := ((s.tails.find? (fun e => e.1 == stop)).map (·.2)).getD []

/-- Replace the tail window of a stop. -/
def setTail (stop : Nat) (l : List (QProd × QItem)) (s : QueueSt) : QueueSt :=
  { s with tails := (s.tails.filter (fun e => e.1 != stop)) ++ (if l.isEmpty then [] else [(stop, l)]) }

/-- Whether the slot of a queue at an engine can be released: a tail slot with nothing waiting; a head slot whose window entries
can be written to the ring, with no partial entry in the packer. The slot of the instruction that waits is kept. -/
def slotFree (d : Dev) (e q : Nat) : Bool :=
  match queueAt d q with
  | none => true
  | some s =>
    (match (coreSt d e).qwait with | some w => w.q != q | none => true) && (tailOf s e).isEmpty
      && (headCore q s != e || (s.pack.isNone && (List.range s.win.length).all (fun i =>
            spillAdmits d q s .w (ringPlace s (s.head + i)))))

/-- Write the window entries of a queue to their ring places (R229, R230). -/
def spillWin (q : Nat) (s : QueueSt) (d : Dev) : Dev :=
  let wrOne (x : QEntry × Nat) (d : Dev) : Dev :=
    countSpill (headCore q s) (dramWrite (ringPlace s (s.head + x.2)) x.1.data x.1.poison (ringWho s) d)
  updQueue q (fun x => { x with win := [], ring := x.win ++ x.ring }) (forAll s.win.zipIdx wrOne d)

/-- An engine releases the slot of a queue (R225, R229): a head slot writes its window to the ring and its counts to the
descriptor. -/
def slotRelease (e q : Nat) (d : Dev) : Dev :=
  let d1 := updQEng e (fun x => { x with slots := x.slots.filter (· != q) }) d
  match queueAt d1 q with
  | some s =>
    if headCore q s = e then
      let d2 := spillWin q s d1
      match queueAt d2 q with | some s2 => writeDesc q s2 true d2 | none => d2
    else d1
  | none => d1

/-- Give a queue a slot at an engine, releasing the least recently used one that can drain if all 32 are in use; `none` when none
can. -/
def slotTake (e q : Nat) (d : Dev) : Option Dev :=
  let l := (qEng d e).slots
  let front (d : Dev) : Dev := updQEng e (fun x => { x with slots := q :: x.slots.filter (· != q) }) d
  if l.contains q ∨ l.length < 32 then some (front d)
  else match l.reverse.find? (slotFree d e) with
    | some v => some (front (qBump e Reg.QENG_STAT Fl.QENG_STAT_EVICTS 1 (slotRelease e v d)))
    | none => none

/-- Whether the domain of a core's queue engine is on; a message that reaches it otherwise wakes it and waits (R371). -/
def engOn (d : Dev) (e : Nat) : Bool := domOn d (coreDie e) (coreTile d e)

/-! ### Accepting entries (R231 to R236) -/

def QueueSt.count (s : QueueSt) : Nat := s.tail - s.head
def QueueSt.full (s : QueueSt) : Bool := decide (2 ^ s.ringLg ≤ s.count)

/-- Raise the consumer tile's queue event if NOTIFY_EN is set (R241). -/
def qNotify (q : Nat) (s : QueueSt) (d : Dev) : Dev := if s.notify then raiseSlot (qDie q) s.cons 0 d else d

/-- The head engine puts an entry at its place (R230): in the head window while it has room and nothing lies in the ring, else at
its ring place. `quiet` suppresses the event that was raised when the packer began the entry. -/
def putEntry (q : Nat) (en : QEntry) (quiet : Bool) (d : Dev) : Dev :=
  match queueAt d q with
  | none => d
  | some s =>
    let d0 := if s.count = 0 ∧ quiet = false then qNotify q s d else d
    if s.win.length < 8 ∧ s.ring = [] then updQueue q (fun x => { x with win := x.win ++ [en], tail := x.tail + 1 }) d0
    else
      let pa := ringPlace s s.tail
      if spillAdmits d0 q s .w pa then
        updQueue q (fun x => { x with ring := x.ring ++ [en], tail := x.tail + 1 })
          (countSpill (headCore q s) (dramWrite pa en.data en.poison (ringWho s) d0))
      else ringRefused q s true pa d

/-- Whether the next entry could be put at its place: room in the queue (R231). -/
def canPut (d : Dev) (q : Nat) : Bool := match queueAt d q with | some s => !s.full && !s.faulted | none => false

/-- The line that words spell, padded with zeros (R236). -/
def wordsLine (w : List Word) : LineData := BitVec.ofNat 512 (w.foldr (fun x a => x.toNat + a * 2 ^ 64) 0)

/-- The packer releases its partial entry (R236); it becomes an accepted entry, and payload of its packet. -/
def packRelease (q : Nat) (d : Dev) : Dev :=
  match queueAt d q with
  | none => d
  | some s =>
    match s.pack with
    | none => d
    | some p =>
      if !canPut d q then d
      else
        let n := s.tail
        let pay := p.words.length - b2n p.header
        let up (o : QOpen) : QOpen := { o with hdr := if p.header then some n else o.hdr, len := o.len + 8 * pay }
        let d1 := updQueue q (fun x => { x with pack := none, opened := x.opened.map up }) d
        putEntry q ⟨wordsLine p.words, false, 8 * p.words.length, p.header, false, false⟩ p.notified d1

/-- The length slot of a packet (R233). -/
def lengthSlot (o : QOpen) (timeout overflow : Bool) : Word :=
  BitVec.ofNat 64 (o.len % 2 ^ 32 + b2n overflow * 2 ^ 32 + b2n timeout * 2 ^ 33 + o.by'.part % 64 * 2 ^ 40
    + o.by'.src % 2048 * 2 ^ 48 + b2n o.by'.port * 2 ^ 59)

/-- Change entry number `n` of a queue where it lies; an entry in the ring is written at its place, its data given by `g`. -/
def patchEntry (q n : Nat) (f : QEntry → QEntry) (g : Option (LineData → LineData)) (d : Dev) : Dev :=
  match queueAt d q with
  | none => d
  | some s =>
    let i := n - s.head
    if i < s.win.length then
      updQueue q (fun x => { x with win := x.win.modify i (fun e => f { e with data := (g.getD id) e.data }) }) d
    else
      let d1 := updQueue q (fun x => { x with ring := x.ring.modify (i - s.win.length) f }) d
      match g with
      | none => d1
      | some h =>
        let pa := ringPlace s n
        if spillAdmits d1 q s .rw pa then
          let v := lineValue d1 pa
          dramWrite pa (h v.1) v.2 (ringWho s) (dramRead pa (ringWho s) d1)
        else ringRefused q s true pa d1

/-- Close the open packet (R233, R234): its length goes into the slot, its last payload entry is marked, and the header says
whether entries follow it. -/
def closePacket (q : Nat) (o : QOpen) (timeout overflow : Bool) (d : Dev) : Dev :=
  match queueAt d q, o.hdr with
  | some s, some h =>
    let slot := lengthSlot o timeout overflow
    let put (l : LineData) : LineData := linePut l 0 8 slot.toNat
    let d1 := patchEntry q h (fun e => { e with more := decide (h + 1 < s.tail) }) (some put) d
    let d2 := if o.len = 0 then d1 else patchEntry q (s.tail - 1) (fun e => { e with last := true }) none d1
    updQueue q (fun x => { x with opened := none }) d2
  | _, _ => updQueue q (fun x => { x with opened := none }) d

/-- A producer learns that its packet is being discarded, unless it has already issued its QCLOSE (R234, R235). -/
def setDiscarding (q : Nat) (p : QProd) (d : Dev) : Dev :=
  updQueue q (fun x =>
    let closing := (tailOf x p.stop).any (fun i => i.1 == p && i.2 == .closeMark)
    { x with disc := p :: x.disc,
             issued := if closing then x.issued else (p, 2) :: x.issued.filter (fun e => e.1 != p) }) d

/-- The head engine closes an open packet itself (R234): a partial entry is released if there is room and else discarded. -/
def forceClose (q : Nat) (timeout : Bool) (d : Dev) : Dev :=
  let d0 := packRelease q d
  match queueAt d0 q with
  | none => d0
  | some s =>
    match s.opened with
    | none => d0
    | some o =>
      let lost := match s.pack with | some p => p.words.length | none => 0
      let d1 := updQueue q (fun x => { x with pack := none, discarded := x.discarded + lost, forced := x.forced + 1 }) d0
      let d2 := qBump (headCore q s) Reg.QENG_STAT Fl.QENG_STAT_FORCED 1 (closePacket q o timeout (!timeout) d1)
      setDiscarding q o.by' d2

/-- The queue is full and its head is the header of the open packet: the packet is closed with OVERFLOW (R234). -/
def overflowCheck (q : Nat) (d : Dev) : Dev :=
  match queueAt d q with
  | none => d
  | some s =>
    match s.opened with
    | some o => if s.full && o.hdr == some s.head then forceClose q false d else d
    | none => d

/-- Take the front item off a tail window. -/
def tailPop (q stop : Nat) (d : Dev) : Dev := updQueue q (fun x => setTail stop ((tailOf x stop).drop 1) x) d

/-- Words of one producer enter the packer (R236), up to what it can hold; the words that stay outside. -/
def packWords (q : Nat) (by' : QProd) : List Word → Dev → Dev × List Word
  | [], d => (d, [])
  | w :: r, d =>
    let full? (d : Dev) : Bool := match queueAt d q with
      | some s => (match s.pack with | some p => p.by' != by' || decide (8 ≤ p.words.length) | none => false)
      | none => false
    let d0 := if full? d then packRelease q d else d
    match queueAt d0 q with
    | none => (d0, [])
    | some s =>
      let now := nowOf d0 (qDie q)
      match s.pack with
      | some p =>
        if full? d0 then (d0, w :: r)
        else
          let d1 := updQueue q (fun x => { x with pack := some { p with words := p.words ++ [w], at' := now } }) d0
          packWords q by' r (if p.words.length + 1 = 8 then packRelease q d1 else d1)
      | none =>
        let d1 := if s.count = 0 then qNotify q s d0 else d0
        packWords q by' r (updQueue q (fun x => { x with pack := some ⟨by', [w], false, now, s.count == 0⟩ }) d1)

/-- Release the partial entry of another producer, or before an entry or marker (R236); whether the packer is empty then. -/
def packFlush (q : Nat) (d : Dev) : Dev × Bool :=
  let d1 := packRelease q d
  (d1, match queueAt d1 q with | some s => s.pack.isNone | none => false)

/-- The head engine takes the oldest item of a stop's tail window, if R231, R232 and R236 let it; whether it did. -/
def acceptItem (q stop : Nat) (d : Dev) : Dev × Bool :=
  match queueAt d q with
  | none => (d, false)
  | some s =>
    match tailOf s stop with
    | [] => (d, false)
    | (p, it) :: _ =>
      if s.disc.contains p then
        match it with
        | .full _ => (updQueue q (fun x => { x with discarded := x.discarded + 1 }) (tailPop q stop d), true)
        | .words w => (updQueue q (fun x => { x with discarded := x.discarded + w.length }) (tailPop q stop d), true)
        | .closeMark => (updQueue q (fun x => { x with disc := x.disc.filter (· != p) }) (tailPop q stop d), true)
        -- a producer that opens its next packet ends the discarding of the last one (log entry 13)
        | .openMark => (updQueue q (fun x => { x with disc := x.disc.filter (· != p) }) d, true)
      else if s.framed && (match s.opened with | some o => o.by' != p | none => false) then (d, false)
      else
        match it with
        | .words w =>
          let r := packWords q p w d
          let keep (x : QueueSt) : QueueSt :=
            setTail stop (if r.2.isEmpty then (tailOf x stop).drop 1 else (p, .words r.2) :: (tailOf x stop).drop 1) x
          let d1 := updQueue q keep r.1
          (if s.packWait = 0 then packRelease q d1 else d1, decide (r.2.length < w.length))
        | .full l =>
          let r := packFlush q d
          if !r.2 || !canPut r.1 q then (r.1, false)
          else
            let d1 := putEntry q ⟨l, false, 64, false, false, false⟩ false (tailPop q stop r.1)
            (updQueue q (fun x => { x with opened := x.opened.map (fun o => { o with len := o.len + 64 }) }) d1, true)
        | .openMark =>
          let r := packFlush q d
          let now := nowOf d (qDie q)
          if !r.2 then (r.1, false)
          else if s.packed then
            let d0 := if s.count = 0 then qNotify q s r.1 else r.1
            let pk : QPack := ⟨p, [0], true, now, s.count == 0⟩
            let d1 := updQueue q (fun x => { x with opened := some ⟨p, none, 0, now⟩, pack := some pk }) (tailPop q stop d0)
            (if s.packWait = 0 then packRelease q d1 else d1, true)
          else if !canPut r.1 q then (r.1, false)
          else
            let n := match queueAt r.1 q with | some x => x.tail | none => 0
            let d1 := updQueue q (fun x => { x with opened := some ⟨p, some n, 0, now⟩ }) (tailPop q stop r.1)
            (putEntry q ⟨0, false, 64, true, false, false⟩ false d1, true)
        | .closeMark =>
          let r := packFlush q d
          if !r.2 then (r.1, false)
          else
            let d1 := tailPop q stop r.1
            match queueAt d1 q with
            | some x => (match x.opened with | some o => closePacket q o false false d1 | none => d1, true)
            | none => (d1, true)

/-- ENTRY_ACCEPTANCE (R231): the head engine grants a stop (the order among stops is the arbiter's, R42). Entries of a faulted
queue stay where they are; a head engine whose domain sleeps is woken. -/
def acceptFrom (q stop : Nat) (d : Dev) : Dev :=
  match queueAt d q with
  | none => d
  | some s =>
    let e := headCore q s
    if s.faulted || (tailOf s stop).isEmpty then d
    else if !engOn d e then domReach (coreDie e) (coreTile d e) d
    else
      match slotTake e q d with
      | none => d
      | some d1 => overflowCheck q (acceptItem q stop d1).1

/-- RING_REFILL (R230): the entry nearest the head in the ring is read into the head window, which has room. -/
def refillOne (q : Nat) (d : Dev) : Dev :=
  match queueAt d q with
  | none => d
  | some s =>
    match s.ring with
    | [] => d
    | en :: rest =>
      if 8 ≤ s.win.length || s.faulted then d
      else
        let pa := ringPlace s (s.head + s.win.length)
        if spillAdmits d q s .r pa then
          let v := lineValue d pa
          let d1 := countRefill (headCore q s) (dramRead pa (ringWho s) d)
          updQueue q (fun x => { x with win := x.win ++ [{ en with data := v.1, poison := v.2 }], ring := rest }) d1
        else ringRefused q s false pa d

/-! ### Popping, dropping, status (R232, R235, R237, R238) -/

/-- Why a pop cannot deliver now: 0 empty, 1 the header of an open packet, 2 still in the ring; `none` when it can. -/
def popWhy (s : QueueSt) : Option Nat :=
  if s.count = 0 then some 0
  else if (match s.opened with | some o => o.hdr == some s.head | none => false) then some 1
  else if s.win = [] then some 2
  else none

/-- The pop status word of a delivered entry. -/
def popStatus (e : QEntry) : Word := BitVec.ofNat 64 (1 + b2n e.header * 16 + b2n e.last * 32 + e.valid * 256)

/-- The head entry leaves the queue; the position within the current packet follows (R235). -/
def popEntry (q : Nat) (d : Dev) : Dev × Option QEntry :=
  match queueAt d q with
  | none => (d, none)
  | some s =>
    match s.win with
    | [] => (d, none)
    | e :: r =>
      let pkt := if e.header then e.more else s.inPkt && !e.last
      (overflowCheck q (updQueue q (fun x => { x with win := r, head := x.head + 1, inPkt := pkt }) d), some e)

/-- The number of accepted entries from the head that belong to the packet QDROP acts on, given the entries from the head. -/
def dropCount : List QEntry → Nat
  | [] => 0
  | e :: r => if e.last then 1 else 1 + dropCount r

/-- QDROP (R235). -/
def dropPacket (q : Nat) (d : Dev) : Dev :=
  match queueAt d q with
  | none => d
  | some s =>
    let all := s.win ++ s.ring
    let cut (n lost : Nat) (d : Dev) : Dev := updQueue q (fun x =>
      let w := min n x.win.length
      { x with win := x.win.drop w, ring := x.ring.drop (n - w), head := x.head + n, discarded := x.discarded + n + lost,
               inPkt := false }) d
    match all with
    | [] => d
    | e :: _ =>
      if s.inPkt then overflowCheck q (cut (dropCount all) 0 d)
      else if !e.header then d
      else
        match s.opened with
        | some o =>
          if o.hdr = some s.head then
            let lost := match s.pack with | some p => p.words.length | none => 0
            setDiscarding q o.by' (cut s.count lost (updQueue q (fun x => { x with opened := none, pack := none }) d))
          else overflowCheck q (cut (if e.more then dropCount all else 1) 0 d)
        | none => overflowCheck q (cut (if e.more then dropCount all else 1) 0 d)

/-- The QSTAT word for a producer (R237). -/
def qstatWord (s : QueueSt) (p : QProd) : Word :=
  BitVec.ofNat 64 (s.count % 2 ^ 27 + s.ringLg * 2 ^ 27 + b2n s.opened.isSome * 2 ^ 32
    + b2n (match s.opened with | some o => o.by' == p | none => false) * 2 ^ 33 + b2n (s.disc.contains p) * 2 ^ 34
    + b2n s.full * 2 ^ 35 + b2n s.packed * 2 ^ 36 + b2n s.framed * 2 ^ 37)

/-! ### Pushing (R229, R232) -/

/-- Entries of a stop's tail windows: at a tile those of the queue's own slot, elsewhere those of the stop's one buffer. -/
def tailUse (d : Dev) (q stop : Nat) : Nat :=
  if stop < 2000 then (match queueAt d q with | some s => (tailOf s stop).length | none => 0)
  else d.queues.foldl (fun n e => match e.2 with | some s => n + (tailOf s stop).length | none => n) 0

/-- Put an item into a tail window; `none` when it is full. Consecutive words of one producer share an entry of up to 8. -/
def tailPush (q : Nat) (p : QProd) (it : QItem) (d : Dev) : Option Dev :=
  match queueAt d q with
  | none => none
  | some s =>
    let l := tailOf s p.stop
    let join : Option (List (QProd × QItem)) := match it, l.getLast? with
      | .words w, some (p', .words w') => if p' = p ∧ w'.length + w.length ≤ 8 then some (l.dropLast ++ [(p, .words (w' ++ w))]) else none
      | _, _ => none
    match join with
    | some l' => some (updQueue q (setTail p.stop l') d)
    | none => if tailUse d q p.stop < 8 then some (updQueue q (setTail p.stop (l ++ [(p, it)])) d) else none

/-! ### What producers and consumers may do (R233, R239) -/

/-- QFUNC values (R84). -/
def qPUSH : Nat := 0
def qPUSHW : Nat := 1
def qPOP : Nat := 2
def qPOPNB : Nat := 3
def qOPEN : Nat := 4
def qCLOSE : Nat := 5
def qDROP : Nat := 6
def qSTAT : Nat := 7

/-- What a producer has issued on a queue: 0 nothing open, 1 its packet is open, 2 it is being discarded (R239). -/
def issuedOf (s : QueueSt) (p : QProd) : Nat := ((s.issued.find? (fun e => e.1 == p)).map (·.2)).getD 0

/-- The queue fault (R239), for producer or consumer `p` in a world; `rq` is the register that names the queue. -/
def qFaults (d : Dev) (func : Nat) (rq : Word) (ns : Bool) (p : QProd) : Bool :=
  let q := bitsOf rq 17 0
  if bitsOf rq 63 18 ≠ 0 ∨ qTabOn d q = false then true
  else match queueAt d q with
    | none => true
    | some s =>
      let push := func == 0 || func == 1 || func == 4 || func == 5
      let pop := func == 2 || func == 3 || func == 6
      let st := issuedOf s p
      (ns && !s.ns) || (push && !s.pushMask.getLsbD p.part) || (pop && !s.popMask.getLsbD p.part)
        || (func == 7 && !s.pushMask.getLsbD p.part && !s.popMask.getLsbD p.part)
        || s.faulted || (func == 1 && !s.packed) || ((func == 4 || func == 5 || func == 6) && !s.framed)
        || (s.framed && (((func == 0 || func == 1 || func == 5) && st == 0) || (func == 4 && st == 1)))

/-- A producer's framing after it has issued a push instruction (R233). -/
def noteIssue (q : Nat) (p : QProd) (func : Nat) (d : Dev) : Dev :=
  if func = 4 ∨ func = 5 then
    updQueue q (fun x => { x with issued := (if func = 4 then [(p, 1)] else []) ++ x.issued.filter (fun e => e.1 != p) }) d
  else d

/-! ### Creating and destroying (R226 to R228) -/

/-- A descriptor image as the creator's fields of a queue with nothing in it. -/
def imageQueue (w : Nat) : QueueSt :=
  let b (i : Nat) : Bool := (w >>> i) % 2 == 1
  { packed := b 1, framed := b 2, ns := b 3, notify := b 4, ringLg := (w >>> 8) % 32, cons := (w >>> 16) % 64,
    owner := BitVec.ofNat 6 (w >>> 24), packWait := (w >>> 32) % 256, openTo := (w >>> 48) % 65536,
    ringBase := (w >>> 64) % 2 ^ 48, pushMask := BitVec.ofNat 64 (w >>> 128), popMask := BitVec.ofNat 64 (w >>> 192),
    faulted := false, tail := 0, head := 0, discarded := 0, forced := 0, win := [], ring := [], tails := [], opened := none,
    disc := [], inPkt := false, pack := none, issued := []
  }

/-- Whether the fields of an image that R224 fixes at zero are zero. -/
def imageZeros (w : Nat) : Bool :=
  (w >>> 6) % 4 == 0 && (w >>> 13) % 8 == 0 && (w >>> 22) % 4 == 0 && (w >>> 30) % 4 == 0 && (w >>> 40) % 256 == 0
    && (w >>> 112) % 65536 == 0

/-- Whether a mask names, with another partition, one that is sealed or being sealed (R228, R338). -/
def mixesSealed (d : Dev) (m : Word) : Bool :=
  (List.range 64).any (fun p => m.getLsbD p && (isSealed d p || fld d 0 (Reg.PART p) Fl.PART_BUSY != 0))
    && decide (1 < ((List.range 64).filter (fun p => m.getLsbD p)).length)

/-- The privilege rules of R228. `old` is the queue of that ID, if it exists; `s` the image of a CREATE. -/
def qDenied (d : Dev) (create : Bool) (pl : Nat) (ns : Bool) (part : Nat) (s old : Option QueueSt) : Bool :=
  let others (m : Word) : Bool := m &&& ~~~ (BitVec.ofNat 64 (2 ^ part)) != 0
  if create then
    match s with
    | some s =>
      (pl == 1 && (s.owner.toNat != part || others s.pushMask || others s.popMask || s.packed))
        || (ns && (!s.ns || (match old with | some o => !o.ns | none => false)))
        || (pl != 3 && (mixesSealed d s.pushMask || mixesSealed d s.popMask))
    | none => false
  else match old with
    | some o => (ns && !o.ns) || (pl == 1 && o.owner.toNat != part)
    | none => false

/-- Whether a new queue's ring lies within the usable DRAM of its package and its owner may read and write all of it (R227). -/
def ringOk (d : Dev) (q : Nat) (s : QueueSt) : Bool :=
  let p := qDie q / 8
  let size := 64 * 2 ^ s.ringLg
  decide (p * 2 ^ 40 ≤ s.ringBase) && decide (s.ringBase + size ≤ p * 2 ^ 40 + usableLen d p)
    && (List.range ((s.ringBase + size - 1) / 2 ^ 21 + 1 - s.ringBase / 2 ^ 21)).all (fun i =>
          let pa := (s.ringBase / 2 ^ 21 + i) * 2 ^ 21
          spillAdmits d q s .r pa && spillAdmits d q s .w pa)

/-- The outcome of a queue command (R227), for a creator or destroyer of a privilege level, world and partition. -/
def qOutcome (d : Dev) (cmd : Word) (img : Nat) (pl : Nat) (ns : Bool) (part : Nat) : Nat :=
  let q := bitsOf cmd 17 0
  let op := bitsOf cmd 19 18
  let old := queueAt d q
  let s := imageQueue img
  if 2 ≤ op ∨ bitsOf cmd 63 20 ≠ 0 then 6
  else if !qTabOn d q then 2
  else if qDenied d (op == 0) pl ns part (some s) old then 4
  else if op = 0 ∧ old.isSome = true then 1
  else if op = 1 ∧ old.isNone = true then 2
  else if op = 1 then 0
  else if s.ringLg < 8 ∨ 26 < s.ringLg ∨ s.ringBase % (64 * 2 ^ s.ringLg) ≠ 0 ∨ 40 ≤ s.cons
      ∨ coreValid d (headCore q s) = false ∨ imageZeros img = false ∨ (s.packed = false ∧ s.packWait ≠ 0) then 3
  else if !ringOk d q s then 5
  else 0

/-- Create a queue: the descriptor is written with VALID set and the hardware fields clear (R227). -/
def qCreate (q : Nat) (s : QueueSt) (d : Dev) : Dev :=
  writeDesc q s true { d with queues := KMap.put none d.queues q (some s) }

/-- Destroy a queue (R227): VALID clears, windows and entries are discarded, slots are released, and every instruction that waits
on the queue takes the queue fault. -/
def qDestroy (q : Nat) (d : Dev) : Dev :=
  match queueAt d q with
  | none => d
  | some s =>
    let d1 := writeDesc q s false { d with queues := KMap.put none d.queues q none }
    let d2 := { d1 with qengs := d1.qengs.map (fun e => (e.1, { e.2 with slots := e.2.slots.filter (· != q) })) }
    let waiting := (d2.cores.filter (fun e => match e.2.qwait with | some w => w.q == q | none => false)).map (·.1)
    forAll waiting (fun c d => takeExn c (Exn.of 0x13 (BitVec.ofNat 64 q)) (updCore c (fun x => { x with qwait := none }) d)) d2

end Sys2Proof.Machine
end

