-- ==== Sys2Proof/Machine/CoreUnits.lean ====
section
/-! DEFINITION. What happens to cores beside their instructions: pace credit, arbitration recording, the store buffer, array
errors, checked pairs, the service timer and the forced exit, debug halts (R37 to R48, R142, R149 to R157, R317 to R319,
R331). -/

namespace Sys2Proof.Machine

/-- The tile map changes: TILEMAP_GEN is odd while it does and even after it (R254), and event 475 is raised. -/
def mapChange (D : Nat) (f : Dev → Dev) (d : Dev) : Dev :=
  let up (d : Dev) : Dev := setFld D Reg.TILEMAP_GEN Fl.TILEMAP_GEN_GEN (fld d D Reg.TILEMAP_GEN Fl.TILEMAP_GEN_GEN + 1) d
  raise D 475 (up (f (up d)))

/-! ### Pace governor (R37 to R40) -/

/-- A 10 ns credit: a new EFFECTIVE rate takes effect, and the bucket is filled by a hundredth of it, up to the burst depth. -/
def paceCredit (c : Nat) (d : Dev) : Dev :=
  let D := coreDie c
  let t := coreTile d c
  let ctl := rg d D (Reg.PACE_CTL t)
  let e := paceEffective ctl (fld d D (Reg.PACE_STATUS t) Fl.PACE_STATUS_PKG_CAP)
  let d1 := setFld D (Reg.PACE_STATUS t) Fl.PACE_STATUS_EFFECTIVE e.1 d
  let d2 := if e.2 then setFlg D (Reg.PACE_STATUS t) Fl.PACE_STATUS_CLAMPED true d1 else d1
  updCore c (fun x => { x with tokens := min (paceDepth ctl) (x.tokens + (e.1 : Int)) }) d2

def execPaceCredit (c : CoreId) (s : State) : Host.Outcome State Fault Refusal := onDev s (paceCredit c)

/-! ### Arbitration recording (R45 to R48) -/

/-- A change of MODE: RECORDS counts anew, ACTIVE follows. -/
def arbMode (D m : Nat) (d : Dev) : Dev :=
  let changed := fld d D Reg.ARBREC_CTL Fl.ARBREC_CTL_MODE != m
  let d1 := setFld D Reg.ARBREC_CTL Fl.ARBREC_CTL_MODE m d
  let d2 := setFlg D Reg.ARBREC_STATUS Fl.ARBREC_STATUS_ACTIVE (m == 1 || m == 2) d1
  if changed then setFld D Reg.ARBREC_STATUS Fl.ARBREC_STATUS_RECORDS 0 d2 else d2

/-- Whether a value of MODE may be written (R48). -/
def arbAllowed (d : Dev) (m : Nat) : Bool :=
  if m = 1 then dbgObserve d false && dbgObserve d true
  else if m = 2 then dbgControl d false && dbgControl d true
  else true

/-- A write of ARBREC_CTL with MODE `m`: the other fields are written, and a refused MODE is left at off with DENIED set. -/
def arbWrite (D m : Nat) (v : Word) (d : Dev) : Dev :=
  let keep := rg d D Reg.ARBREC_CTL
  let new := setF Fl.ARBREC_CTL_MODE (getF Fl.ARBREC_CTL_MODE keep)
    (v &&& (Fl.ARBREC_CTL_GROUP.mask ||| Fl.ARBREC_CTL_QID.mask ||| Fl.ARBREC_CTL_REPLAY_TO.mask))
  let d1 := wr D Reg.ARBREC_CTL new d
  if arbAllowed d m then arbMode D m d1
  else setFlg D Reg.ARBREC_STATUS Fl.ARBREC_STATUS_DENIED true (arbMode D 0 d1)

def execArbrecOff (D : Die) (v : Word) (s : State) : Host.Outcome State Fault Refusal := onDev s (arbWrite D 0 v)
def execArbrecRecord (D : Die) (v : Word) (s : State) : Host.Outcome State Fault Refusal := onDev s (arbWrite D 1 v)
def execArbrecReplay (D : Die) (v : Word) (s : State) : Host.Outcome State Fault Refusal := onDev s (arbWrite D 2 v)

/-- In replay the recorded input has not requested within REPLAY_TO (R47): DIVERGED, MODE off, event 506. -/
def replayTimeout (D : Nat) (d : Dev) : Dev :=
  if fld d D Reg.ARBREC_CTL Fl.ARBREC_CTL_MODE = 2 then
    raise D 506 (arbMode D 0 (setFlg D Reg.ARBREC_STATUS Fl.ARBREC_STATUS_DIVERGED true d))
  else d

def execReplayTimeout (D : Die) (s : State) : Host.Outcome State Fault Refusal := onDev s (replayTimeout D)

/-- An arbiter of a recorded group grants while two or more requests wait: one record is pushed to the packed queue that QID names,
or lost when it cannot be (R46). The arbiter's number, the winning input's number and TIE are free values: the spec numbers
neither (log entry 14). -/
def arbRecord (D : Nat) (d : Dev) : Dev :=
  let n := draw d
  let w : Word := BitVec.ofNat 64 (nowOf d D % 2 ^ 40 + Config.freeNat n % 2 ^ 18 * 2 ^ 40)
  let q := fld d D Reg.ARBREC_CTL Fl.ARBREC_CTL_QID
  let ok := match queueAt d q with | some s => s.packed && !s.framed && !s.faulted | none => false
  match (if ok then tailPush q ⟨5000 + D, false, 0x7FF, 0⟩ (.words [w]) (drawn d) else none) with
  | some d1 => bump D Reg.ARBREC_STATUS Fl.ARBREC_STATUS_RECORDS 1 d1
  | none => bump D Reg.ARBREC_STATUS Fl.ARBREC_STATUS_LOST 1 (drawn d)

/-- A grant of a queue engine is recorded when group bit 6 is selected and at least two tail windows of the queue wait. -/
def arbQueueGrant (q : Nat) (d : Dev) : Dev :=
  let D := qDie q
  match queueAt d q with
  | some s =>
    if fld d D Reg.ARBREC_CTL Fl.ARBREC_CTL_MODE = 1 ∧ (fld d D Reg.ARBREC_CTL Fl.ARBREC_CTL_GROUP).testBit 2 ∧ 2 ≤ s.tails.length
        ∧ s.faulted = false then arbRecord D d
    else d
  | none => d

def execEntryAcceptance (q : BitVec 18) (stop : Fin 6000) (s : State) : Host.Outcome State Fault Refusal :=
  onDev s (fun d => acceptFrom q.toNat stop (arbQueueGrant q.toNat d))

/-! ### Stopping a core (R156, R378, R436) -/

/-- A core stops at its instruction boundary; its state is kept or discarded. A waiting queue instruction is abandoned (R85). -/
def stopCore (c : Nat) (kept : Bool) (d : Dev) : Dev :=
  let off (x : CoreSt) : CoreSt := { x with run := false, kept := kept, wfe := none, qwait := none, wakeEv := false, misp := none, vprog := none, win := [], wantRun := false }
  updCore c (fun x =>
    let y := off x
    if kept then y else { y with arch := Arch.init, tlb := [], world := none, armedAt := none, expiredAt := none, snap := none,
                                 halted := false, grp := 0 }) d

/-! ### Array errors (R149, R150) -/

/-- The unit record of a core (R438). -/
def coreRec (d : Dev) (c cls code : Nat) : ErrRec :=
  { ErrRec.mk' cls 0x01 (coreLog c) code with who := some ⟨partId d c, nsOf d c⟩ }

/-- Count in a field of TIL.CORE_ERR. -/
def coreErrCount (c : Nat) (f : Fld) (d : Dev) : Dev := bump (coreDie c) (Reg.CORE_ERR (coreTile d c)) f 1 d

/-- A line leaves L1 and is fetched again from L2. -/
def l1Drop (c k : Nat) (d : Dev) : Dev :=
  updCache c (fun x => { x with l1d := x.l1d.filter (· != k), l1i := x.l1i.filter (· != k) }) d

/-- An array error of a core is handled, recorded and counted (R149). -/
def arrayError (c : Nat) (e : CoreErr) (d : Dev) : Dev :=
  let D := coreDie c
  let rec0 (code k : Nat) (d : Dev) : Dev := record D { coreRec d c 0 code with addr := some (keyAddr k) } d
  match e with
  | .l1i k => rec0 0x03 k (coreErrCount c Fl.CORE_ERR_L1_ERR (l1Drop c k d))
  | .l1dOne k => rec0 0x01 k (coreErrCount c Fl.CORE_ERR_L1_ERR (l1Drop c k d))
  | .l1dTwo k => rec0 0x02 k (coreErrCount c Fl.CORE_ERR_L1_ERR (l1Drop c k d))
  | .l1dTag k => rec0 0x03 k (coreErrCount c Fl.CORE_ERR_L1_ERR (l1Drop c k d))
  | .l2One k => rec0 0x01 k (coreErrCount c Fl.CORE_ERR_L2_CE d)
  | .l2Two k g =>
    match l2Line d c k with
    | none => d
    | some l =>
      if l.st.dirty then
        record D { coreRec d c 1 0x02 with addr := some (keyAddr k + 8 * g.val) }
          (l2Put c k (some { l with poison := l.poison ||| BitVec.ofNat 8 (2 ^ g.val) }) d)
      else
        let d1 := run (l2Evict c k d)
        let d2 := run (coreAsk c (Msg.mk' .rdShared (.core c) l.home 0 (keyAddr k) ⟨accPart d c, keyNs k⟩) d1)
        rec0 0x02 k (coreErrCount c Fl.CORE_ERR_L2_CE d2)
  | .l2TagOnce k => rec0 0x03 k (coreErrCount c Fl.CORE_ERR_L2_TAG_RETRY d)
  | .l2TagTwice set way =>
    let lost := (l2SetLines d c set).filter (fun x => x.2.way == way.val)
    let d1 := forAll lost (fun x d => dwellStop c x.1 (l2Put c x.1 none d)) d
    let d2 := if (cacheSt d1 c).off.contains (set.val, way.val) then d1
      else updCache c (fun x => { x with off := x.off ++ [(set.val, way.val)] }) d1
    let d3 := setFld D (Reg.CORE_ERR (coreTile d c)) Fl.CORE_ERR_L2_WAYS_OFF (min 15 (cacheSt d2 c).off.length) d2
    record D { coreRec d c 1 0x03 with info0 := set.val * 16 + way.val } d3
  | .regs => record D (coreRec d c 2 0x03) (stopCore c false d)

def execCoreArrayError (c : CoreId) (e : CoreErr) (s : State) : Host.Outcome State Fault Refusal := onDev s (arrayError c e)

/-! ### Checked pairs (R154 to R157, R162) -/

/-- The logical core that runs on a physical tile, by its system-wide number. -/
def tileCore (d : Dev) (D t : Nat) : Option Nat :=
  ((List.range 40).find? (fun i => flg d D (Reg.LCORE i) Fl.LCORE_VALID && fld d D (Reg.LCORE i) Fl.LCORE_PTILE == t)).map (D * 40 + ·)

def pairState (d : Dev) (D t : Nat) : Nat := fld d D (Reg.PAIR_STATUS t) Fl.PAIR_STATUS_STATE
def setPair (D t st partner : Nat) (d : Dev) : Dev :=
  setFld D (Reg.PAIR_STATUS t) Fl.PAIR_STATUS_PARTNER partner (setFld D (Reg.PAIR_STATUS t) Fl.PAIR_STATUS_STATE st d)

/-- Whether a core's tile belongs to a sealed partition. -/
def coreSealed (d : Dev) (c : Nat) : Bool :=
  let w := rg d (coreDie c) (Reg.CORE_OWN (coreLog c))
  getB Fl.CORE_OWN_EN w && isSealed d (getF Fl.CORE_OWN_PART w)

/-- Why a bind request is refused, by the codes of REASON; 0 when it is not (R157). -/
def bindRefusal (d : Dev) (D t partner : Nat) : Nat :=
  let running (x : Option Nat) : Bool := match x with | some c => (coreSt d c).run | none => false
  let owned (x : Option Nat) : Bool := match x with | some c => coreSealed d c | none => false
  if running (tileCore d D t) || running (tileCore d D partner) then 1
  else if (tileCore d D t).isNone || (tileCore d D partner).isNone then 2
  else if partner = t then 3
  else if pairState d D t ≠ 0 ∨ pairState d D partner ≠ 0 then 4
  else if owned (tileCore d D t) || owned (tileCore d D partner) then 5
  else 0

def pairRefuse (D t reason : Nat) (d : Dev) : Dev :=
  setFlg D (Reg.PAIR_STATUS t) Fl.PAIR_STATUS_REFUSED true (setFld D (Reg.PAIR_STATUS t) Fl.PAIR_STATUS_REASON reason d)

/-- A write of TIL.PAIR_CTL (R157, R162): ignored while a bind is in progress; BIND = 1 requests binding, which copies the
leader's registers to the checker; BIND = 0 unbinds a pair whose cores are both stopped. -/
def pairCtl (D t : Nat) (v : Word) (d : Dev) : Dev :=
  if pairState d D t = 1 then d
  else
    let partner := getF Fl.PAIR_CTL_PARTNER v
    let d0 := wr D (Reg.PAIR_CTL t) (v &&& 0x13F#64) d
    if getB Fl.PAIR_CTL_BIND v then
      let r := bindRefusal d D t partner
      if r ≠ 0 then pairRefuse D t r d0
      else
        let d1 := setPair D partner 1 t (setPair D t 1 partner d0)
        match tileCore d D t, tileCore d D partner with
        | some l, some k => updCore k (fun x => { x with arch := arch d l, kept := (coreSt d l).kept }) d1
        | _, _ => d1
    else
      let other := fld d D (Reg.PAIR_STATUS t) Fl.PAIR_STATUS_PARTNER
      let running (x : Option Nat) : Bool := match x with | some c => (coreSt d c).run | none => false
      if pairState d D t < 2 then d0
      else if running (tileCore d D t) || running (tileCore d D other) then pairRefuse D t 1 d0
      else
        let clear (x : Nat) (d : Dev) : Dev := match tileCore d D x with
          | some c => mapChange D (setFlg D (Reg.LCORE (coreLog c)) Fl.LCORE_CHECKER false) d
          | none => d
        clear other (clear t (setPair D other 0 0 (setPair D t 0 0 d0)))

def execBind (D : Die) (t : Fin 44) (partner : BitVec 6) (s : State) : Host.Outcome State Fault Refusal :=
  onDev s (pairCtl D t (BitVec.ofNat 64 (partner.toNat + 256)))
def execUnbind (D : Die) (t : Fin 44) (s : State) : Host.Outcome State Fault Refusal := onDev s (pairCtl D t 0)

/-- A pair whose members both run becomes bound (R157): the requesting tile leads, the other is marked as a checker. The tile
whose PAIR_CTL requested the binding is the one with BIND set for this partner. -/
def pairStart (D t : Nat) (d : Dev) : Dev :=
  let o := fld d D (Reg.PAIR_STATUS t) Fl.PAIR_STATUS_PARTNER
  let runs (x : Nat) : Bool := match tileCore d D x with | some c => (coreSt d c).run | none => false
  if pairState d D t = 1 ∧ runs t = true ∧ runs o = true then
    let lead := if flg d D (Reg.PAIR_CTL t) Fl.PAIR_CTL_BIND && fld d D (Reg.PAIR_CTL t) Fl.PAIR_CTL_PARTNER == o then t else o
    let chk := if lead = t then o else t
    let d1 := setPair D chk 3 lead (setPair D lead 2 chk d)
    let d2 := match tileCore d D chk with
      | some c => mapChange D (setFlg D (Reg.LCORE (coreLog c)) Fl.LCORE_CHECKER true) d1
      | none => d1
    match tileCore d D lead with
    | some c => updCore c (fun x => { x with snap := some x.arch, grp := 0 }) d2
    | none => d2
  else d

/-- The signatures of a group are compared (R155, R156). Equal: its stores are released. Different: both cores stop, the leader
with the registers of the last matched group and without the stores of this one; MISMATCH, a record and event k = 6. -/
def pairCompare (c : Nat) (equal : Bool) (d : Dev) : Dev :=
  if !isLeader d c || !(coreSt d c).run then d
  else if equal then
    updCore c (fun x => { x with snap := some x.arch, grp := 0 }) (updCache c (fun x => { x with sbHeld := 0 }) d)
  else
    let D := coreDie c
    let t := coreTile d c
    let o := fld d D (Reg.PAIR_STATUS t) Fl.PAIR_STATUS_PARTNER
    let d1 := updCache c (fun x => { x with sb := x.sb.take (x.sb.length - x.sbHeld), sbHeld := 0 }) d
    let d2 := updCore c (fun x => { x with arch := x.snap.getD x.arch, grp := 0 }) (stopCore c true d1)
    let d3 := match tileCore d D o with | some k => stopCore k true d2 | none => d2
    raiseSlot D (coreLog c) 6 (record D (coreRec d c 2 0x13)
      (setFlg D (Reg.PAIR_STATUS t) Fl.PAIR_STATUS_MISMATCH true d3))

def execPairSignatureCompare (c : CoreId) (equal : Bool) (s : State) : Host.Outcome State Fault Refusal :=
  onDev s (pairCompare c equal)

/-! ### The service timer (R317 to R319) -/

/-- Microseconds of a field with its smallest value, in nanoseconds. -/
def usNs (n lo : Nat) : Nat := max n lo * 1000

/-- The service timer reaches TIMEOUT while NS is 0: EXPIRED is set, and the expiry event, which is taken at PL3 at an
instruction boundary whatever IES holds, is raised and arrives (R318). -/
def timerExpiry (c : Nat) (d : Dev) : Dev :=
  let D := coreDie c
  match (coreSt d c).armedAt with
  | some t0 =>
    if (coreSt d c).expiredAt = none ∧ nsOf d c = false
        ∧ t0 + usNs (fld d D Reg.SVC_CTL Fl.SVC_CTL_TIMEOUT) 1 ≤ nowOf d D then
      let d1 := setFlg D (Reg.SVC_STATUS (coreLog c)) Fl.SVC_STATUS_EXPIRED true
        (updCore c (fun x => { x with expiredAt := some (nowOf d D) }) d)
      takeEventStep c (arrive D (8 * coreLog c + 5) d1)
    else d
  | none => d

def execServiceTimerExpiry (c : CoreId) (s : State) : Host.Outcome State Fault Refusal := onDev s (timerExpiry c)

/-- The forced exit (R319): GRACE has passed since expiry with NS still 0. -/
def forcedExit (c : Nat) (d : Dev) : Dev :=
  let D := coreDie c
  let st := Reg.SVC_STATUS (coreLog c)
  match (coreSt d c).expiredAt, (coreSt d c).world with
  | some t0, some w =>
    if nsOf d c = false ∧ t0 + usNs (fld d D Reg.SVC_CTL Fl.SVC_CTL_GRACE) 10 ≤ nowOf d D then
      let byEvent := flg d D st Fl.SVC_STATUS_BY_EVENT
      let svc := fld d D st Fl.SVC_STATUS_SVC
      let pl := plOf d c
      let d1 := updArch c (restoreWorld w) (updCore c (fun x => { x with wfe := none, qwait := none, misp := none }) d)
      let d2 := setSr c Sr.PSTATE (w.epstate &&& 0x7F#64) (setSr c Sr.VCFG vcfgIll (setSr c Sr.VL 0 (setSr c Sr.VSTART 0 d1)))
      let d3 := flushOnChange c pl false (disarmService c (if byEvent then d2 else setG c 3 svcUnavailable d2))
      let d4 := bump D st Fl.SVC_STATUS_FORCED_COUNT 1 (setFlg D st Fl.SVC_STATUS_FORCED true d3)
      let d5 := if byEvent then d4 else svcDown svc d4
      record D { ErrRec.mk' 2 0x0E (svc % 256) 0x14 with
        info0 := if byEvent then 0 else svc, info1 := b2n byEvent, who := some ⟨0, false⟩ } d5
    else d
  | _, _ => d

def execForcedExit (c : CoreId) (s : State) : Host.Outcome State Fault Refusal := onDev s (forcedExit c)

/-! ### Debug (R82, R331) -/

/-- A debugger's halt request ends a WFE; it halts the core if control of the core's world is enabled. -/
def debugHalt (c : Nat) (d : Dev) : Dev :=
  let d1 := updCore c (fun x => { x with wfe := none }) d
  if dbgControl d (!nsOf d c) && (coreSt d c).run then updCore c (fun x => { x with halted := true }) d1 else d1

def execDebugHaltRequest (c : CoreId) (s : State) : Host.Outcome State Fault Refusal := onDev s (debugHalt c)

end Sys2Proof.Machine
end

