-- ==== Sys2Proof/Machine/Messages.lean ====
section
/-! DEFINITION. The coherence messages as commands, the end of a dwell, unrecognised messages, and directory errors (R197 to R219,
R280, R485). A message row's operand is the message; it leaves the messages on their way and reaches its receiver. -/

namespace Sys2Proof.Machine

/-- A message of opcode `op` reaches its receiver. -/
def msgRow (op : COp) (m : Msg) (s : State) : Host.Outcome State Fault Refusal := onDev s (msgStep { m with op := op })

def execRdshared (m : Msg) (s : State) : Host.Outcome State Fault Refusal := msgRow .rdShared m s
def execRdunique (m : Msg) (s : State) : Host.Outcome State Fault Refusal := msgRow .rdUnique m s
def execUpgrade (m : Msg) (s : State) : Host.Outcome State Fault Refusal := msgRow .upgrade m s
def execRdonce (m : Msg) (s : State) : Host.Outcome State Fault Refusal := msgRow .rdOnce m s
def execWrfull (m : Msg) (s : State) : Host.Outcome State Fault Refusal := msgRow .wrFull m s
def execWrpartial (m : Msg) (s : State) : Host.Outcome State Fault Refusal := msgRow .wrPartial m s
def execAtomichome (m : Msg) (s : State) : Host.Outcome State Fault Refusal := msgRow .atomicHome m s
def execAtomicmem (m : Msg) (s : State) : Host.Outcome State Fault Refusal := msgRow .atomicMem m s
def execGather (m : Msg) (s : State) : Host.Outcome State Fault Refusal := msgRow .gather m s
def execScatter (m : Msg) (s : State) : Host.Outcome State Fault Refusal := msgRow .scatter m s
def execScatterred (m : Msg) (s : State) : Host.Outcome State Fault Refusal := msgRow .scatterRed m s
def execCmocleanMsg (m : Msg) (s : State) : Host.Outcome State Fault Refusal := msgRow .cmoClean m s
def execCmoinvMsg (m : Msg) (s : State) : Host.Outcome State Fault Refusal := msgRow .cmoInv m s
def execCmoflushMsg (m : Msg) (s : State) : Host.Outcome State Fault Refusal := msgRow .cmoFlush m s
def execLock (m : Msg) (s : State) : Host.Outcome State Fault Refusal := msgRow .lock m s
def execUnlock (m : Msg) (s : State) : Host.Outcome State Fault Refusal := msgRow .unlock m s
def execWbdirty (m : Msg) (s : State) : Host.Outcome State Fault Refusal := msgRow .wbDirty m s
def execEvictclean (m : Msg) (s : State) : Host.Outcome State Fault Refusal := msgRow .evictClean m s
def execKeeperevict (m : Msg) (s : State) : Host.Outcome State Fault Refusal := msgRow .keeperEvict m s
def execSnpshared (m : Msg) (s : State) : Host.Outcome State Fault Refusal := msgRow .snpShared m s
def execSnpunique (m : Msg) (s : State) : Host.Outcome State Fault Refusal := msgRow .snpUnique m s
def execSnpinv (m : Msg) (s : State) : Host.Outcome State Fault Refusal := msgRow .snpInv m s
def execSnppeek (m : Msg) (s : State) : Host.Outcome State Fault Refusal := msgRow .snpPeek m s
def execSnpclean (m : Msg) (s : State) : Host.Outcome State Fault Refusal := msgRow .snpClean m s
def execRecall (m : Msg) (s : State) : Host.Outcome State Fault Refusal := msgRow .recall m s
def execCompack (m : Msg) (s : State) : Host.Outcome State Fault Refusal := msgRow .compAck m s
def execWback (m : Msg) (s : State) : Host.Outcome State Fault Refusal := msgRow .wbAck m s
def execSnpresp (m : Msg) (s : State) : Host.Outcome State Fault Refusal := msgRow .snpResp m s
def execComp (m : Msg) (s : State) : Host.Outcome State Fault Refusal := msgRow .comp m s
def execGrant (m : Msg) (s : State) : Host.Outcome State Fault Refusal := msgRow .grant m s
def execDefer (m : Msg) (s : State) : Host.Outcome State Fault Refusal := msgRow .defer m s
def execResume (m : Msg) (s : State) : Host.Outcome State Fault Refusal := msgRow .resume m s
def execData (m : Msg) (s : State) : Host.Outcome State Fault Refusal := msgRow .data m s
def execSnpdata (m : Msg) (s : State) : Host.Outcome State Fault Refusal := msgRow .snpData m s
def execWbdata (m : Msg) (s : State) : Host.Outcome State Fault Refusal := msgRow .wbData m s
def execRespdata (m : Msg) (s : State) : Host.Outcome State Fault Refusal := msgRow .respData m s

/-- The die and the record unit of a receiver of messages (R438). -/
def agentUnit : Agent → Nat × Nat × Nat
  | .core c => (coreDie c, 0x01, coreLog c)
  | .home g => (sliceDie g, 0x02, sliceLog g)
  | .keeper p q => (p * 8, 0x06, q)
  | .port k => (portDie k, 0x07, portNum k)
  | .hsp D => (D, 0x0B, 0)
  | .crown D => (D, 0x0A, D % 8)

/-- A message with an unlisted opcode is dropped, and its receiver records a corrected error (R201). -/
def unrecognised (a : Agent) (d : Dev) : Dev :=
  let u := agentUnit a
  record u.1 (ErrRec.mk' 0 u.2.1 u.2.2 0x1E) d

def execUnrecognisedMessage (a : Agent) (s : State) : Host.Outcome State Fault Refusal := onDev s (unrecognised a)

/-- The ownership dwell on a line runs out at its tick of the time base, and held snoops are answered (R210). -/
def dwellOut (c k : Nat) (d : Dev) : Dev :=
  match (cacheSt d c).dwell.find? (fun e => e.1 == k) with
  | some e => if e.2 ≤ nowOf d (coreDie c) then run (dwellEnds c k d) else d
  | none => d

def execDwellEnd (c : CoreId) (k : Nat) (s : State) : Host.Outcome State Fault Refusal := onDev s (dwellOut c k)

/-! ### Directory errors (R197) -/

/-- Every active core of a package as a holder, by its index in the package. -/
def pkgCores (d : Dev) (p : Nat) : List Nat := (List.range 320).filter (fun i => coreValid d (p * 320 + i))

/-- A single-bit error of an entry is corrected; after a double-bit error the line's state is rebuilt by `Recall` to every active
core of the package and to every keeper that reaches another package. -/
def directoryError (g k : Nat) (double : Bool) (d : Dev) : Dev :=
  let a := sliceArray d g
  let rec' (code : Nat) (d : Dev) : Dev :=
    record (sliceDie a) { ErrRec.mk' 0 0x02 (sliceLog a) code with addr := some (keyAddr k) } d
  if !double then rec' 0x01 d
  else if lineOpen d a k then rec' 0x02 d
  else
    let p := slicePkg a
    let pk := BitVec.ofNat 4 ((List.range 4).foldl (fun n q => if q ≠ p ∧ 0 < d.cfg.ndie q then n + 2 ^ q else n) 0)
    let e : DirEnt := { DirEnt.empty with sharers := pkgCores d p, pkgs := pk }
    rec' 0x02 (run (homePump a (dirEvict a k (dirPut a k e d))))

def execDirectoryError (g : SliceId) (k : Nat) (double : Bool) (s : State) : Host.Outcome State Fault Refusal :=
  onDev s (directoryError g k double)

end Sys2Proof.Machine
end

