-- ==== Sys2Proof/Machine/CoreMem.lean ====
section
/-! DEFINITION. A core's requests that its home has answered, ownership for stores, and how entries leave its store buffer (R142,
R155, R175, R302, R326). -/

namespace Sys2Proof.Machine

/-! ### The line of a core's access -/

/-- The request of a core for a line that its home has answered, if any. -/
def takeResult (c k : Nat) (op : COp) (d : Dev) : Option (Dev × Msg) :=
  match takeFirst (fun x => lineKey x.req.addr x.req.who.ns == k && x.req.op == op && x.result.isSome) (cacheSt d c).miss with
  | some (⟨_, _, _, some r⟩, rest) => some (updCache c (fun y => { y with miss := rest }) d, r)
  | _ => none

/-- Ask for ownership of a line that L2 does not hold in M or E (R142). -/
def askOwn (c pa : Nat) (who : Who) (tl : Bool) (d : Dev) : Dev :=
  let m (op : COp) : Msg := Msg.mk' op (.core c) (coreHomeAgent d c pa tl) 0 (pa / 64 * 64) who
  match l2Line d c (lineKey pa who.ns) with
  | some l => if l.st.writable then d else run (coreAsk c (m .upgrade) d)
  | none => run (coreAsk c (m .rdUnique) d)

/-! ### The store buffer -/

/-- A store that goes past the caches is performed: a partial write at the memory port, or in scratchpad (R175, R302). -/
def ncWrite (e : SbEnt) (d : Dev) : Dev :=
  match regionOf e.pa with
  | .dram _ _ =>
    let la := e.pa / 64 * 64
    if dramAdmits d e.who .rw e.pa then
      dramWritePartial la (linePut 0 (e.pa % 64) e.size e.data) (BitVec.ofNat 64 ((2 ^ e.size - 1) <<< (e.pa % 64))) e.who d
    else portRefuse e.pa e.who true d
  | .spad D s off =>
    if spadAdmits d D s off e.size e.who .w e.pa then
      let a := sliceArray d (D * 42 + s)
      let l := spadLine d a (off / 64)
      -- a poisoned scratchpad line keeps its poison unless wholly written
      spadPut a (off / 64) (linePut l.1 (off % 64) e.size e.data, l.2 && decide (e.size < 64)) d
    else spadRefuse D s e.who true .core e.pa d
  | _ => d

/-- The entry at a place of the store buffer. -/
def sbAt (d : Dev) (c i : Nat) : Option SbEnt := (cacheSt d c).sb[i]?

/-- Remove the entry at a place of the store buffer. -/
def sbRemove (c i : Nat) (d : Dev) : Dev := updCache c (fun x => { x with sb := x.sb.eraseIdx i }) d

/-- Write the entry at place `i` if it may leave (R142, R155): no older entry of its line, and released by its pair; a
cacheable entry leaves when L2 holds its line in M or E, and else its line is asked for; an entry whose request was refused
has no effect (R326). -/
def sbDrain (c i : Nat) (d : Dev) : Dev :=
  match sbAt d c i with
  | none => d
  | some e =>
    if (cacheSt d c).sb.length < i + 1 + (cacheSt d c).sbHeld then d
    else if ((cacheSt d c).sb.take i).any (fun x => x.key == e.key) then d
    else if e.nc then ncWrite e (sbRemove c i d)
    else
      match l2Line d c e.key with
      | some l =>
        if l.st.writable then sbCommit c e.key d else askOwn c e.pa e.who e.tl d
      | none =>
        let d1 := askOwn c e.pa e.who e.tl d
        match takeResult c e.key .rdUnique d1 with
        | some (d2, _) => sbRemove c i d2
        | none => d1

/-- Drain the oldest entry, `n` times. -/
def sbDrainN (c : Nat) : Nat → Dev → Dev
  | 0, d => d
  | n + 1, d => if (cacheSt d c).sb.isEmpty then d else sbDrainN c n (sbDrain c 0 d)

/-- Drain the whole store buffer as far as it goes. -/
def sbDrainAll (c : Nat) (d : Dev) : Dev := sbDrainN c (2 * (cacheSt d c).sb.length) d

end Sys2Proof.Machine
end

