-- ==== Sys2Proof/Machine/HspBase.lean ====
section
/-! DEFINITION. A high-speed port's outstanding requests, channels and shut-downs (15_host_port.md). -/

namespace Sys2Proof.Machine

/-! ### Outstanding requests -/

/-- Keep OUTSTANDING of a function equal to its non-posted requests outstanding. -/
def outCount (D f : Nat) (d : Dev) : Dev :=
  setFld D (Reg.FN_STATUS f) Fl.FN_STATUS_OUTSTANDING ((hspSt d D).outs.filter (fun o => o.fn == f)).length d

/-- A port sends a non-posted request with a free tag; none while 512 are outstanding. -/
def nonPosted (D f : Nat) (by' : OutFor) (addr len : Nat) (cfgData : Option (Option (List Byte))) (d : Dev) : Option Dev :=
  let x := hspSt d D
  if 512 ≤ x.outs.length then none
  else
    let t := x.tag + 1
    let o : OutReq := ⟨t, f, by', addr, len, 0, nowOf d D, false, cfgData.isSome⟩
    let p : Tlp := match cfgData with
      | none => .memRd f t addr len
      | some none => .cfgRd t addr len
      | some (some b) => .cfgWr t addr b
    some (outCount D f (hspSend D p (updHsp D (fun y => { y with outs := y.outs ++ [o], tag := t }) d)))

/-- The outstanding request of a tag. -/
def outAt (d : Dev) (D t : Nat) : Option OutReq := (hspSt d D).outs.find? (fun o => o.tag == t)

def setOut (D t : Nat) (f : OutReq → OutReq) (d : Dev) : Dev :=
  updHsp D (fun x => { x with outs := x.outs.map (fun o => if o.tag == t then f o else o) }) d

/-- A request is no longer outstanding. -/
def outClose (D : Nat) (o : OutReq) (d : Dev) : Dev :=
  outCount D o.fn (updHsp D (fun x => { x with outs := x.outs.filter (fun y => y.tag != o.tag) }) d)

/-- A core's load from a port window has its result (R397). -/
def winDone (c D addrOff n : Nat) (r : Option (Nat × Bool)) (d : Dev) : Dev :=
  updCore c (fun x => { x with win := x.win.map (fun w =>
    if w.die == D && w.off == addrOff && w.n == n && w.res.isNone then { w with res := some r } else w) }) d

/-- Offset in the port window that a bus address of an outbound request came from. -/
def winOffOf (o : OutReq) : Nat := if o.cfg then 0xFF00000000 + o.addr else o.addr % 2 ^ 40

/-- What a request that ends without data leaves behind: a core's load takes an access fault; an inbound read that left through
this port completes with Unsupported Request; a channel's read is marked by the channel's own rules. -/
def outFail (D : Nat) (o : OutReq) (d : Dev) : Dev :=
  match o.by' with
  | .core c => winDone c D (winOffOf o) o.len none d
  | .p2p D' f t => hspSend D' (.cpl f t 1 false []) d
  | .chan _ => d
  | .store => d

/-! ### DMA channels: common parts -/

def chanSt (d : Dev) (D ch : Nat) : ChanSt := KMap.look ChanSt.init (hspSt d D).chans ch
def updChan (D ch : Nat) (f : ChanSt → ChanSt) (d : Dev) : Dev :=
  updHsp D (fun x => { x with chans := KMap.modify ChanSt.init x.chans ch f }) d
/-- STATE of a channel: 0 IDLE, 1 RUNNING, 2 PAUSED, 3 HALTED_BME, 4 HALTED_RESET, 5 HALTED_ERR. -/
def chanState (d : Dev) (D ch : Nat) : Nat := fld d D (Reg.DMA_STATUS ch) Fl.DMA_STATUS_STATE
def setChanState (D ch st : Nat) (d : Dev) : Dev := setFld D (Reg.DMA_STATUS ch) Fl.DMA_STATUS_STATE st d
def chanFn (d : Dev) (D ch : Nat) : Nat := fld d D (Reg.DMA_CFG ch) Fl.DMA_CFG_FN
/-- Channels whose function is `f`. -/
def chansOf (d : Dev) (D f : Nat) : List Nat := (List.range 16).filter (fun ch => chanFn d D ch == f)
/-- Word `i` of a channel's current descriptor. -/
def dmaCur (d : Dev) (D ch i : Nat) : Word := rg d D (Reg.DMA_CUR ch i)
/-- A channel's current descriptor is gone. -/
def chanClear (D ch : Nat) (d : Dev) : Dev :=
  forAll (List.range 8) (fun i => wr D (Reg.DMA_CUR ch i) 0) (updChan D ch (fun _ => ChanSt.init) d)

/-- The producer that a function's pushes come from (R233): SRC_PORT 1, SRC the function. -/
def fnProd (d : Dev) (D f : Nat) : QProd := ⟨2000 + D, true, f, (fnWho d D f).part.toNat⟩

/-- Entries in use in the port's tail buffer (R229, R394). -/
def bufUse (d : Dev) (D : Nat) : Nat := (hspSt d D).buf.length + tailUse d 0 (2000 + D)

/-- A channel pushes its completion entry (R395) when CQ and the tail buffer take it; whether it did. An entry for a queue that the
function may not push to cannot be pushed and waits. -/
def dmaPush (D ch : Nat) (d : Dev) : Dev × Bool :=
  let f := chanFn d D ch
  let q := fld d D (Reg.DMA_CFG ch) Fl.DMA_CFG_CQ
  let c := chanSt d D ch
  let w : List Word := [dmaCur d D ch 3, BitVec.ofNat 64 (c.status + c.ok * 2 ^ 32), rg d D Reg.TIM_NOW, 0, 0, 0, 0, 0]
  let p := fnProd d D f
  if 8 ≤ bufUse d D ∨ qFaults d qPUSH (BitVec.ofNat 64 q) (fnWho d D f).ns p = true then (d, false)
  else match tailPush q p (.full (wordsLine w)) d with
    | none => (d, false)
    | some d1 =>
      let d2 := setFld D (Reg.DMA_STATUS ch) Fl.DMA_STATUS_LAST_STATUS c.status (bump D (Reg.DMA_STATUS ch) Fl.DMA_STATUS_DONE 1 d1)
      let d3 := updChan D ch (fun x => { x with due := false }) d2
      let w0 := dmaCur d D ch 0
      (if bitOf w0 2 && c.status != 7 then msixReq D f (bitsOf w0 16 8) d3 else d3, true)

/-- A channel's current descriptor completes with STATUS RESET and the channel enters HALTED_RESET (R401, R406). -/
def chanReset (D ch : Nat) (d : Dev) : Dev :=
  if chanState d D ch = 1 ∨ chanState d D ch = 2 ∨ chanState d D ch = 3 then
    let d1 := updChan D ch (fun x => { x with status := 6, due := true, part := [] }) d
    raise D 427 (setChanState D ch 4 (dmaPush D ch d1).1)
  else d

/-! ### Shut-downs (R400 to R402) -/

/-- Every outstanding request of a function has its completions discarded from now on. -/
def dropOuts (D f : Nat) (d : Dev) : Dev :=
  updHsp D (fun x => { x with outs := x.outs.map (fun o => if o.fn == f then { o with drop := true } else o) }) d

/-- Every outstanding request of the functions that satisfy `p` is closed by force. -/
def closeOuts (D : Nat) (p : Nat → Bool) (d : Dev) : Dev :=
  forAll ((hspSt d D).outs.filter (fun o => p o.fn)) (fun o d => outClose D o (outFail D o d)) d

/-- Bus Master Enable of a function is cleared (R400). -/
def bmeClear (D f : Nat) (d : Dev) : Dev :=
  if !fnFlg d D f Fl.FN_STATUS_BME then d
  else
    let d1 := setFnFlg D f Fl.FN_STATUS_QUIESCING true (setFnFlg D f Fl.FN_STATUS_BME false (dropOuts D f d))
    let halt (ch : Nat) (d : Dev) : Dev :=
      if chanState d D ch = 1 ∨ chanState d D ch = 2 then
        raise D 427 (setChanState D ch 3 (updChan D ch (fun _ => ChanSt.init) d))
      else d
    raise D 422 (forAll (chansOf d D f) halt d1)

/-- The last outstanding request of a function has ended: QUIESCING clears (R400), and what was set again meanwhile acts (R402). -/
def quiesceEnd (D f : Nat) (d : Dev) : Dev :=
  if fnFlg d D f Fl.FN_STATUS_QUIESCING && !(hspSt d D).outs.any (fun o => o.fn == f) then
    msixFlush D f (raise D 422 (setFnFlg D f Fl.FN_STATUS_QUIESCING false d))
  else d

/-- A Function Level Reset of a function starts (R401, step 1 and 2); the enables read as reset until they are set again (R402). -/
def flrOne (D f : Nat) (d : Dev) : Dev :=
  setFnFlg D f Fl.FN_STATUS_FLR_BUSY true (setFnFlg D f Fl.FN_STATUS_BME false (setFnFlg D f Fl.FN_STATUS_MSE false (dropOuts D f d)))

/-- VF Enable changes (R409). Clearing it shuts every VF down (R401, R402). -/
def vfEnable (D : Nat) (on : Bool) (d : Dev) : Dev :=
  if fnFlg d D 1 Fl.FN_STATUS_VF_EN = on then d
  else
    let d1 := raise D 429 (setFnFlg D 1 Fl.FN_STATUS_VF_EN on d)
    if on then d1 else forAll (List.range 64) (fun v => flrOne D (2 + v)) d1

/-- FLR of a function: one of PF1 also clears VF Enable (R401). -/
def flrStart (D f : Nat) (d : Dev) : Dev :=
  if !hspEnd d D || !fnExists d D f then d
  else
    let d1 := flrOne D f d
    if f = 1 then vfEnable D false d1 else d1

/-- The configuration space and MSI-X table of a function return to their reset values. -/
def cfgReset (D f : Nat) (d : Dev) : Dev :=
  updHsp D (fun x => { x with cfg := KMap.drop x.cfg (fun k => k / 1024 == f), msix := KMap.drop x.msix (fun k => k / 2048 == f) }) d

/-- FLR of a function ends (R401, steps 3 to 5). Enables that were set again during it stay set (R402). -/
def flrEnd (D f : Nat) (d : Dev) : Dev :=
  if !fnFlg d D f Fl.FN_STATUS_FLR_BUSY then d
  else
    let d1 := forAll (chansOf d D f) (chanReset D) (closeOuts D (· == f) d)
    let mine (r : InReq × Nat) : Bool := match r.1 with | .db g _ _ _ => g == f | _ => false
    let cut (x : HspSt) : HspSt := { x with inq := x.inq.filter (fun r => !mine r), pend := x.pend.filter (fun e => e.1 != f) }
    let d2 := cfgReset D f (updHsp D cut d1)
    let d3 := setFld D (Reg.FN_STATUS f) Fl.FN_STATUS_DSTATE 0 (setFnFlg D f Fl.FN_STATUS_QUIESCING false
      (setFnFlg D f Fl.FN_STATUS_FLR_BUSY false d2))
    raise D 423 d3

/-- An enable of a function is set: 0 Bus Master, 1 Memory Space, 2 VF Enable (R402). -/
def enableSet (D f which : Nat) (d : Dev) : Dev :=
  if !hspEnd d D || !fnExists d D f then d
  else match which with
    | 0 => msixFlush D f (setFnFlg D f Fl.FN_STATUS_BME true d)
    | 1 => setFnFlg D f Fl.FN_STATUS_MSE true d
    | _ => if f = 1 then vfEnable D true d else d

/-- A function enters D3hot or returns to D0 (R403). -/
def dState (D f : Nat) (d3 : Bool) (d : Dev) : Dev :=
  if !hspEnd d D || !fnExists d D f || (fnFld d D f Fl.FN_STATUS_DSTATE == 3) == d3 then d
  else
    let d1 := raise D 424 (setFld D (Reg.FN_STATUS f) Fl.FN_STATUS_DSTATE (if d3 then 3 else 0) d)
    let turn (ch : Nat) (d : Dev) : Dev :=
      if d3 && chanState d D ch == 1 then setChanState D ch 2 d
      else if !d3 && chanState d D ch == 2 then setChanState D ch 1 d else d
    let d2 := forAll (chansOf d D f) turn d1
    -- PCI-PM L1 while every function is in D3hot (R404)
    let all := (List.range 66).all (fun g => !fnExists d2 D g || fnFld d2 D g Fl.FN_STATUS_DSTATE == 3)
    let d4 := if !linkUp d2 D then d2
      else if all then setFld D Reg.HSP_MODE Fl.HSP_MODE_LSTATE 2 d2
      else if fld d2 D Reg.HSP_MODE Fl.HSP_MODE_LSTATE = 2 then setFld D Reg.HSP_MODE Fl.HSP_MODE_LSTATE 0 d2 else d2
    msixFlush D f d4

/-! ### Link and PERST_N -/

/-- What a port loses that a reset of its link takes away: outstanding requests, configuration spaces, MSI-X, doorbell entries not yet
pushed; every channel's descriptor completes with RESET (R406). -/
def hspReset (D : Nat) (p : Nat → Bool) (d : Dev) : Dev :=
  let d1 := forAll ((List.range 16).filter (fun ch => p (chanFn d D ch))) (chanReset D) (closeOuts D p d)
  let prodIn (e : Nat × QProd × QItem) : Bool := p e.2.1.src
  let keep (r : InReq × Nat) : Bool := match r.1 with | .rd f _ _ _ => !p f | .wr f _ _ _ => !p f | .db f _ _ _ => !p f
  let cut (x : HspSt) : HspSt := { x with inq := x.inq.filter keep, buf := x.buf.filter (fun e => !prodIn e),
                                          pend := x.pend.filter (fun e => !p e.1) }
  let clear (f : Nat) (d : Dev) : Dev :=
    cfgReset D f (wr D (Reg.FN_STATUS f) (rg d D (Reg.FN_STATUS f) &&& 0xFFFFFFFF00000000#64) d)
  forAll ((List.range 66).filter p) clear (updHsp D cut d1)

/-- LINK_UP changes (R409): event 416. A link that goes down drops what is outstanding. -/
def linkSet (D : Nat) (up : Bool) (d : Dev) : Dev :=
  if linkUp d D = up then d
  else if up then raise D 416 (setFld D Reg.HSP_MODE Fl.HSP_MODE_LSTATE 0 (setFlg D Reg.HSP_MODE Fl.HSP_MODE_LINK_UP true d))
  else
    let d1 := setFld D Reg.HSP_MODE Fl.HSP_MODE_WIDTH 0 (setFld D Reg.HSP_MODE Fl.HSP_MODE_RATE 0
      (setFlg D Reg.HSP_MODE Fl.HSP_MODE_FLIT false (setFld D Reg.HSP_MODE Fl.HSP_MODE_LSTATE 3
        (setFlg D Reg.HSP_MODE Fl.HSP_MODE_LINK_UP false d))))
    raise D 416 d1

/-- Link Disable of a root port: bit 4 of its Link Control word. -/
def linkDisable (d : Dev) (D : Nat) : Bool := cfgStored d D 0 28 / 16 % 2 == 1

/-- Link Disable takes the link down (the standard, R405). -/
def linkDisableCheck (D : Nat) (d : Dev) : Dev := if hspRoot d D && linkDisable d D then linkSet D false d else d

end Sys2Proof.Machine
end

