-- ==== Sys2Proof/Machine/UnitMem.lean ====
section
/-! DEFINITION. Memory accesses of units that are no cores: a high-speed port or a Crown reads lines with `RdOnce` and writes
with `WrFull` and `WrPartial` at their homes, behind the unit's own firewall check (R219, R325, R326). -/

namespace Sys2Proof.Machine

/-- Who makes a unit's access: its agent, its die, what its refusals are recorded as, and the local event they raise. -/
structure UnitSrc where
  ag : Agent
  die : Nat
  src : FwSrc
  ev : Nat

/-- A high-speed port (R326, R409). -/
def UnitSrc.hsp (D : Nat) : UnitSrc := ⟨.hsp D, D, .hsp, 430⟩

/-- Whether the home that a unit's access to an address goes to takes requests; a slice in retention does not yet (R371). -/
def unitAwake (d : Dev) (D pa : Nat) : Bool :=
  match regionOf pa with
  | .dram p _ =>
    if p = D / 8 then
      let g := hashedHome d pa
      domOn d (sliceDie g) (44 + sliceTile d g)
    else true
  | _ => true

/-- Wake the home of an address (R371). -/
def unitWake (D pa : Nat) (d : Dev) : Dev :=
  match regionOf pa with
  | .dram p _ =>
    if p = D / 8 then
      let g := hashedHome d pa
      domReach (sliceDie g) (44 + sliceTile d g) d
    else d
  | _ => d

/-- A unit's request about the line of an address. -/
def unitMsg (d : Dev) (u : UnitSrc) (op : COp) (pa : Nat) (who : Who) : Msg :=
  Msg.mk' op u.ag (unitHomeAgent d (u.die / 8) pa) 0 (pa / 64 * 64) who

/-- How a unit's access ends: data and poison, refused by a firewall, or addressed to nothing that a unit may access. -/
inductive UnitRes where
  | data (l : LineData) (poison : Bool)
  | refused
  | nowhere

/-- A unit reads the line of an address; `need` bytes from `off` are what it uses of a scratchpad line. -/
def unitRead (u : UnitSrc) (pa : Nat) (who : Who) (d : Dev) : Dev × UnitRes :=
  match regionOf pa with
  | .dram _ _ =>
    if !dramAdmits d who .r pa then (fwRefuse u.die 0 who false u.src pa u.ev d, .refused)
    else match extRun (unitMsg d u .rdOnce pa who) d with
      | (d1, some r) => (d1, .data r.line r.poison)
      | (d1, none) => (d1, .refused)
  | .spad D s off =>
    if !d.cfg.present D then (d, .nowhere)
    else if spadAdmits d D s (off / 64 * 64) 64 who .r pa then
      let l := spadLine d (sliceArray d (D * 42 + s)) (off / 64)
      (d, .data l.1 l.2)
    else (spadRefuse D s who false u.src pa d, .refused)
  | _ => (d, .nowhere)

/-- A unit writes the bytes of one line that `be` enables; `poison` marks them poisoned. -/
def unitWrite (u : UnitSrc) (pa : Nat) (who : Who) (line : LineData) (be : BitVec 64) (poison : Bool) (d : Dev) : Dev × UnitRes :=
  if be = 0 then (d, .data 0 false) else
  match regionOf pa with
  | .dram _ _ =>
    let full := be == 0xFFFFFFFFFFFFFFFF#64
    if !dramAdmits d who (if full then .w else .rw) pa then (fwRefuse u.die 0 who true u.src pa u.ev d, .refused)
    else
      let m := { unitMsg d u (if full then .wrFull else .wrPartial) pa who with line := line, be := be, poison := poison }
      ((extRun m d).1, .data 0 false)
  | .spad D s off =>
    if !d.cfg.present D then (d, .nowhere)
    else if spadAdmits d D s (off / 64 * 64) 64 who .w pa then
      let a := sliceArray d (D * 42 + s)
      let l := spadLine d a (off / 64)
      (spadPut a (off / 64) (lineMerge l.1 line be, poison || (l.2 && be != 0xFFFFFFFFFFFFFFFF#64)) d, .data 0 false)
    else (spadRefuse D s who true u.src pa d, .refused)
  | _ => (d, .nowhere)

/-- The line and byte enables that hold bytes at given places of a line. -/
def placeBytes (l : List (Nat × Byte)) : LineData × BitVec 64 :=
  (BitVec.ofNat 512 (l.foldl (fun n e => n ||| e.2.toNat <<< (8 * (e.1 % 64))) 0),
   BitVec.ofNat 64 (l.foldl (fun n e => n ||| 1 <<< (e.1 % 64)) 0))

end Sys2Proof.Machine
end

