-- ==== Sys2Proof/Machine/HspDma.lean ====
section
/-! DEFINITION. The DMA channels of a high-speed port, and the completions and timeouts of its requests (R395 to R397, R399,
R400, R403, R407). -/

namespace Sys2Proof.Machine

/-! ### Descriptors (R395) -/

/-- OP, LENGTH, HADDR and DADDR of a channel's current descriptor. -/
def dmaOp (d : Dev) (D ch : Nat) : Nat := bitsOf (dmaCur d D ch 0) 1 0
def dmaLen (d : Dev) (D ch : Nat) : Nat := bitsOf (dmaCur d D ch 0) 63 32
def dmaHost (d : Dev) (D ch : Nat) : Nat := (dmaCur d D ch 1).toNat
def dmaDev (d : Dev) (D ch : Nat) : Nat := bitsOf (dmaCur d D ch 2) 47 0

/-- Whether a descriptor completes at once with BAD_DESC. -/
def badDesc (f : Nat) (w : Nat → Word) : Bool :=
  (w 0 &&& 0xFFFE00F8#64) != 0 || bitsOf (w 2) 63 48 != 0 || w 4 != 0 || w 5 != 0 || w 6 != 0 || w 7 != 0
    || decide (2 ≤ bitsOf (w 0) 1 0) || bitsOf (w 0) 63 32 == 0 || decide (0x4000000 < bitsOf (w 0) 63 32)
    || (bitOf (w 0) 2 && decide (msixCount f ≤ bitsOf (w 0) 16 8))

/-- The channel is done with its descriptor once its completion entry is pushed: HALTED_ERR after an error with STOP_ON_ERR, else
IDLE (R396). -/
def chanEnd (D ch : Nat) (d : Dev) : Dev :=
  let st := (chanSt d D ch).status
  if st ≠ 0 ∧ st ≠ 5 ∧ flg d D (Reg.DMA_CFG ch) Fl.DMA_CFG_STOP_ON_ERR = true then raise D 427 (setChanState D ch 5 d)
  else chanClear D ch (setChanState D ch 0 d)

/-- The completion entry that is due is pushed, with any MSI-X (R396). -/
def dmaComplete (D ch : Nat) (d : Dev) : Dev :=
  if !(chanSt d D ch).due then d
  else if chanState d D ch = 1 then
    let r := dmaPush D ch d
    if r.2 then chanEnd D ch r.1 else r.1
  else if chanState d D ch = 4 then (dmaPush D ch d).1
  else d

/-- Whether a channel may take its next descriptor. -/
def dmaReady (d : Dev) (D ch : Nat) : Bool :=
  let f := chanFn d D ch
  flg d D (Reg.DMA_CFG ch) Fl.DMA_CFG_EN && decide (1 ≤ f) && decide (f ≤ 65) && chanState d D ch == 0 && fnOn d D f && fnIssues d D f

/-- A channel pops its next descriptor (R395). A poisoned entry is consumed as for a core (R238), and completes with POISON. -/
def dmaPop (D ch : Nat) (d : Dev) : Dev :=
  let f := chanFn d D ch
  let q := fld d D (Reg.DMA_CFG ch) Fl.DMA_CFG_DQ
  if !dmaReady d D ch || qFaults d qPOP (BitVec.ofNat 64 q) (fnWho d D f).ns (fnProd d D f) then d
  else match queueAt d q with
    | none => d
    | some s =>
      if s.packed || s.framed || (popWhy s).isSome then d
      else match popEntry q d with
        | (d1, none) => d1
        | (d1, some e) =>
          let w (i : Nat) : Word := if e.poison then 0 else BitVec.ofNat 64 (lineGet e.data (8 * i) 8)
          let d2 := forAll (List.range 8) (fun i => wr D (Reg.DMA_CUR ch i) (w i)) (setChanState D ch 1 d1)
          let st := if e.poison then 3 else if badDesc f w then 7 else 0
          let d3 := updChan D ch (fun _ => ⟨0, [], 0, st, st != 0⟩) d2
          let d4 := if e.poison then qBump (headCore q s) Reg.QENG_ERR Fl.QENG_ERR_POISONED 1 d3 else d3
          dmaComplete D ch d4

/-! ### READ and WRITE (R396) -/

/-- An error of a descriptor; of several the first is kept. -/
def chanErr (D ch st : Nat) (d : Dev) : Dev := updChan D ch (fun x => { x with status := if x.status = 0 then st else x.status }) d

/-- A channel sends its next read request. -/
def dmaRead (D ch : Nat) (d : Dev) : Dev :=
  let f := chanFn d D ch
  let c := chanSt d D ch
  let len := dmaLen d D ch
  if chanState d D ch ≠ 1 ∨ dmaOp d D ch ≠ 0 ∨ c.due = true ∨ fnIssues d D f = false ∨ len ≤ c.pos then d
  else
    let a := dmaHost d D ch + c.pos
    let n := min (maxRead d D f) (min (len - c.pos) (4096 - a % 4096))
    match nonPosted D f (.chan ch) a n none d with
    | none => d
    | some d1 => updChan D ch (fun x => { x with pos := x.pos + n }) d1

/-- Whether every request of a READ has ended. -/
def readOver (d : Dev) (D ch : Nat) : Bool :=
  decide (dmaLen d D ch ≤ (chanSt d D ch).pos) && !(hspSt d D).outs.any (fun o => o.by' == .chan ch)

/-- When the last request of a READ has ended, its completion entry is due. -/
def readCheck (D ch : Nat) (d : Dev) : Dev :=
  if chanState d D ch = 1 ∧ dmaOp d D ch = 0 ∧ (chanSt d D ch).due = false ∧ readOver d D ch = true then
    updChan D ch (fun x => { x with due := true, part := [] }) d
  else d

/-- Write one device line of a READ if all of its bytes that the range covers have arrived; `la` is its line address. -/
def dmaLine (D ch la : Nat) (d : Dev) : Dev :=
  let a := dmaDev d D ch
  let lo := max a la
  let hi := min (a + dmaLen d D ch) (la + 64)
  let here := (chanSt d D ch).part.filter (fun e => decide (lo ≤ a + e.1) && decide (a + e.1 < hi))
  if here.length < hi - lo then d
  else
    let pl := placeBytes (here.map (fun e => (a + e.1, e.2.1)))
    let poison := here.any (fun e => e.2.2)
    let d0 := updChan D ch (fun x => { x with part := x.part.filter (fun e => !(decide (lo ≤ a + e.1) && decide (a + e.1 < hi))) }) d
    match unitWrite (UnitSrc.hsp D) la (fnWho d D (chanFn d D ch)) pl.1 pl.2 poison d0 with
    | (d1, .data _ _) => if poison then d1 else updChan D ch (fun x => { x with ok := x.ok + (hi - lo) }) d1
    | (d1, _) => chanErr D ch 4 d1

/-- Data of a READ arrives: `off` is its offset in the range (R396). -/
def dmaData (D ch off : Nat) (data : List Byte) (ep : Bool) (d : Dev) : Dev :=
  let a := dmaDev d D ch
  let d1 := updChan D ch (fun x => { x with part := x.part ++ data.mapIdx (fun i b => (off + i, b, ep)) }) d
  let d2 := if ep then chanErr D ch 3 d1 else d1
  forAll (List.range ((a + off + data.length + 63) / 64 - (a + off) / 64)) (fun i => dmaLine D ch (((a + off) / 64 + i) * 64)) d2

/-- The device bytes of a WRITE from offset `off`, `n` of them: read line by line; the bytes with whether any line was poisoned, and
whether any was refused. -/
def dmaFetch (D : Nat) (who : Who) (a n : Nat) (d : Dev) : Dev × List Byte × Bool × Bool :=
  let line (acc : Dev × List Byte × Bool × Bool) (la : Nat) : Dev × List Byte × Bool × Bool :=
    let lo := max a la
    let hi := min (a + n) (la + 64)
    match unitRead (UnitSrc.hsp D) la who acc.1 with
    | (d1, .data l p) => (d1, acc.2.1 ++ (List.range (hi - lo)).map (fun i => byteOf (lineGet l (lo - la + i) 1) 0), acc.2.2.1 || p, acc.2.2.2)
    | (d1, _) => (d1, acc.2.1 ++ List.replicate (hi - lo) 0, acc.2.2.1, true)
  ((List.range ((a + n + 63) / 64 - a / 64)).map (fun i => (a / 64 + i) * 64)).foldl line (d, [], false, false)

/-- A channel sends its next memory write (R396): poisoned or refused device data leaves with EP = 1 and zero bytes. -/
def dmaWrite (D ch : Nat) (d : Dev) : Dev :=
  let f := chanFn d D ch
  let c := chanSt d D ch
  let len := dmaLen d D ch
  if chanState d D ch ≠ 1 ∨ dmaOp d D ch ≠ 1 ∨ c.due = true ∨ fnIssues d D f = false ∨ len ≤ c.pos then d
  else
    let h := dmaHost d D ch + c.pos
    let a := dmaDev d D ch + c.pos
    let n := min (maxPayload d D f) (min (len - c.pos) (4096 - h % 4096))
    if !unitAwake d D a || !unitAwake d D (a + n - 1) then unitWake D (a + n - 1) (unitWake D a d)
    else
      let r := dmaFetch D (fnWho d D f) a n d
      let bad := r.2.2.1 || r.2.2.2
      let d1 := hspSend D (.memWr f h (if bad then List.replicate n 0 else r.2.1) bad) r.1
      let d2 := if r.2.2.2 then chanErr D ch 4 d1 else if r.2.2.1 then chanErr D ch 3 d1 else d1
      updChan D ch (fun x => { x with pos := x.pos + n, ok := x.ok + (if bad then 0 else n), due := decide (len ≤ x.pos + n) }) d2

/-! ### DMA_CTL (R400, R401) -/

/-- RESUME runs the halted descriptor again from its start; its requests leave once the function may issue them. -/
def dmaResume (D ch : Nat) (d : Dev) : Dev :=
  let st := chanState d D ch
  if st < 3 ∨ 5 < st ∨ (chanSt d D ch).due = true then d
  else setChanState D ch 1 (updChan D ch (fun _ => ChanSt.init) d)

/-- ABORT: a descriptor halted by Bus Master Enable completes with BME; one whose completion entry was pushed when it halted is only
left; the channel returns to IDLE. -/
def dmaAbort (D ch : Nat) (d : Dev) : Dev :=
  let st := chanState d D ch
  if (chanSt d D ch).due = true then d
  else if st = 3 then dmaComplete D ch (setChanState D ch 1 (updChan D ch (fun x => { x with status := 5, due := true }) d))
  else if st = 4 ∨ st = 5 then chanClear D ch (setChanState D ch 0 d)
  else d

/-- A write of DMA_CTL. -/
def dmaCtl (D ch : Nat) (v : Word) (d : Dev) : Dev :=
  let d1 := if getB Fl.DMA_CTL_ABORT v then dmaAbort D ch d else d
  if getB Fl.DMA_CTL_RESUME v && !getB Fl.DMA_CTL_ABORT v then dmaResume D ch d1 else d1

/-! ### Completions and timeouts -/

/-- A request ends with an error status: a channel's range takes the status, anything else fails. -/
def outError (D : Nat) (o : OutReq) (st : Nat) (d : Dev) : Dev :=
  match o.by' with
  | .chan ch => readCheck D ch (outClose D o (if o.drop then d else chanErr D ch st d))
  | _ => outClose D o (outFail D o d)

/-- The value of a configuration read that is answered with retry status (R407): the standard's value that software sees. -/
def retryValue (n : Nat) : Nat := if n = 4 then 0xFFFF0001 else 2 ^ (8 * n) - 1

/-- A completion for an outstanding request arrives (R396, R397, R400): `st` 0 successful, 1 Unsupported Request, 2 retry, 4 Completer
Abort; one whose tag is not outstanding is unexpected and has no effect. -/
def cplRecv (D tag st : Nat) (ep : Bool) (data : List Byte) (d : Dev) : Dev :=
  match outAt d D tag with
  | none => d
  | some o =>
    let last := decide (o.len ≤ o.got + data.length) || st != 0
    if o.drop then
      let d1 := bump D (Reg.FN_STATUS o.fn) Fl.FN_STATUS_CPL_DISCARD 1 d
      if last then outClose D o (outFail D o d1) else setOut D tag (fun x => { x with got := x.got + data.length }) d1
    else
      let d0 := if ep then aerNonFatal D (pfOf o.fn) 12 d else d
      match o.by' with
      | .core c =>
        let r : Option (Nat × Bool) :=
          if st = 0 then (if ep then some (0, true) else some (ofBytes (data.take o.len), false))
          else if st = 2 ∧ o.cfg = true then some (retryValue o.len, false) else none
        outClose D o (winDone c D (winOffOf o) o.len r d0)
      | .store => outClose D o d0
      | .p2p D' f t =>
        let d1 := hspSend D' (.cpl f t st ep (if ep then List.replicate data.length 0 else data)) d0
        if last then outClose D o d1 else setOut D tag (fun x => { x with got := x.got + data.length }) d1
      | .chan ch =>
        if st ≠ 0 then outError D o 1 d0
        else
          let base := o.addr - dmaHost d D ch + o.got
          let d1 := dmaData D ch base (data.take (o.len - o.got)) ep d0
          if last then readCheck D ch (outClose D o d1) else setOut D tag (fun x => { x with got := x.got + data.length }) d1

/-- An outstanding request has waited for the completion timeout (the feature table, R396, R397, R409). -/
def cplExpire (D tag : Nat) (d : Dev) : Dev :=
  match outAt d D tag with
  | none => d
  | some o =>
    if nowOf d D < o.at' + cplTimeout d D o.fn then d
    else outError D o 2 (raise D 421 (aerNonFatal D (pfOf o.fn) 14 d))

/-! ### Outbound accesses of cores (R397, R407) -/

/-- Bus address of an offset of the port window. -/
def busAddr (d : Dev) (D off : Nat) : Nat := fld d D Reg.OB_HI Fl.OB_HI_ADDR * 2 ^ 40 + off % 2 ^ 40

/-- Whether an offset of a root port's window is configuration space (R407). -/
def isEcam (d : Dev) (D off : Nat) : Bool := hspRoot d D && decide (0xFF00000000 ≤ off) && decide (off < 0xFF10000000)

/-- Whether an access is to the root port's own configuration space: device 0, function 0 of bus 0. -/
def isOwnCfg (off : Nat) : Bool := decide (off - 0xFF00000000 < 4096)

/-- A write of the root port's or a function's own configuration word. -/
def ownCfgWrite (D f off n v : Nat) (d : Dev) : Dev :=
  let dw := off / 4 % 1024
  let sh := 8 * (off % 4)
  let m := (2 ^ (8 * n) - 1) * 2 ^ sh % 2 ^ 32
  let old := BitVec.ofNat 32 (cfgRead d D f dw)
  let w1c := BitVec.ofNat 32 (cfgWord (fnKind d D f) dw 30).w1c
  let nv := ((old &&& ~~~ w1c &&& ~~~ BitVec.ofNat 32 m) ||| (BitVec.ofNat 32 (v * 2 ^ sh) &&& BitVec.ofNat 32 m))
  cfgPut D f dw nv.toNat d

/-- A core's load from a port window: not yet, an access fault, or the value with its poison mark (R397). -/
def winRead (c D off n : Nat) (d : Dev) : Dev × Option (Option (Nat × Bool)) :=
  match ((coreSt d c).win.find? (fun w => w.die == D && w.off == off && w.n == n)) with
  | some w => (d, w.res)
  | none =>
    if 2 ≤ hspMode d D then (d, some none)
    else if domState d D 95 = 1 ∨ domState d D 95 = 5 then (domReach D 95 d, none)
    else if isEcam d D off && isOwnCfg off then
      (d, some (some (cfgRead d D 0 (off / 4 % 1024) / 2 ^ (8 * (off % 4)) % 2 ^ (8 * n), false)))
    else if domOn d D 95 && fnIssues d D 1 then
      let r := if isEcam d D off then nonPosted D 1 (.core c) (off - 0xFF00000000) n (some none) d
        else nonPosted D 1 (.core c) (busAddr d D off) n none d
      match r with
      | some d1 => (updCore c (fun x => { x with win := x.win ++ [⟨D, off, n, none⟩] }) d1, none)
      | none => (d, none)
    else (d, some none)

/-- A core's store to a port window; whether it must wait (R397). -/
def winWrite (D off n v : Nat) (d : Dev) : Dev × Bool :=
  if 2 ≤ hspMode d D then (d, false)
  else if domState d D 95 = 1 ∨ domState d D 95 = 5 then (domReach D 95 d, true)
  else if isEcam d D off && isOwnCfg off then (linkDisableCheck D (ownCfgWrite D 0 off n v d), false)
  else if domOn d D 95 && fnIssues d D 1 then
    if isEcam d D off then
      match nonPosted D 1 .store (off - 0xFF00000000) n (some (some (toBytes n v))) d with
      | some d1 => (d1, false)
      | none => (d, true)
    else (hspSend D (.memWr 1 (busAddr d D off) (toBytes n v) false) d, false)
  else (bump D (Reg.FN_STATUS 1) Fl.FN_STATUS_OB_DISCARD 1 d, false)

/-! ### Rows -/

def execDmaDescriptorPop (D : Die) (ch : Fin 16) (s : State) : Host.Outcome State Fault Refusal := onDev s (dmaPop D ch)
def execDmaRead (D : Die) (ch : Fin 16) (s : State) : Host.Outcome State Fault Refusal := onDev s (dmaRead D ch)
def execDmaWrite (D : Die) (ch : Fin 16) (s : State) : Host.Outcome State Fault Refusal := onDev s (dmaWrite D ch)
def execDmaCompletionPush (D : Die) (ch : Fin 16) (s : State) : Host.Outcome State Fault Refusal := onDev s (dmaComplete D ch)
def execDmaResume (D : Die) (ch : Fin 16) (s : State) : Host.Outcome State Fault Refusal := onDev s (dmaResume D ch)
def execAbort (D : Die) (ch : Fin 16) (s : State) : Host.Outcome State Fault Refusal := onDev s (dmaAbort D ch)
def execCompletionReceived (D : Die) (tag : Nat) (st : Fin 8) (ep : Bool) (data : List Byte) (s : State) :
    Host.Outcome State Fault Refusal := onDev s (cplRecv D tag st ep data)
def execCompletionTimeout (D : Die) (tag : Nat) (s : State) : Host.Outcome State Fault Refusal := onDev s (cplExpire D tag)
def execBmeClear (D : Die) (f : Fin 66) (s : State) : Host.Outcome State Fault Refusal := onDev s (bmeClear D f)
def execQuiesceEnd (D : Die) (f : Fin 66) (s : State) : Host.Outcome State Fault Refusal := onDev s (quiesceEnd D f)
def execEnableSet (D : Die) (f : Fin 66) (which : Fin 3) (s : State) : Host.Outcome State Fault Refusal :=
  onDev s (enableSet D f which)
def execFlr (D : Die) (f : Fin 66) (s : State) : Host.Outcome State Fault Refusal := onDev s (flrStart D f)
def execFlrComplete (D : Die) (f : Fin 66) (s : State) : Host.Outcome State Fault Refusal := onDev s (flrEnd D f)
def execDStateChange (D : Die) (f : Fin 66) (d3 : Bool) (s : State) : Host.Outcome State Fault Refusal := onDev s (dState D f d3)

end Sys2Proof.Machine
end

