-- ==== Sys2Proof/Machine/HspLink.lean ====
section
/-! DEFINITION. The link of a high-speed port: up and down, retraining, PERST_N, power-management messages, and the messages of a
root port (R386, R403 to R409, R467 to R469). -/

namespace Sys2Proof.Machine

/-- Operating point of the port's domain at a rate code (R374). -/
def hspOpp (rate : Nat) : Nat := rate - 3

/-- Whether the link may train: endpoint with PERST_N deasserted, or root port that neither asserts PERST_N nor disables its link, with
its domain on and boot step 5 behind it (R467, R469). -/
def mayTrain (d : Dev) (D : Nat) : Bool :=
  domOn d D 95 && decide (3 ≤ fld d (crownDie d (D / 8)) Reg.BOOT_STATUS Fl.BOOT_STATUS_STAGE)
    && ((hspEnd d D && !perstOn d D) || (hspRoot d D && !flg d D Reg.ROOT_RST Fl.ROOT_RST_ASSERT && !linkDisable d D))

/-- Width, rate and mode of the link, and the operating point that follows the rate (R374). -/
def linkShape (D width rate : Nat) (flit : Bool) (d : Dev) : Dev :=
  oppSet D 95 (hspOpp rate) (setFld D Reg.HSP_MODE Fl.HSP_MODE_WIDTH width (setFld D Reg.HSP_MODE Fl.HSP_MODE_RATE rate
    (setFlg D Reg.HSP_MODE Fl.HSP_MODE_FLIT flit d)))

/-- The link comes up at a width and rate (R386, R409). -/
def hspLinkUp (D width rate : Nat) (flit : Bool) (d : Dev) : Dev :=
  if linkUp d D || !mayTrain d D then d else linkSet D true (linkShape D width rate flit d)

/-- The link changes width or rate, or retrains: event 417 (R409). -/
def hspRetrain (D width rate : Nat) (flit : Bool) (d : Dev) : Dev :=
  if !linkUp d D then d else raise D 417 (linkShape D width rate flit d)

/-- PERST_N is asserted toward an endpoint (R404, R406): the link and every function's configuration space are reset. -/
def perstAssert (D : Nat) (d : Dev) : Dev :=
  if !hspEnd d D || perstOn d D then d
  else
    let d1 := hspReset D (fun _ => true) (linkSet D false d)
    let d2 := setFld D Reg.HSP_MODE Fl.HSP_MODE_LSTATE (if (hspSt d D).toAck then 2 else 3) d1
    raise D 428 (setFlg D Reg.HSP_MODE Fl.HSP_MODE_PERST true d2)

/-- PERST_N is deasserted: WAKE_N is released and the link may train (R403, R467). -/
def perstDeassert (D : Nat) (d : Dev) : Dev :=
  if !hspEnd d D || !perstOn d D then d
  else
    let d1 := updHsp D (fun x => { x with toAck := false, wakeN := false }) d
    raise D 428 (setFld D Reg.HSP_MODE Fl.HSP_MODE_LSTATE 3 (setFlg D Reg.HSP_MODE Fl.HSP_MODE_PERST false d1))

/-- The host sends PME_Turn_Off, and the port answers (R404, R409). -/
def pmeTurnOff (D : Nat) (d : Dev) : Dev :=
  if !hspEnd d D || !linkUp d D then d
  else raise D 424 (hspSend D .pmeToAck (updHsp D (fun x => { x with toAck := true }) d))

/-- Device software requests a PME for a function (R403): where PME_En is 1, a PME message while the link is up, WAKE_N while it is in
L2. -/
def pmeReq (D f : Nat) (d : Dev) : Dev :=
  if !hspEnd d D || !fnExists d D f || cfgStored d D (pfOf f) 17 / 256 % 2 == 0 then d
  else if linkUp d D then hspSend D (.pme f) d
  else if fld d D Reg.HSP_MODE Fl.HSP_MODE_LSTATE = 2 then updHsp D (fun x => { x with wakeN := true }) d
  else d

/-- The link leaves electrical idle: a domain in retention wakes (R405), and a link in L1 is in L0 again. -/
def idleExit (D : Nat) (d : Dev) : Dev :=
  let d1 := if domState d D 95 = 1 then domWake D 95 2 0xFFF d else d
  if linkUp d1 D && fld d1 D Reg.HSP_MODE Fl.HSP_MODE_LSTATE == 2 then setFld D Reg.HSP_MODE Fl.HSP_MODE_LSTATE 0 d1 else d1

/-- A root port receives ERR_COR, ERR_NONFATAL or ERR_FATAL: events 434 to 436, and the bit in its Root Error Status (R408). -/
def errMessage (D sev : Nat) (d : Dev) : Dev :=
  if !hspRoot d D then d
  else
    let bit := if sev = 0 then 1 else if sev = 1 then 0x24 else 0x54
    let v := BitVec.ofNat 32 (cfgStored d D 0 76) ||| BitVec.ofNat 32 bit
    raise D (434 + sev) (updHsp D (fun x => { x with cfg := KMap.put (cfgWord 3 76 30).reset x.cfg (cfgKey 0 76) v.toNat }) d)

/-- A root port receives a PME message (R408). -/
def pmeMessage (D : Nat) (d : Dev) : Dev := if hspRoot d D then raise D 438 d else d

/-- A write of HSP.ROOT_RST (R469): ASSERT is read-only 0 outside root mode. While it is 1 the downstream hierarchy is in reset, and
the link is down. -/
def rootRst (D : Nat) (assert' : Bool) (d : Dev) : Dev :=
  if !hspRoot d D then d
  else
    let d1 := setFlg D Reg.ROOT_RST Fl.ROOT_RST_ASSERT assert' d
    if assert' then linkSet D false (closeOuts D (fun _ => true) d1) else d1

def execLinkUp (D : Die) (w : Fin 17) (rate : Fin 7) (flit : Bool) (s : State) : Host.Outcome State Fault Refusal :=
  onDev s (hspLinkUp D w rate flit)
def execLinkDown (D : Die) (s : State) : Host.Outcome State Fault Refusal := onDev s (linkSet D false)
def execLinkRetrain (D : Die) (w : Fin 17) (rate : Fin 7) (flit : Bool) (s : State) : Host.Outcome State Fault Refusal :=
  onDev s (hspRetrain D w rate flit)
def execPerstNAssert (D : Die) (s : State) : Host.Outcome State Fault Refusal := onDev s (perstAssert D)
def execPerstNDeassert (D : Die) (s : State) : Host.Outcome State Fault Refusal := onDev s (perstDeassert D)
def execPmeTurnOff (D : Die) (s : State) : Host.Outcome State Fault Refusal := onDev s (pmeTurnOff D)
def execPmeReq (D : Die) (f : Fin 66) (s : State) : Host.Outcome State Fault Refusal := onDev s (pmeReq D f)
def execElectricalIdleExit (D : Die) (s : State) : Host.Outcome State Fault Refusal := onDev s (idleExit D)
def execErrorMessageReceived (D : Die) (sev : Fin 3) (s : State) : Host.Outcome State Fault Refusal := onDev s (errMessage D sev)
def execPmeMessageReceived (D : Die) (s : State) : Host.Outcome State Fault Refusal := onDev s (pmeMessage D)
def execRootRstWrite (D : Die) (a : Bool) (s : State) : Host.Outcome State Fault Refusal := onDev s (rootRst D a)

end Sys2Proof.Machine
end

