-- ==== Sys2Proof/Machine/SliceUnits.lean ====
section
/-! DEFINITION. Scratchpad conversion, lock release, slice maintenance, slice retention and slice array errors (R172 to R188). -/

namespace Sys2Proof.Machine

/-- Whether the settings of a slice are locked: its owner is sealed (R189, the access code RWL). -/
def sliceLocked (d : Dev) (g : Nat) : Bool :=
  let w := rg d (sliceDie g) (Reg.SLICE_OWN (sliceLog g))
  getB Fl.SLICE_OWN_EN w && isSealed d (getF Fl.SLICE_OWN_PART w)

/-- A write of SLICE.SPAD_CTL (R172, R173): ignored while a conversion runs; a higher count starts one; a lower one takes effect at
once, and the released ways become empty. -/
def spadCtl (g : Nat) (v : Word) (d : Dev) : Dev :=
  let a := sliceArray d g
  let n := min 8 (getF Fl.SPAD_CTL_WAYS v)
  if sfld d a Reg.SLICE_STATUS Fl.SLICE_STATUS_SPAD_BUSY = 1 then setSfld a Reg.SLICE_STATUS Fl.SLICE_STATUS_SPAD_IGNORED 1 d
  else if sliceLocked d g then d
  else
    let d1 := setSfld a Reg.SPAD_CTL Fl.SPAD_CTL_WAYS n d
    let now := spadWays d a
    if now < n then
      setSfld a Reg.SLICE_STATUS Fl.SLICE_STATUS_SPAD_BUSY 1 (updHome a (fun x => { x with conv := some n }) d1)
    else if n < now then
      setSfld a Reg.SLICE_STATUS Fl.SLICE_STATUS_SPAD_WAYS n
        (updHome a (fun x => { x with spad := KMap.drop x.spad (fun u => decide (n * 3072 ≤ u)) }) d1)
    else d1

def execSpadCtlWrite (g : SliceId) (v : Word) (s : State) : Host.Outcome State Fault Refusal := onDev s (spadCtl g v)

/-- Recall every copy of a line, then evict the line from the LLC (R172, R184, R195). -/
def recallLine (a k : Nat) (d : Dev) : Dev :=
  let d1 := if (dirEnt d a k).any && !lineOpen d a k then run (homePump a (dirEvict a k d)) else d
  llcEvict a k d1

/-- A conversion ends (R172): dirty lines of the new ways are written back, their L2 copies recalled, the ways filled with zeros
and added to the window. -/
def spadConvert (g : Nat) (d : Dev) : Dev :=
  let a := sliceArray d g
  match (homeSt d a).conv with
  | none => d
  | some n =>
    let keys := ((homeSt d a).llc.filter (fun e => match e.2 with | some l => decide (16 - n ≤ l.way) | none => false)).map (·.1)
    let d1 := forAll keys (recallLine a) d
    let d2 := updHome a (fun x => { x with conv := none, spad := KMap.drop x.spad (fun u => decide (spadWays d a * 3072 ≤ u)) }) d1
    setSfld a Reg.SLICE_STATUS Fl.SLICE_STATUS_SPAD_BUSY 0 (setSfld a Reg.SLICE_STATUS Fl.SLICE_STATUS_SPAD_WAYS n d2)

def execScratchpadConversion (g : SliceId) (s : State) : Host.Outcome State Fault Refusal := onDev s (spadConvert g)

/-! ### Lock release (R180) -/

/-- A write of SLICE.LOCK_CTL: MAX and CLR_PART are written; CLR releases the locks of CLR_PART, CLR_ALL every lock. -/
def lockCtl (g : Nat) (v : Word) (d : Dev) : Dev :=
  let a := sliceArray d g
  let d1 := setSfld a Reg.LOCK_CTL Fl.LOCK_CTL_MAX (getF Fl.LOCK_CTL_MAX v)
    (setSfld a Reg.LOCK_CTL Fl.LOCK_CTL_CLR_PART (getF Fl.LOCK_CTL_CLR_PART v) d)
  let d2 := if getB Fl.LOCK_CTL_CLR v then releaseLocks a (fun p => p.toNat == getF Fl.LOCK_CTL_CLR_PART v) d1 else d1
  if getB Fl.LOCK_CTL_CLR_ALL v then releaseLocks a (fun _ => true) d2 else d2

def execClr (g : SliceId) (v : Word) (s : State) : Host.Outcome State Fault Refusal :=
  onDev s (lockCtl g (setB Fl.LOCK_CTL_CLR true v))
def execClrAll (g : SliceId) (v : Word) (s : State) : Host.Outcome State Fault Refusal :=
  onDev s (lockCtl g (setB Fl.LOCK_CTL_CLR_ALL true v))

/-! ### Maintenance (R183) -/

/-- A write of SLICE.MAINT: OP is written; GO with OP clean or flush starts a walk unless one runs. -/
def maintWrite (g : Nat) (v : Word) (d : Dev) : Dev :=
  let a := sliceArray d g
  if sfld d a Reg.SLICE_MAINT Fl.SLICE_MAINT_BUSY = 1 then d
  else
    let d1 := setSfld a Reg.SLICE_MAINT Fl.SLICE_MAINT_OP (getF Fl.SLICE_MAINT_OP v) d
    if getB Fl.SLICE_MAINT_GO v && decide (getF Fl.SLICE_MAINT_OP v < 2) then
      setSfld a Reg.SLICE_MAINT Fl.SLICE_MAINT_SET 0 (setSfld a Reg.SLICE_MAINT Fl.SLICE_MAINT_BUSY 1 d1)
    else d1

def execMaintClean (g : SliceId) (s : State) : Host.Outcome State Fault Refusal := onDev s (maintWrite g 4#64)
def execMaintFlush (g : SliceId) (s : State) : Host.Outcome State Fault Refusal := onDev s (maintWrite g 5#64)

/-- The keys of the lines that a slice holds or records. -/
def homeKeys (d : Dev) (a : Nat) : List Nat :=
  (homeSt d a).llc.map (·.1) ++ (((homeSt d a).dir.map (·.1)).filter (fun k => (llcLine d a k).isNone))

/-- The walk covers a line: it is cleaned, or flushed if it is not locked; the home does it as it does a maintenance request. -/
def maintLine (a op k : Nat) (d : Dev) : Dev :=
  let locked := match llcLine d a k with | some l => l.lock.isSome | none => false
  let o : COp := if op = 1 ∧ locked = false then .cmoFlush else .cmoClean
  (extRun (Msg.mk' o (.crown (sliceDie a)) (.home a) 0 (keyAddr k) ⟨0, keyNs k⟩) d).1

/-- The walk reaches its last set (R183). -/
def maintDone (g : Nat) (d : Dev) : Dev :=
  let a := sliceArray d g
  if sfld d a Reg.SLICE_MAINT Fl.SLICE_MAINT_BUSY = 1 then
    let op := sfld d a Reg.SLICE_MAINT Fl.SLICE_MAINT_OP
    setSfld a Reg.SLICE_MAINT Fl.SLICE_MAINT_SET 3072 (setSfld a Reg.SLICE_MAINT Fl.SLICE_MAINT_BUSY 0
      (forAll (homeKeys d a) (maintLine a op) d))
  else d

def execMaintComplete (g : SliceId) (s : State) : Host.Outcome State Fault Refusal := onDev s (maintDone g)

/-! ### Retention (R184, R186, R187) -/

/-- A slice becomes clean with an empty directory: every copy is recalled and every dirty line written back. -/
def sliceEmpty (a : Nat) (d : Dev) : Dev :=
  let d1 := forAll ((homeSt d a).dir.map (·.1)) (fun k d =>
    if (dirEnt d a k).any && !lineOpen d a k then run (homePump a (dirEvict a k d)) else d) d
  forAll ((homeSt d1 a).llc.map (·.1)) (llcClean a) d1

/-- A bank of 256 sets of a slice is found LOST on wake: its lines are invalidated, its locks lost, its scratchpad poisoned, and
event k = 6 raised. -/
def sliceBankLost (a bank : Nat) (d : Dev) : Dev :=
  let inBank (set : Nat) : Bool := set / 256 == bank
  let hit := (homeSt d a).llc.filter (fun e => match e.2 with | some l => inBank l.set | none => false)
  let locks := (hit.filter (fun e => match e.2 with | some l => l.lock.isSome | none => false)).length
  let d1 := forAll (hit.map (·.1)) (llcDrop a) d
  let units := (List.range (spadWays d a * 3072)).filter (fun u => inBank (u % 3072))
  let d2 := forAll units (fun u d => spadPut a u ((spadLine d a u).1, true) d) d1
  raiseSlot (sliceDie a) (sliceLog a) 6 (lockStat a (lockLost a locks d2))

/-! ### Array errors (R174, R188) -/

/-- Whether the homing domain of a partition contains a slice (R165): a partition with a home region and slices of its own homes in
those, every other one in all slices of the package. -/
def homesIn (d : Dev) (g part : Nat) : Bool :=
  let p := slicePkg g
  let own := ownedSlices d p part
  let region := (List.range 64).any (fun n => flg d (p * 8) (Reg.HOME_REG n) Fl.HOME_REG_EN
    && fld d (p * 8) (Reg.HOME_REG n) Fl.HOME_REG_PART == part)
  if region && !own.isEmpty then own.contains (g % 336) else true

/-- The Crown stops the running cores of a package whose partition homes data in a slice (R188, R436): they keep their state. -/
def stopHomed (g : Nat) (d : Dev) : Dev :=
  forAll ((List.range 320).map (slicePkg g * 320 + ·)) (fun c d =>
    if (coreSt d c).run && homesIn d g (partId d c).toNat then stopCore c true d else d) d

/-- A slice's error record. -/
def sliceRec (a cls code : Nat) : ErrRec := ErrRec.mk' cls 0x02 (sliceLog a) code

/-- Sets of a slice with a disabled way. -/
def setsOff (d : Dev) (a : Nat) : Nat := ((homeSt d a).off.map (·.1)).eraseDups.length

/-- An array error of a slice (R174, R188). -/
def sliceError (g : Nat) (e : SliceErr) (d : Dev) : Dev :=
  let a := sliceArray d g
  let D := sliceDie a
  match e with
  | .dataOne k => record D { sliceRec a 0 0x01 with addr := some (keyAddr k) } (sbump a Reg.SLICE_ERR Fl.SLICE_ERR_DATA_CE 1 d)
  | .dataTwo k =>
    match llcLine d a k with
    | none => d
    | some l =>
      if l.dirty then
        record D { sliceRec a 1 0x02 with addr := some (keyAddr k) } (sbump a Reg.SLICE_ERR Fl.SLICE_ERR_DATA_POISON 1
          (llcSetLine a k (some { l with poison := true }) d))
      else
        let v := lineValue d (keyAddr k)
        record D { sliceRec a 0 0x02 with addr := some (keyAddr k) } (sbump a Reg.SLICE_ERR Fl.SLICE_ERR_DATA_CE 1
          (llcSetLine a k (some { l with data := v.1, poison := v.2 }) (dramRead (keyAddr k) (wbWho k) d)))
  | .tagOne k => record D { sliceRec a 0 0x03 with addr := some (keyAddr k) } (sbump a Reg.SLICE_ERR Fl.SLICE_ERR_TAG_FIX 1 d)
  | .tagTwo set way =>
    let lost := (llcSetLines d a set).filter (fun x => x.2.way == way.val)
    let d1 := lockStat a (forAll (lost.map (·.1)) (llcDrop a) d)
    let d2 := if (homeSt d1 a).off.contains (set.val, way.val) then d1
      else updHome a (fun x => { x with off := x.off ++ [(set.val, way.val)] }) d1
    let d3 := setSfld a Reg.SLICE_ERR Fl.SLICE_ERR_WAYS_OFF (setsOff d2 a) d2
    stopHomed g (record D { sliceRec a 2 0x03 with info0 := set.val * 16 + way.val } d3)
  | .spadOne _ => record D (sliceRec a 0 0x01) (sbump a Reg.SLICE_ERR Fl.SLICE_ERR_DATA_CE 1 d)
  | .spadTwo u =>
    record D (sliceRec a 1 0x02) (sbump a Reg.SLICE_ERR Fl.SLICE_ERR_DATA_POISON 1
      (spadPut a u ((spadLine d a u).1, true) d))

def execSliceArrayError (g : SliceId) (e : SliceErr) (s : State) : Host.Outcome State Fault Refusal := onDev s (sliceError g e)

end Sys2Proof.Machine
end

