-- ==== Sys2Proof/Machine/Power.lean ====
section
/-! DEFINITION. Power domains: requests, holds, transitions and what they do to a domain's contents, retention checks and
wakes (R364 to R380). The state of a domain is in Domain.lean. -/

namespace Sys2Proof.Machine

/-! ### What a domain contains -/

/-- The logical slice that a physical tile's array serves as its own, by system-wide number. -/
def tileSlice (d : Dev) (D t : Nat) : Option Nat :=
  ((List.range 42).find? (fun s => flg d D (Reg.LSLICE s) Fl.LSLICE_VALID && fld d D (Reg.LSLICE s) Fl.LSLICE_PTILE == t
    && !flg d D (Reg.LSLICE s) Fl.LSLICE_REDIRECTED)).map (D * 42 + ·)

/-- Whether bridge `b` of a die is on a route (R366): the die's own DIE_BR names it, or the far die's names the other end. -/
def bridgeRouted (d : Dev) (D b : Nat) : Bool :=
  let br (E j : Nat) : Nat := fld d E Reg.ROUTE Fl.ROUTE_DIE_BR / 4 ^ j % 4
  let names (E x : Nat) : Bool := (List.range (d.cfg.ndie (E / 8))).any (fun j => j != E % 8 && br E j == x)
  let far := D / 8 * 8 + fld d D (Reg.BRG_STATUS b) Fl.BRG_STATUS_NEIGHBOUR
  names D b || (d.cfg.present far && far != D && (List.range 3).any (fun x =>
    fld d far (Reg.BRG_STATUS x) Fl.BRG_STATUS_NEIGHBOUR == D % 8 && names far x))

/-- Whether the high-speed port permits retention or off (R405). -/
def hspPermits (d : Dev) (D tgt : Nat) : Bool :=
  let l1 := linkUp d D && fld d D Reg.HSP_MODE Fl.HSP_MODE_LSTATE == 2
  let allD3 := (List.range 66).all (fun f => !fnExists d D f || fnFld d D f Fl.FN_STATUS_DSTATE == 3)
  match hspMode d D with
  | 0 => perstOn d D || (tgt == 1 && l1 && allD3)
  | 1 => linkDisable d D || (tgt == 1 && l1)
  | 2 => false
  | _ => true

/-- Whether a domain is a core or slice that a secure-world partition owns (R366); partitions in state FREE belong to no world. -/
def secureOwned (d : Dev) (D i : Nat) : Bool :=
  let own (w : Word) : Bool := getB ⟨6, 6⟩ w && fld d D (Reg.PART (getF ⟨5, 0⟩ w)) Fl.PART_STATE != 0
    && !flg d D (Reg.PART (getF ⟨5, 0⟩ w)) Fl.PART_WORLD
  if i < 44 then (match tileCore d D i with | some c => own (rg d D (Reg.CORE_OWN (coreLog c))) | none => false)
  else if i < 88 then (match tileSlice d D (i - 44) with | some g => own (rg d D (Reg.SLICE_OWN (sliceLog g))) | none => false)
  else false

/-! ### Checks (R366) -/

/-- Why a request for a state is refused, in the order of the table of R366. -/
def domRefusal (d : Dev) (D i tgt : Nat) (normal : Bool) : Option Nat :=
  let core := if i < 44 then tileCore d D i else none
  let running := match core with | some c => (coreSt d c).run | none => false
  let kept := match core with | some c => (coreSt d c).kept | none => false
  if 99 ≤ i ∨ 3 ≤ tgt ∨ domState d D i = 6 ∨ (i = 95 ∧ hspMode d D = 3 ∧ tgt ≠ 2) then some 4
  else if normal = true ∧ tgt ≠ 0 ∧ (flg d D (Reg.DOM_CTL i) Fl.DOM_CTL_SECURE_HOLD = true ∨ secureOwned d D i = true) then some 1
  else if (tgt ≠ 0 ∧ running = true) ∨ (tgt = 2 ∧ kept = true) then some 2
  else if (tgt = 2 ∧ 44 ≤ i ∧ i < 88 ∧ (tileSlice d D (i - 44)).isSome = true)
      ∨ (tgt = 2 ∧ 88 ≤ i ∧ i ≤ 94 ∧ flg d D (Reg.PORT_STATUS (i - 88)) Fl.PORT_STATUS_POPULATED = true)
      ∨ (tgt = 2 ∧ 96 ≤ i ∧ i ≤ 98 ∧ bridgeRouted d D (i - 96) = true)
      ∨ (tgt ≠ 0 ∧ i = 95 ∧ hspPermits d D tgt = false) then some 3
  else none

/-! ### Outcomes -/

/-- The outcome of a request (R366): to RESULT for the secure side; for the normal side under the request's number, to the
mailbox that waits for it (R427), and in PWR.NS_DOMRES if it is the last one of the die. -/
def domOut (D i : Nat) (r : DomReq) (code : Nat) (d : Dev) : Dev :=
  if r.side = 0 then setFld D (Reg.DOM_STATUS i) Fl.DOM_STATUS_RESULT code d
  else if r.side = 1 then
    let d1 := mbxOutcome D r.num code (updDie D (fun x => { x with nsOut := KMap.put 15 x.nsOut r.num code }) d)
    if (dieSt d D).nsSeq = r.num then
      setFld D Reg.NS_DOMRES Fl.NS_DOMRES_RESULT code (setFlg D Reg.NS_DOMRES Fl.NS_DOMRES_DONE true d1)
    else d1
  else d

/-- A refusal with DENIED_SECURE: event 483 and a corrected-class record that names the domain and the normal side (R367). -/
def deniedSecure (D i : Nat) (r : DomReq) (d : Dev) : Dev :=
  let who : Who := ⟨BitVec.ofNat 6 (fld d D Reg.HYP_PART Fl.HYP_PART_NS_HYP), true⟩
  domOut D i r 1 (raise D 483 (record D { ErrRec.mk' 0 0x0C i 0x16 with who := some who } d))

/-- A refused request changes nothing else. -/
def domRefuse (D i : Nat) (r : DomReq) (code : Nat) (d : Dev) : Dev :=
  if code = 1 then deniedSecure D i r d else domOut D i r code d

/-! ### Requests (R366) -/

/-- A transition starts. -/
def domStart (D i : Nat) (r : DomReq) (d : Dev) : Dev :=
  let d1 := updDom D i (fun x => { x with cur := some r, was := domState d D i, since := nowOf d D }) (voltMark D i d)
  setDomState D i (if r.tgt = 0 then 5 else if r.tgt = 1 then 3 else 4) (setFld D (Reg.DOM_CTL i) Fl.DOM_CTL_REQ r.tgt d1)

/-- A request is checked, then held, done at once, or started; a held request that another replaces gives REPLACED. -/
def domRequest (D i : Nat) (r : DomReq) (d : Dev) : Dev :=
  match domRefusal d D i r.tgt (r.side == 1) with
  | some c => domRefuse D i r c d
  | none =>
    let st := domState d D i
    if 3 ≤ st ∧ st ≤ 5 then
      let d1 := match (domSt d D i).held with | some h => domOut D i h 6 d | none => d
      setFld D (Reg.DOM_CTL i) Fl.DOM_CTL_REQ r.tgt (updDom D i (fun x => { x with held := some r }) d1)
    else if st = r.tgt ∨ (i = 95 ∧ hspMode d D = 3) then setFld D (Reg.DOM_CTL i) Fl.DOM_CTL_REQ r.tgt (domOut D i r 0 d)
    else domStart D i r d

/-- The held request is applied when a transition has ended. -/
def domHeld (D i : Nat) (d : Dev) : Dev :=
  match (domSt d D i).held with
  | some r => domRequest D i r (updDom D i (fun x => { x with held := none }) d)
  | none => d

/-- A request of the normal side, with its number on the die (R366). -/
def domNormal (D i tgt : Nat) (d : Dev) : Dev :=
  let n := (dieSt d D).nsSeq + 1
  let d1 := updDie D (fun x => { x with nsSeq := n }) d
  let d2 := wr D Reg.NS_DOMRES (BitVec.ofNat 64 (i % 128 + 15 * 2 ^ 8)) d1
  if 101 ≤ i then domOut D i ⟨tgt, 1, 0, 0xFFF, n⟩ 4 d2 else domRequest D i ⟨tgt, 1, 0, 0xFFF, n⟩ d2

/-! ### SECURE_HOLD and voltage (R368, R369, R375, R376) -/

/-- SECURE_HOLD is set. A normal-side transition that is not yet committed is cancelled; on a domain that is not on, the hold is a
secure-side request for on. Whether it made one. -/
def holdSet (D i : Nat) (d : Dev) : Dev × Bool :=
  let d0 := setFlg D (Reg.DOM_CTL i) Fl.DOM_CTL_SECURE_HOLD true d
  let st := domState d D i
  let x := domSt d D i
  let cancel := (st = 3 ∨ st = 4) && (match x.cur with | some r => r.side == 1 | none => false)
  if cancel then
    let d1 := match x.cur with | some r => deniedSecure D i r d0 | none => d0
    let d2 := setFld D (Reg.DOM_CTL i) Fl.DOM_CTL_REQ 0 (voltMark D i d1)
    if x.was = 0 then (domHeld D i (setDomState D i 0 (updDom D i (fun y => { y with cur := none }) d2)), true)
    else (setDomState D i 5 (updDom D i (fun y => { y with cur := some ⟨0, 0, 3, 0xFFF, 0⟩, since := nowOf d D }) d2), true)
  else if st = 0 ∨ 99 ≤ i then (d0, false)
  else (domRequest D i ⟨0, 0, 3, 0xFFF, 0⟩ d0, true)

/-- A write of VOLT; whether it is refused with ORDER (R375, R376). The voltage of the Crown domain is fixed (R364). -/
def voltWrite (D i v : Nat) (d : Dev) : Dev × Bool :=
  if i = 100 ∨ v = fld d D (Reg.DOM_CTL i) Fl.DOM_CTL_VOLT then (d, false)
  else if domClocked i = true ∧ v < oppMin i (fld d D (Reg.DOM_CTL i) Fl.DOM_CTL_OPP) then (raise D 488 d, true)
  else (setFld D (Reg.DOM_CTL i) Fl.DOM_CTL_VOLT v (voltMark D i d), false)

/-- A write of PWR.DOM_CTL (R366 to R369, R375, R384): a secure-side request whose outcome is written to RESULT. -/
def domCtlWrite (D i : Nat) (v : Word) (d : Dev) : Dev :=
  let d1 := setFld D (Reg.DOM_CTL i) Fl.DOM_CTL_RET_V (getF Fl.DOM_CTL_RET_V v) d
  let r2 := voltWrite D i (getF Fl.DOM_CTL_VOLT v) d1
  let r3 := if getB Fl.DOM_CTL_SECURE_HOLD v then holdSet D i r2.1
    else (setFlg D (Reg.DOM_CTL i) Fl.DOM_CTL_SECURE_HOLD false r2.1, false)
  let req := getF Fl.DOM_CTL_REQ v
  let side := if r2.2 then 2 else 0
  let d4 := if r3.2 then r3.1
    else if req = 3 then domOut D i ⟨3, side, 0, 0xFFF, 0⟩ 0 r3.1
    else if req = domState d D i then setFld D (Reg.DOM_CTL i) Fl.DOM_CTL_REQ req (domOut D i ⟨req, side, 0, 0xFFF, 0⟩ 0 r3.1)
    else domRequest D i ⟨req, side, 0, 0xFFF, 0⟩ r3.1
  if r2.2 then setFld D (Reg.DOM_STATUS i) Fl.DOM_STATUS_RESULT 5 d4 else d4

/-! ### Entering retention and off (R370) -/

def brgSt (d : Dev) (D b : Nat) : BrgSt := KMap.look BrgSt.init d.brgs (D * 3 + b)
def updBrg (D b : Nat) (f : BrgSt → BrgSt) (d : Dev) : Dev := { d with brgs := KMap.modify BrgSt.init d.brgs (D * 3 + b) f }

/-- The bridge at the far end (R258): system die and bridge number. -/
def brgFar (d : Dev) (D b : Nat) : Nat × Nat :=
  (D / 8 * 8 + fld d D (Reg.BRG_STATUS b) Fl.BRG_STATUS_NEIGHBOUR, if b = 0 then 0 else 3 - b)

/-- Whether no frame of a bridge awaits acknowledgement, in either direction. -/
def bridgeIdle (d : Dev) (D b : Nat) : Bool :=
  (brgSt d D b).unack.isNone && (brgSt d (brgFar d D b).1 (brgFar d D b).2).unack.isNone


/-- L2 evicts the lines of a core that satisfy `p`, each to its end. -/
def evictWhere (c : Nat) (p : L2State → Bool) (d : Dev) : Dev :=
  forAll ((cacheSt d c).l2.filterMap (fun e => match e.2 with | some l => if p l.st then some e.1 else none | none => none))
    (fun k d => if victFree d c then run (l2Evict c k d) else d) d

/-- Whether a core holds no line that satisfies `p`, and none on its way out. -/
def evicted (d : Dev) (c : Nat) (p : L2State → Bool) : Bool :=
  (cacheSt d c).vict.isEmpty && (cacheSt d c).l2.all (fun e => match e.2 with | some l => !p l.st | none => true)

/-- The entry conditions of retention or off are met and the contents dealt with as R370 gives; false while something is not yet
done. -/
def domEnter (D i : Nat) (off : Bool) (d : Dev) : Dev × Bool :=
  if i < 44 then
    match tileCore d D i with
    | none => (d, true)
    | some c =>
      let out (s : L2State) : Bool := off || s != .S
      let d1 := evictWhere c out (sbDrainAll c d)
      let d2 := if off then forAll (qEng d1 c).slots (fun q d => if slotFree d c q then slotRelease c q d else d) d1 else d1
      let ok := evicted d2 c out && (cacheSt d2 c).sb.isEmpty && (!off || (qEng d2 c).slots.isEmpty)
      if !ok then (d2, false)
      else if off then (updCache c (fun x => { CacheSt.init with off := x.off, txn := x.txn }) d2, true)
      else (updCache c (fun x => { x with l1d := [], l1i := [] }) d2, true)
  else if i < 88 then
    match tileSlice d D (i - 44) with
    | none => (d, true)
    | some g =>
      let d1 := sliceEmpty g d
      (d1, (homeSt d1 g).txns.isEmpty && (homeSt d1 g).dir.all (fun e => !e.2.any)
        && (homeSt d1 g).llc.all (fun e => match e.2 with | some l => !l.dirty | none => true))
  else if i ≤ 94 then
    let k := D * 7 + (i - 88)
    if !(portSt d k).slots.isEmpty || !(portSt d k).hold.isEmpty then (d, false)
    else
      let st := fld d D (Reg.PORT_STATUS (i - 88)) Fl.PORT_STATUS_STATE
      (setFld D (Reg.PORT_STATUS (i - 88)) Fl.PORT_STATUS_STATE (if st = 3 then 5 else st) (checkFlush k d), true)
  else if i = 95 then
    if off then (hspOff d, true) else (d, true)
  else if bridgeIdle d D (i - 96) then
    -- off loses the training results (R370)
    (if off then updBrg D (i - 96) (fun _ => BrgSt.init) (wr D (Reg.BRG_STATUS (i - 96))
      (setF Fl.BRG_STATUS_NEIGHBOUR (fld d D (Reg.BRG_STATUS (i - 96)) Fl.BRG_STATUS_NEIGHBOUR) 0) d) else d, true)
  else (d, false)
where
  /-- What the port's domain keeps in retention is lost (R405). -/
  hspOff (d : Dev) : Dev :=
    let w (d : Dev) (n : Nat) : Dev := wr D (Reg.WIN_CTL n) (regReset (Reg.WIN_CTL n)) (wr D (Reg.WIN_BASE n) 0 d)
    let d1 := (List.range 17).foldl w (hspReset D (fun _ => true) (linkSet D false d))
    let d2 := forAll (List.range 1280) (fun n => wr D (Reg.DB_MAP n) 0) d1
    let ch (c : Nat) (d : Dev) : Dev := wr D (Reg.DMA_STATUS c) 0 (chanClear D c d)
    { forAll (List.range 16) ch d2 with hsps := KMap.put HspSt.init d2.hsps D { HspSt.init with sent := (hspSt d2 D).sent } }

/-! ### Leaving retention (R372, R380) -/

/-- Banks of a domain with retention: 16 of L2, the queue window and the state bank of a core; 12 of a slice. -/
def domBanks (i : Nat) : Nat := if i < 44 then 18 else if i < 88 then 12 else 0

/-- A bank of a core's domain is LOST. L2 bank b holds sets 64b to 64b + 63 (log entry 16). -/
def coreBankLost (D i c b : Nat) (d : Dev) : Dev :=
  if b < 16 then
    let hit := (cacheSt d c).l2.filterMap (fun e => match e.2 with | some l => if l.set / 64 == b then some e.1 else none | none => none)
    forAll hit (fun k d => updCache c (fun x => { x with lost := x.lost ++ [k] }) (l2Put c k none d)) d
  else if b = 16 then
    let taint (s : QueueSt) : QueueSt := { s with win := s.win.map (fun e => { e with poison := true }) }
    let mine (q : Nat) (d : Dev) : Dev := match queueAt d q with
      | some s => if headCore q s = c then updQueue q taint d else d
      | none => d
    forAll (qEng d c).slots mine d
  else
    record D (ErrRec.mk' 2 0x0C i 0x15) (setFlg D (Reg.DOM_STATUS i) Fl.DOM_STATUS_STATE_LOST true
      (if (coreSt d c).kept then stopCore c false d else d))

/-- A LOST bank. -/
def bankLost (D i b : Nat) (d : Dev) : Dev :=
  if i < 44 then (match tileCore d D i with | some c => coreBankLost D i c b d | none => d)
  else match tileSlice d D (i - 44) with | some g => sliceBankLost g b d | none => d

/-- The check on wake from retention: `vlow` is the lowest voltage latched, `lost` the banks whose canaries do not read back (R372). -/
def wakeCheck (D i vlow : Nat) (lost : List Nat) (d : Dev) : Dev :=
  let banks := if vlow < Config.retVmin D i then List.range (domBanks i) else (List.range (domBanks i)).filter (fun b => lost.contains b)
  let d1 := setFld D (Reg.DOM_STATUS i) Fl.DOM_STATUS_LOST_BANKS banks.length (setFld D (Reg.DOM_STATUS i) Fl.DOM_STATUS_VMIN_LATCH vlow d)
  if banks.isEmpty then d1
  else raise D 484 (record D { ErrRec.mk' 1 0x0C i 0x15 with info0 := banks.length }
    (setFlg D (Reg.DOM_STATUS i) Fl.DOM_STATUS_LOST_EVT true (forAll banks (bankLost D i) d1)))

/-! ### Cores that run and stop (R377, R378) -/

/-- A core whose domain is on starts: with its kept state at the next instruction, else as after reset at PWR.ENTRY. -/
def startCore (c : Nat) (d : Dev) : Dev :=
  let D := coreDie c
  let go (x : CoreSt) : CoreSt :=
    if x.kept then { x with run := true, kept := false, wakeEv := false, wantRun := false }
    else { CoreSt.init with run := true, tokens := x.tokens,
                            arch := { Arch.init with pc := rg d D (Reg.PWR_ENTRY (coreLog c)) &&& 0xFFFFFFFFFFFFFFFC#64 } }
  pairStart D (coreTile d c) (updCore c go d)

/-- RUN (R378): a domain in retention or off, or on its way there, is first woken. -/
def runCore (c cause ev : Nat) (d : Dev) : Dev :=
  let D := coreDie c
  let i := coreTile d c
  if (coreSt d c).run then d
  else if domOn d D i then startCore c d
  else domRequest D i ⟨0, 2, cause, ev, 0⟩ (updCore c (fun x => { x with wantRun := true }) d)

/-- Whether a command is admitted (R377): 1 RUN, 2 STOP, 3 STOP_RELEASE. -/
def runAllowed (d : Dev) (c cmd : Nat) (who : Who) : Bool :=
  let D := coreDie c
  let w := rg d D (Reg.CORE_OWN (coreLog c))
  let keptOk := cmd != 1 || (coreSt d c).kept
  if who = Who.platform then true
  else if getB Fl.CORE_OWN_EN w then
    getF Fl.CORE_OWN_PART w == who.part.toNat && flg d D (Reg.PART who.part.toNat) Fl.PART_WORLD == who.ns && keptOk
  else fld d D Reg.HYP_PART (if who.ns then Fl.HYP_PART_NS_HYP else Fl.HYP_PART_S_HYP) == who.part.toNat && keptOk

/-- Whether the register admits a requester at all (R377): partition 0 in the secure world; the partition that ISO.CORE_OWN names, in
its world; with EN = 0 a partition that ISO.HYP_PART names, each in its world. -/
def runParty (d : Dev) (c : Nat) (who : Who) : Bool := runAllowed d c 2 who

/-- A write of PWR.RUNCTL of a logical core (R377, R378): 0b00 has no effect; a write that R377 does not admit at all is not performed
(R329), and an admitted writer's command that is not its own to give ends with DENIED. -/
def runCtl (D c cmd : Nat) (wakeEv : Bool) (who : Who) (d : Dev) : Dev :=
  let k := D * 40 + c
  let res (r : Nat) (d : Dev) : Dev := setFld D (Reg.RUNCTL c) Fl.RUNCTL_RESULT r d
  if cmd = 0 ∨ runParty d k who = false then d
  else if !flg d D (Reg.LCORE c) Fl.LCORE_VALID then res 2 d
  else if !runAllowed d k cmd who then res 1 d
  else if cmd = 1 then res 0 (runCore k 1 0xFFF d)
  else if cmd = 2 then
    res 0 (if (coreSt d k).run then updCore k (fun x => { x with wakeEv := wakeEv }) (stopCore k true d) else d)
  else res 0 (stopCore k false d)

/-- An enabled event becomes pending for a core that was stopped with WAKE_EV (R378): it acts as RUN. -/
def wakeByEvent (c ev : Nat) (d : Dev) : Dev :=
  if !(coreSt d c).run && (coreSt d c).kept && (coreSt d c).wakeEv then
    runCore c 5 ev (updCore c (fun x => { x with wakeEv := false }) d)
  else d

/-- The wake that a pending source gives its target core. -/
def wakeBySource (D n : Nat) (d : Dev) : Dev :=
  let w := rg d D (Reg.EVC_ROUTE n)
  if getB Fl.EVC_ROUTE_EN w && getB Fl.EVC_ROUTE_PENDING w && targetValid d D w then
    wakeByEvent (routeCore D w) (D % 8 * 512 + n) d
  else d

/-- A raised event reaches its controller (R349), and may wake its core. -/
def arriveWake (D n : Nat) (d : Dev) : Dev := wakeBySource D n (arrive D n d)

/-- A write of a route (R352), which may make a pending event one for a stopped core. -/
def routeWriteWake (D n : Nat) (v : Word) (d : Dev) : Dev := wakeBySource D n (routeWrite D n v d)

/-- A virtual event becomes pending for a core (R351), and may wake it. -/
def virtualWake (c : Nat) (ns : Bool) (v : Nat) (d : Dev) : Dev := wakeByEvent c 0xFFF (virtualPend c ns v d)

/-! ### The end of a transition (R371 to R373) -/

/-- Messages that waited for a slice reach it. -/
def redeliver (D t : Nat) (d : Dev) : Dev :=
  let mine (m : Msg) : Bool := match m.dst with
    | .home g => sliceDie g == D && sliceTile d g == t
    | _ => false
  run ({ d with net := d.net.filter (fun m => !mine m) }, d.net.filter mine)

/-- A domain is on again. -/
def domAwake (D i vlow : Nat) (lost : List Nat) (d : Dev) : Dev :=
  let x := domSt d D i
  let d1 := if x.was = 1 then wakeCheck D i vlow lost d
    else setFld D (Reg.DOM_STATUS i) Fl.DOM_STATUS_LOST_BANKS 0 d
  let d2 := updDom D i (fun y => { y with cur := none }) (setDomState D i 0 (voltMark D i d1))
  let d3 := match x.cur with
    | some r => domOut D i r 0 (recordWake D i r.cause r.ev x.since d2)
    | none => d2
  let d4 := if 88 ≤ i ∧ i ≤ 94 ∧ fld d3 D (Reg.PORT_STATUS (i - 88)) Fl.PORT_STATUS_STATE = 5 then
      setFld D (Reg.PORT_STATUS (i - 88)) Fl.PORT_STATUS_STATE 3 d3
    else if 96 ≤ i ∧ i ≤ 98 ∧ x.was = 2 then setFld D (Reg.BRG_STATUS (i - 96)) Fl.BRG_STATUS_STATE 1 d3
    else if 44 ≤ i ∧ i < 88 then redeliver D (i - 44) d3 else d3
  if i < 44 then
    match tileCore d4 D i with
    | some c => if (coreSt d4 c).wantRun then startCore c d4 else d4
    | none => d4
  else d4

/-- A transition ends, if its entry condition is met (R370): the outcome DONE, and the held request is applied. `vlow` and `lost` are
what the checks on wake find. -/
def domEnd (D i vlow : Nat) (lost : List Nat) (d : Dev) : Dev :=
  match domState d D i with
  | 3 =>
    let r := domEnter D i false d
    if r.2 then done 1 r.1 else r.1
  | 4 =>
    let r := domEnter D i true d
    if r.2 then done 2 r.1 else r.1
  | 5 => domHeld D i (domAwake D i vlow lost d)
  | _ => d
where
  /-- The domain has reached retention or off. -/
  done (st : Nat) (d : Dev) : Dev :=
    let cur := (domSt d D i).cur
    let d1 := updDom D i (fun y => { y with cur := none }) (setDomState D i st (voltMark D i d))
    domHeld D i (match cur with | some r => domOut D i r 0 d1 | none => d1)

/-! ### Rows -/

/-- DOM_CTL with another REQ. -/
def domCtlReq (D i req : Nat) (d : Dev) : Dev := domCtlWrite D i (setF Fl.DOM_CTL_REQ req (rg d D (Reg.DOM_CTL i))) d

def execDomainOn (D : Die) (i : Fin 101) (s : State) : Host.Outcome State Fault Refusal := onDev s (domCtlReq D i 0)
def execDomainRetention (D : Die) (i : Fin 101) (s : State) : Host.Outcome State Fault Refusal := onDev s (domCtlReq D i 1)
def execDomainOff (D : Die) (i : Fin 101) (s : State) : Host.Outcome State Fault Refusal := onDev s (domCtlReq D i 2)
def execSecureHold (D : Die) (i : Fin 101) (s : State) : Host.Outcome State Fault Refusal :=
  onDev s (fun d => domCtlWrite D i (setB Fl.DOM_CTL_SECURE_HOLD true (rg d D (Reg.DOM_CTL i))) d)
def execVoltWrite (D : Die) (i : Fin 101) (mv : BitVec 12) (s : State) : Host.Outcome State Fault Refusal :=
  onDev s (fun d => domCtlWrite D i (setF Fl.DOM_CTL_VOLT mv.toNat (rg d D (Reg.DOM_CTL i))) d)
def execNsDomreq (D : Die) (i : BitVec 7) (req : BitVec 2) (s : State) : Host.Outcome State Fault Refusal :=
  onDev s (domNormal D i.toNat req.toNat)
def execRun (c : CoreId) (w : Who) (s : State) : Host.Outcome State Fault Refusal :=
  onDev s (runCtl (coreDie c) (coreLog c) 1 false w)
def execStop (c : CoreId) (wakeEv : Bool) (w : Who) (s : State) : Host.Outcome State Fault Refusal :=
  onDev s (runCtl (coreDie c) (coreLog c) 2 wakeEv w)
def execStopRelease (c : CoreId) (w : Who) (s : State) : Host.Outcome State Fault Refusal :=
  onDev s (runCtl (coreDie c) (coreLog c) 3 false w)

end Sys2Proof.Machine
end

