-- ==== Sys2Proof/Machine/Governor.lean ====
section
/-! DEFINITION. The package power governor, the fast clamp, junction temperature and regulator phases (R362, R381 to R384). -/

namespace Sys2Proof.Machine

/-- Set a field of PWR.PKG_STATUS on every die of a package. -/
def pkgStatus (p : Nat) (f : Fld) (v : Nat) (d : Dev) : Dev := forAll (d.cfg.diesOf p) (fun D => setFld D Reg.PKG_STATUS f v) d

/-- A field of PWR.PKG_STATUS as the package Crown keeps it. -/
def pkgField (d : Dev) (p : Nat) (f : Fld) : Nat := fld d (p * 8) Reg.PKG_STATUS f

/-- Write the common cap to PKG_CAP of every core of every die (R381). -/
def capWrite (p cap : Nat) (d : Dev) : Dev :=
  let d1 := forAll (d.cfg.diesOf p) (fun D => forAll (List.range 44) (fun t =>
    setFld D (Reg.PACE_STATUS t) Fl.PACE_STATUS_PKG_CAP (min cap 0xFFFF))) (pkgStatus p Fl.PKG_STATUS_CAP (min cap 0xFFFF) d)
  updPkg p (fun x => { x with cap64At := if cap = 64 then (match x.cap64At with | some t => some t | none => some (nowOf d (crownDie d p))) else none }) d1

/-- Phases missing from the 32 that carry a die's load (R362). -/
def phasesMissing (d : Dev) (D : Nat) : Nat :=
  32 - ((List.range 36).filter (fun i => (rg d D Reg.PHASE_STATUS).getLsbD i)).length

/-- The package limit in W: LIMIT_W, at most the maximum of the ordering code (R384). -/
def limitW (d : Dev) (p : Nat) : Nat := min (fld d (p * 8) Reg.PKG_LIMIT Fl.PKG_LIMIT_LIMIT_W) (maxPower (d.cfg.ndie p))

/-- `derate_w`: each die's share of the limit is lowered by 1/32 for each missing phase (R362). -/
def derateW (d : Dev) (p : Nat) : Nat :=
  limitW d p * ((d.cfg.diesOf p).foldl (fun n D => n + phasesMissing d D) 0) / (32 * max 1 (d.cfg.ndie p))

/-- Whether a die's hottest junction is above its THROTTLE, at most 110 °C (R383, R384). -/
def tooHot (d : Dev) (D : Nat) : Bool :=
  decide (min 110 (fld d D Reg.THERM_CTL Fl.THERM_CTL_THROTTLE) < fld d D Reg.THERM_STATUS Fl.THERM_STATUS_TJ_MAX)

/-- The limit that a governor step works with (R381). -/
def govLimit (d : Dev) (p w : Nat) : Nat :=
  let lim := limitW d p - derateW d p
  if (d.cfg.diesOf p).any (tooHot d) then min lim (w * 97 / 100) else lim

/-- The next common cap (R381): `w` the mean power in W, `hi` the highest rate used. -/
def govCap (cap w lim hi : Nat) : Nat :=
  if lim < w then
    let c := if cap = 0 then hi else cap
    max 64 (c - c * (w - lim) / w)
  else if cap ≠ 0 ∧ w < lim * 95 / 100 then
    let c := cap + cap / 16
    if hi < c then 0 else c
  else cap

/-- A governor step (R381, R382): nothing while GOV_EN is 0, beyond the measured power. -/
def govStep (p w hi : Nat) (d : Dev) : Dev :=
  let d0 := pkgStatus p Fl.PKG_STATUS_POWER_W (min w 0xFFFF) d
  if d.cfg.ndie p = 0 then d
  else if !flg d (p * 8) Reg.PKG_LIMIT Fl.PKG_LIMIT_GOV_EN then d0
  else
    let old := pkgField d p Fl.PKG_STATUS_CAP
    let lim := govLimit d p w
    let cap := govCap old w lim hi
    let d1 := capWrite p cap d0
    let unmet := pkgField d p Fl.PKG_STATUS_UNMET
    let long := match (pkgSt d1 p).cap64At with | some t => decide (t + 10000000 ≤ nowOf d (crownDie d p)) | none => false
    let unmet' := if w ≤ lim then 0 else if long then 1 else unmet
    let d2 := pkgStatus p Fl.PKG_STATUS_UNMET unmet' d1
    if (old = 0) ≠ (cap = 0) ∨ unmet ≠ unmet' then raisePkg p 482 d2 else d2

def execGovernorStep (p : Pkg) (w : Nat) (hi : Nat) (s : State) : Host.Outcome State Fault Refusal := onDev s (govStep p w hi)

/-- The fast clamp (R382): the VIN current, in A, exceeds ICC_MAX, of which values above 640 count as 640. -/
def fastClamp (p amps : Nat) (d : Dev) : Dev :=
  if amps ≤ min 640 (fld d (p * 8) Reg.PKG_LIMIT Fl.PKG_LIMIT_ICC_MAX) ∨ d.cfg.ndie p = 0 then d
  else raisePkg p 482 (pkgStatus p Fl.PKG_STATUS_FAST_CLAMP 1 (capWrite p 64 (updPkg p (fun x => { x with clamped := true }) d)))

def execFastClamp (p : Pkg) (amps : Nat) (s : State) : Host.Outcome State Fault Refusal := onDev s (fastClamp p amps)

/-- Events 480 and 481 for the present hottest junction (R383): each once when it rises to its threshold, and again only after a fall of at
least 2 °C below it. -/
def thermCheck (D : Nat) (d : Dev) : Dev :=
  let t := fld d D Reg.THERM_STATUS Fl.THERM_STATUS_TJ_MAX
  let warn := fld d D Reg.THERM_CTL Fl.THERM_CTL_WARN
  let x := dieSt d D
  let d1 := if x.warnArmed ∧ warn ≤ t then
      raise D 480 (setFlg D Reg.THERM_STATUS Fl.THERM_STATUS_WARN_SEEN true (updDie D (fun y => { y with warnArmed := false }) d))
    else if t + 2 ≤ warn then updDie D (fun y => { y with warnArmed := true }) d else d
  if x.tripArmed ∧ 110 ≤ t then
    raise D 481 (setFlg D Reg.THERM_STATUS Fl.THERM_STATUS_NEAR_TRIP true (updDie D (fun y => { y with tripArmed := false }) d1))
  else if t + 2 ≤ 110 then updDie D (fun y => { y with tripArmed := true }) d1 else d1

/-- The hottest junction of a die and the sensor that gave it. -/
def thermSample (D sensor t : Nat) (d : Dev) : Dev :=
  thermCheck D (setFld D Reg.THERM_STATUS Fl.THERM_STATUS_SENSOR sensor (setFld D Reg.THERM_STATUS Fl.THERM_STATUS_TJ_MAX t d))

def execThermalSample (D : Die) (sensor t : BitVec 8) (s : State) : Host.Outcome State Fault Refusal :=
  onDev s (thermSample D sensor.toNat t.toNat)

/-- A write of PWR.THERM_CTL (R383, R384). -/
def thermCtl (D : Nat) (v : Word) (d : Dev) : Dev := thermCheck D (wr D Reg.THERM_CTL (v &&& 0xFFFF#64) d)

/-- A regulator phase fails its current-share check (R362): it leaves service, a spare takes its place while one is left, event 486,
a record, and the derating of the package while fewer than 32 are in service. -/
def phaseFail (D ph : Nat) (d : Dev) : Dev :=
  let w := rg d D Reg.PHASE_STATUS
  if !w.getLsbD ph then d
  else
    let left := getF Fl.PHASE_STATUS_SPARES_LEFT w
    let out := getF Fl.PHASE_STATUS_IN_SERVICE w - 2 ^ ph
    let inn := if left = 0 then out else out + 2 ^ (36 - left)
    let d1 := wr D Reg.PHASE_STATUS (setF Fl.PHASE_STATUS_IN_SERVICE inn (setF Fl.PHASE_STATUS_SPARES_LEFT (left - 1) w)) d
    let d2 := raise D 486 (record D { ErrRec.mk' 0 0x09 ph 0x17 with info1 := if left = 0 then 0 else 36 - left } d1)
    let p := D / 8
    pkgStatus p Fl.PKG_STATUS_DERATED (b2n ((d2.cfg.diesOf p).any (fun E => 0 < phasesMissing d2 E))) d2

def execPhaseFailure (D : Die) (ph : Fin 36) (s : State) : Host.Outcome State Fault Refusal := onDev s (phaseFail D ph)

end Sys2Proof.Machine
end

