-- ==== Sys2Proof/Machine/Reserve.lean ====
section
/-! DEFINITION. Fatal faults, supply samples, the thermal trip, and Reserve mode: its entry and its exit (R363, R437, R447 to R451,
R481). -/

namespace Sys2Proof.Machine

/-! ### Causes (R437, R447) -/

/-- Whether a package is in Reserve mode. -/
def pkgReserve (d : Dev) (p : Nat) : Bool := inReserve d (p * 8)

/-- The present packages. -/
def packages (d : Dev) : List Nat := (List.range 4).filter (fun p => decide (0 < d.cfg.ndie p))

/-- Set a field of RAS.RESERVE on every die of a package. -/
def reserveFld (p : Nat) (f : Fld) (v : Nat) (d : Dev) : Dev := forAll (d.cfg.diesOf p) (fun D => setFld D Reg.RAS_RESERVE f v) d

/-- A cause is detected (R448, step 1): PKG_CAP of every core becomes 64 at once, and Reserve mode is to be entered. A cause that
arises during an exit ends the exit (R451), one during a warm reset ends that (R466). One that arises in Reserve mode, or while an entry is under way, changes nothing. -/
def reserveCause (p cause : Nat) (d : Dev) : Dev :=
  let exiting := flg d (p * 8) Reg.RAS_RESERVE Fl.RAS_RESERVE_EXITING
  if d.cfg.ndie p = 0 ∨ (pkgSt d p).resv.isSome = true ∨ (pkgReserve d p = true ∧ exiting = false) then d
  else capWrite p 64 (updPkg p (fun x => { x with resv := some cause, warm := false }) (reserveFld p Fl.RAS_RESERVE_EXITING 0 d))

/-- A package enters for a cause of its own: the system Crown sends RESERVE_ENTER to every other package (R447). -/
def reserveAll (p cause : Nat) (d : Dev) : Dev :=
  forAll ((packages d).filter (· != p)) (fun q => reserveCause q 4) (reserveCause p cause d)

/-- A fatal fault (R435, R437): a record of class 3 and Reserve mode with cause 3. -/
def fatal (D kind unit code : Nat) (d : Dev) : Dev :=
  reserveAll (D / 8) 3 (updPkg (D / 8) (fun x => { x with fatal := true }) (record D (ErrRec.mk' 3 kind unit code) d))

/-- Whether the package holds FAULT_N asserted (R423, R440): in Reserve mode for cause 3, and while the boot ROM is in recovery. -/
def faultN (d : Dev) (p : Nat) : Bool :=
  (pkgReserve d p && fld d (p * 8) Reg.RAS_RESERVE Fl.RAS_RESERVE_CAUSE == 3)
    || fld d (crownDie d p) Reg.BOOT_STATUS Fl.BOOT_STATUS_STOP == 1

/-! ### The steps of entry (R448) -/

/-- The logical cores of a package, by system-wide number. -/
def coresOf (d : Dev) (p : Nat) : List Nat := (d.cfg.diesOf p).flatMap (fun D => (List.range 40).map (D * 40 + ·))
/-- The logical slices of a package. -/
def pkgSlices (d : Dev) (p : Nat) : List Nat := (d.cfg.diesOf p).flatMap (fun D => (List.range 42).map (D * 42 + ·))
/-- The physical memory ports of a package. -/
def pkgPorts (d : Dev) (p : Nat) : List Nat := (d.cfg.diesOf p).flatMap (fun D => (List.range 7).map (D * 7 + ·))

/-- Every core stops at an instruction boundary with its state discarded. -/
def coresStop (p : Nat) (d : Dev) : Dev := forAll (coresOf d p) (fun c => stopCore c false) d

/-- A core's store buffer and L2 are emptied and its queue slots drained to their rings (R370). -/
def coreEmpty (c : Nat) (d : Dev) : Dev :=
  let d1 := evictWhere c (fun _ => true) (sbDrainAll c d)
  forAll (qEng d1 c).slots (fun q d => if slotFree d c q then slotRelease c q d else d) d1

/-- A core's caches lose whatever they still hold. -/
def coreLose (c : Nat) (d : Dev) : Dev := updCache c (fun x => { CacheSt.init with off := x.off, txn := x.txn }) d

/-- The locked lines of a slice are released and counted (R187), and the slice loses what it still holds: lines, directory and
scratchpad. -/
def sliceLose (g : Nat) (d : Dev) : Dev :=
  let n := lockCount d g
  let d1 := updHome g (fun x => { HomeSt.init with off := x.off }) d
  if n = 0 then d1 else lockStat g (lockLost g n d1)

/-- A memory port writes back its check cache and enters self-refresh (R284); a failed one stays as it is. -/
def portRest (k : Nat) (d : Dev) : Dev :=
  let st := portState d k
  setFld (portDie k) (Reg.PORT_STATUS (portNum k)) Fl.PORT_STATUS_STATE (if st = 3 then 5 else st) (checkFlush k d)

/-- Whether an agent lies in a package. -/
def agentIn (p : Nat) : Agent → Bool
  | .core c => corePkg c == p
  | .home g => slicePkg g == p
  | .keeper a b => a == p || b == p
  | .port k => portDie k / 8 == p
  | .hsp D => D / 8 == p
  | .crown D => D / 8 == p

/-- No message of a package is on its way any more, and its keepers are empty. -/
def netLose (p : Nat) (d : Dev) : Dev :=
  let gone (m : Msg) : Bool := agentIn p m.src || agentIn p m.dst
  { d with net := d.net.filter (fun m => !gone m), ext := d.ext.filter (fun x => !gone x.req),
           keepers := KMap.drop d.keepers (fun k => k / 4 == p || k % 4 == p) }

/-- Steps 3 and 4: caches, queue slots, slices; `wb` false: nothing is written back any more (R449). -/
def pkgFlush (p : Nat) (wb : Bool) (d : Dev) : Dev :=
  let d1 := if wb then forAll (pkgSlices d p) sliceEmpty (forAll (coresOf d p) coreEmpty d) else d
  netLose p (forAll (pkgSlices d p) sliceLose (forAll (coresOf d p) coreLose d1))

/-- The domain has a state at once. -/
def domSet (D i st : Nat) (d : Dev) : Dev :=
  if domState d D i = 6 then d
  else setDomState D i st (setFld D (Reg.DOM_CTL i) Fl.DOM_CTL_REQ (if st < 3 then st else 0)
    (updDom D i (fun x => { x with cur := none, held := none }) (voltMark D i d)))

/-- Step 6 on a die: core, slice, bridge and mesh domains off, ports in retention; the high-speed port's stays on (R406). -/
def dieDown (D : Nat) (d : Dev) : Dev :=
  let d1 := forAll (List.range 88) (fun i => domSet D i 2) d
  let d2 := forAll (List.range 7) (fun n => domSet D (88 + n) 1) d1
  let br (b : Nat) (d : Dev) : Dev :=
    setFld D (Reg.BRG_STATUS b) Fl.BRG_STATUS_STATE 0 (domSet D (96 + b) 2 (updBrg D b (fun _ => BrgSt.init) d))
  domSet D 99 2 (forAll (List.range 3) br d2)

/-- The channels of a high-speed port halt as while PERST_N is asserted, and its outstanding requests are closed (R406). -/
def hspRest (D : Nat) (d : Dev) : Dev := forAll (List.range 16) (chanReset D) (closeOuts D (fun _ => true) d)

/-- Reserve mode is entered (R448): steps 2 to 7. `wb` tells whether VIN supplies the regulators until step 5 is complete (R449). -/
def reserveEnter (p : Nat) (wb : Bool) (d : Dev) : Dev :=
  match (pkgSt d p).resv with
  | none => d
  | some cause =>
    let d1 := forAll (d.cfg.diesOf p) hspRest (pkgFlush p wb (coresStop p d))
    let d2 := forAll (d.cfg.diesOf p) dieDown (forAll (pkgPorts d p) (if wb then portRest else fun k d =>
      updPort k (fun x => { x with ccache := [] }) (portRest k (updPort k (fun x => { x with ccache := [] }) d))) d1)
    let d3 := reserveFld p Fl.RAS_RESERVE_CAUSE cause (reserveFld p Fl.RAS_RESERVE_IN 1 d2)
    let d4 := if wb then d3 else reserveFld p Fl.RAS_RESERVE_WB_INCOMPLETE 1 d3
    record (crownDie d p) (ErrRec.mk' 0 0x0F 0 0x1A) (updPkg p (fun x => { x with resv := none, reserveAt := nowOf d (crownDie d p) }) d4)

def execReserveModeEntry (p : Pkg) (wb : Bool) (s : State) : Host.Outcome State Fault Refusal := onDev s (reserveEnter p wb)

/-! ### Exit (R451) -/

/-- Whether a package meets the conditions of an exit. -/
def exitOk (d : Dev) (p : Nat) : Bool :=
  let cool (D : Nat) : Bool := decide (fld d D Reg.THERM_STATUS Fl.THERM_STATUS_TJ_MAX < fld d D Reg.THERM_CTL Fl.THERM_CTL_WARN)
  (match (dieSt d (p * 8)).vinOk with | some t => decide (t + 10000000 ≤ nowOf d (p * 8)) | none => false)
    && (d.cfg.diesOf p).all cool && !(pkgSt d p).fatal && !flg d (p * 8) Reg.RAS_RESERVE Fl.RAS_RESERVE_WB_INCOMPLETE

/-- RESERVE_EXIT is accepted: the exit begins. -/
def exitStart (d : Dev) : Dev := forAll (packages d) (fun p => reserveFld p Fl.RAS_RESERVE_EXITING 1) d

/-- The die at the far end of a bridge of die `j` (R16): across the pair, toward the lower column, toward the higher. -/
def bridgeTo (j b : Nat) : Nat := if b = 0 then j ^^^ 1 else if b = 1 then j - 2 else j + 2
/-- The bridge at the far end. -/
def bridgeBack (b : Nat) : Nat := if b = 0 then 0 else 3 - b
/-- Whether a bridge of a die is in use (R16): its neighbour position holds a die of the package. -/
def bridgeUsed (d : Dev) (D b : Nat) : Bool :=
  decide (bridgeTo (D % 8) b < d.cfg.ndie (D / 8)) && !(b == 1 && decide (D % 8 < 2))

/-- The mesh, the domains of the active units of a die, its memory ports and its high-speed port are on, and its bridges that are in
use are trained at 32 GT/s (R16, R255, R460). -/
def dieOn (D : Nat) (d : Dev) : Dev :=
  let active (i : Nat) : Bool := if i < 44 then (tileCore d D i).isSome else if i < 88 then (tileSlice d D (i - 44)).isSome
    else if i = 95 then hspMode d D != 3 else true
  let d1 := forAll ((List.range 96).filter active) (fun i => domSet D i 0) (domSet D 99 0 d)
  let br (b : Nat) (d : Dev) : Dev :=
    setFld D (Reg.BRG_STATUS b) Fl.BRG_STATUS_NEIGHBOUR (bridgeTo (D % 8) b) (setFld D (Reg.BRG_STATUS b) Fl.BRG_STATUS_MOD_UP 3
      (setFld D (Reg.BRG_STATUS b) Fl.BRG_STATUS_STATE 2 (oppSet D (96 + b) 1 (domSet D (96 + b) 0 d))))
  forAll ((List.range 3).filter (bridgeUsed d D)) br d1

/-- The ports of a die leave self-refresh. -/
def portsUp (D : Nat) (d : Dev) : Dev :=
  forAll (List.range 7) (fun n d =>
    if portState d (D * 7 + n) = 5 then setFld D (Reg.PORT_STATUS n) Fl.PORT_STATUS_STATE 3 d else d) d

/-- The domains of a die are on again, its bridges trained, its ports out of self-refresh. -/
def dieUp (D : Nat) (d : Dev) : Dev := portsUp D (dieOn D d)

/-- Whether every package is leaving Reserve mode. -/
def allExiting (d : Dev) : Bool :=
  (packages d).all (fun p => pkgReserve d p && flg d (p * 8) Reg.RAS_RESERVE Fl.RAS_RESERVE_EXITING)

/-- The core on which the monitor runs: logical core 0 of the master die (R461). -/
def monitorCore (d : Dev) : Nat := crownDie d d.cfg.master * 40

/-- An accepted exit completes: the package is as R451 gives, one wake on the package Crown's die (R373, R484) and a
record are written, and the monitor starts. -/
def exitDone (d : Dev) : Dev :=
  if allExiting d then
    let one (p : Nat) (d : Dev) : Dev :=
      let d1 := capWrite p 0 (reserveFld p Fl.RAS_RESERVE_EXITING 0 (reserveFld p Fl.RAS_RESERVE_IN 0 (recordWake (crownDie d p) 0x7F 4 0xFFF
        (nowOf d (crownDie d p)) (forAll (d.cfg.diesOf p) dieUp d))))
      record (crownDie d p) (ErrRec.mk' 0 0x0F 0 0x1B) (updPkg p (fun x => { x with thermtrip := false, exitAt := nowOf d (crownDie d p) }) d1)
    startCore (monitorCore d) (forAll (packages d) one d)
  else d

def execReserveExitComplete (s : State) : Host.Outcome State Fault Refusal := onDev s exitDone

/-! ### What leads to it -/

/-- A sample of the supplies (R363): VIN and VSB in mV, the VIN current in units of 0.1 A. The third sample in a row outside 2.5 to
6.0 V sets VIN_OOR, raises event 485 and leads to Reserve mode with cause 1. -/
def supplySample (p vin iin vsb : Nat) (d : Dev) : Dev :=
  if d.cfg.ndie p = 0 then d
  else
    let D0 := p * 8
    let bad := decide (vin < 2500) || decide (6000 < vin)
    let n := if bad then (dieSt d D0).vinBad + 1 else 0
    let oor := decide (3 ≤ n)
    let was := flg d D0 Reg.SUPPLY Fl.SUPPLY_VIN_OOR
    let w : Word := BitVec.ofNat 64 (min vin 0xFFFF + min iin 0xFFFF * 2 ^ 16 + min vsb 0xFFFF * 2 ^ 32 + b2n oor * 2 ^ 48)
    let since (x : DieSt) : Option Nat := if bad then none else match x.vinOk with | some t => some t | none => some (nowOf d D0)
    let d1 := forAll (d.cfg.diesOf p) (fun D => wr D Reg.SUPPLY w) (updDie D0 (fun x => { x with vinBad := min n 3, vinOk := since x }) d)
    if oor && !was then reserveAll p 1 (raisePkg p 485 d1) else d1

def execSupplySample (p : Pkg) (vin iin vsb : Nat) (s : State) : Host.Outcome State Fault Refusal :=
  onDev s (supplySample p vin iin vsb)

/-- A junction sensor of a die reads 115 °C (R383, R481): THERMTRIP_N is asserted, and Reserve mode follows with cause 2. -/
def thermalTrip (D sensor : Nat) (d : Dev) : Dev :=
  let t := max 115 (fld d D Reg.THERM_STATUS Fl.THERM_STATUS_TJ_MAX)
  reserveAll (D / 8) 2 (updPkg (D / 8) (fun x => { x with thermtrip := true }) (thermSample D sensor t d))

def execThermalTrip (D : Die) (sensor : BitVec 8) (s : State) : Host.Outcome State Fault Refusal :=
  onDev s (thermalTrip D sensor.toNat)

/-- A package other than the master package has had no time-base exchange from it for 10 ms (R437): it enters Reserve mode with
cause 3 on its own. -/
def masterLoss (p : Nat) (d : Dev) : Dev :=
  if p = d.cfg.master ∨ d.cfg.ndie p = 0 ∨ nowOf d (crownDie d p) < (pkgSt d p).xchgAt + 10000000 then d
  else reserveCause p 3 (updPkg p (fun x => { x with fatal := true }) (record (crownDie d p) (ErrRec.mk' 3 0x0D 0 0x17) d))

def execMasterLoss (p : Pkg) (s : State) : Host.Outcome State Fault Refusal := onDev s (masterLoss p)

end Sys2Proof.Machine
end

