-- ==== Sys2Proof/Machine/Restitch.lean ====
section
/-! DEFINITION. Wear monitors, restitching of cores and slices, redirection, the push of error records and error injection (R52, R53,
R166, R441 to R446, R452). -/

namespace Sys2Proof.Machine

/-- Why the Crown restitches a unit (R443): wear, an uncorrected error of the unit, more than 4 L2 ways disabled, the RESTITCH
command. -/
def mayRestitch (d : Dev) (D : Nat) (core : Bool) : RestitchWhy → Bool
  | .wear => flg d D Reg.SPARE_CTL (if core then Fl.SPARE_CTL_WEAR_CORE else Fl.SPARE_CTL_WEAR_SLICE)
  | _ => true

/-- Tiles whose core is a free spare: present, without a logical number, and not retired (R21, R444). -/
def spareCores (d : Dev) (D : Nat) : List Nat :=
  (List.range 44).filter (fun t => domState d D t != 6 && (tileCore d D t).isNone && !(dieSt d D).badCore.contains t)

/-- Tiles whose slice is a free spare. -/
def spareSlices (d : Dev) (D : Nat) : List Nat :=
  (List.range 44).filter (fun t => domState d D (44 + t) != 6 && (tileSlice d D t).isNone && !(dieSt d D).badSlice.contains t)

/-- RAS.RESTITCH while a restitch of a unit runs in a phase. -/
def restitchPhase (D kind unit phase : Nat) (d : Dev) : Dev :=
  let w := rg d D Reg.RAS_RESTITCH
  wr D Reg.RAS_RESTITCH (setF Fl.RAS_RESTITCH_UNIT unit (setF Fl.RAS_RESTITCH_KIND kind (setF Fl.RAS_RESTITCH_PHASE phase
    (setB Fl.RAS_RESTITCH_ACTIVE true w)))) d

/-- RAS.RESTITCH when a restitch has ended with outcome LAST. The longest stall, at most 400 µs, is a free value (R443). -/
def restitchEnd (D last : Nat) (d : Dev) : Dev :=
  let w := rg d D Reg.RAS_RESTITCH
  let w1 := setF Fl.RAS_RESTITCH_LAST last (setF Fl.RAS_RESTITCH_PHASE 0 (setB Fl.RAS_RESTITCH_ACTIVE false w))
  if last = 2 then wr D Reg.RAS_RESTITCH w1 d
  else wr D Reg.RAS_RESTITCH (satAdd Fl.RAS_RESTITCH_COUNT 1
    (setF Fl.RAS_RESTITCH_LAST_STALL (Config.freeNat (draw d) % 401) w1)) (drawn d)

/-- The record of a restitch's start (0x10), end (0x11) or failure (0x12), with the spare brought in. -/
def restitchRec (D kind unit code spare : Nat) (d : Dev) : Dev :=
  record D { ErrRec.mk' 0 kind unit code with info1 := spare } d

/-- The restitch of a unit is remembered (R437). -/
def noteRestitched (D kind unit : Nat) (d : Dev) : Dev :=
  updDie D (fun x => { x with restitched := if x.restitched.contains (kind, unit) then x.restitched else x.restitched ++ [(kind, unit)] }) d

/-- An uncorrected error recurs after the unit's restitch and no spare is left (R437). -/
def recurrence (D kind unit : Nat) (why : RestitchWhy) (d : Dev) : Dev :=
  if why = .error ∧ (dieSt d D).restitched.contains (kind, unit) = true then fatal D kind unit 0x17 d else d

/-- A domain is worn with no spare free (R53): it is marked, and entered as an open fault (R440). -/
def markWorn (D i kind unit : Nat) (d : Dev) : Dev :=
  if (dieSt d D).worn.contains i then d
  else openFault D ((ErrRec.mk' 0 kind unit 0x08).stamp d D) (updDie D (fun x => { x with worn := x.worn ++ [i] }) d)

/-- The events routed to a core that is no longer valid are stranded (R353, R446). -/
def strandOf (c : Nat) (d : Dev) : Dev :=
  let mine := d.regs.filterMap (fun e =>
    let D := e.1 / 0x100000000
    let off := e.1 % 0x100000000
    if decide (Reg.EVC_ROUTE 0 ≤ off) && decide (off ≤ Reg.EVC_ROUTE 511) && decide (D / 8 = corePkg c)
        && decide (routeCore D e.2 = c) then some (D, (off - Reg.EVC_ROUTE 0) / 8) else none)
  forAll mine (fun x => strandIfNoTarget x.1 x.2) d

/-! ### Cores (R444, R446) -/

/-- A logical core has no spare: its number has no core. -/
def coreRetire (c : Nat) (why : RestitchWhy) (d : Dev) : Dev :=
  let D := coreDie c
  let t := coreTile d c
  let d1 := coreLose c (coreEmpty c (stopCore c false d))
  let d2 := mapChange D (setFlg D (Reg.LCORE (coreLog c)) Fl.LCORE_VALID false)
    (updDie D (fun x => { x with badCore := if x.badCore.contains t then x.badCore else x.badCore ++ [t] }) d1)
  recurrence D 0x01 (coreLog c) why (restitchEnd D 2 (strandOf c d2))

/-- A paired core's role moves with it (R157): the tile's pair registers go to the spare, and the partner names the spare. -/
def pairMove (D t s : Nat) (d : Dev) : Dev :=
  if pairState d D t = 0 then d
  else
    let o := fld d D (Reg.PAIR_STATUS t) Fl.PAIR_STATUS_PARTNER
    let d1 := wr D (Reg.PAIR_STATUS s) (rg d D (Reg.PAIR_STATUS t)) (wr D (Reg.PAIR_CTL s) (rg d D (Reg.PAIR_CTL t)) d)
    let d2 := setFld D (Reg.PAIR_STATUS o) Fl.PAIR_STATUS_PARTNER s d1
    let d3 := if getB Fl.PAIR_CTL_BIND (rg d D (Reg.PAIR_CTL o)) then setFld D (Reg.PAIR_CTL o) Fl.PAIR_CTL_PARTNER s d2 else d2
    wr D (Reg.PAIR_STATUS t) 0 (wr D (Reg.PAIR_CTL t) 0 d3)

/-- A core's spare takes its place: the steps of R444. -/
def coreMove (c s : Nat) (d : Dev) : Dev :=
  let D := coreDie c
  let t := coreTile d c
  let running := (coreSt d c).run
  let woken (d : Dev) : Dev := if domOn d D s then d else recordWake D s 0 0xFFF (nowOf d D) (domSet D s 0 d)
  let d1 := coreEmpty c (if running then stopCore c true (woken d) else woken d)
  let d2 := updCore c (fun x => { x with tlb := [], pred := Pred.flushed, misp := none })
    (updCache c (fun x => { CacheSt.init with txn := x.txn }) d1)
  let d3 := mapChange D (setFld D (Reg.LCORE (coreLog c)) Fl.LCORE_PTILE s) (pairMove D t s
    (setFld D (Reg.PACE_STATUS s) Fl.PACE_STATUS_PKG_CAP (fld d2 D (Reg.PACE_STATUS t) Fl.PACE_STATUS_PKG_CAP)
      (wr D (Reg.PACE_CTL s) (rg d2 D (Reg.PACE_CTL t)) d2)))
  let d4 := if running then updCore c (fun x => { x with run := true, kept := false }) d3 else d3
  domSet D t 2 (updDie D (fun x => { x with badCore := if x.badCore.contains t then x.badCore else x.badCore ++ [t] }) d4)

/-- A restitch of a core: the lowest-numbered free spare takes its logical number. -/
def coreRestitch (c : Nat) (why : RestitchWhy) (d : Dev) : Dev :=
  let D := coreDie c
  let i := coreLog c
  if !flg d D (Reg.LCORE i) Fl.LCORE_VALID || inReserve d D || !mayRestitch d D true why then d
  else
    match spareCores d D with
    | [] => if why = .wear then markWorn D (coreTile d c) 0x01 i d else coreRetire c why d
    | s :: _ =>
      let d1 := restitchPhase D 0x01 i 2 (restitchRec D 0x01 i 0x10 s d)
      noteRestitched D 0x01 i (restitchRec D 0x01 i 0x11 s (restitchEnd D 0 (coreMove c s d1)))

def execCoreRestitch (c : CoreId) (why : RestitchWhy) (s : State) : Host.Outcome State Fault Refusal :=
  onDev s (coreRestitch c why)

/-! ### Slices (R166, R445) -/

/-- The background phase of a slice restitch begins: the spare's domain turns on, and the old slice walks its sets. A restitch that
finds another of the die in progress waits. -/
def sliceRestitch (g : Nat) (why : RestitchWhy) (d : Dev) : Dev :=
  let D := sliceDie g
  let i := sliceLog g
  if !flg d D (Reg.LSLICE i) Fl.LSLICE_VALID || flg d D (Reg.LSLICE i) Fl.LSLICE_REDIRECTED || inReserve d D
      || (dieSt d D).moving.isSome || !mayRestitch d D false why then d
  else
    match spareSlices d D with
    | [] => if why = .wear then markWorn D (44 + sliceTile d g) 0x02 i d else recurrence D 0x02 i why d
    | s :: _ =>
      let d1 := restitchPhase D 0x02 i 1 (restitchRec D 0x02 i 0x10 s d)
      let d2 := if domOn d1 D (44 + s) then d1 else recordWake D (44 + s) 0 0xFFF (nowOf d1 D) (domSet D (44 + s) 0 d1)
      sliceEmpty g (updDie D (fun x => { x with moving := some (i, s) }) d2)

def execSliceRestitch (g : SliceId) (why : RestitchWhy) (s : State) : Host.Outcome State Fault Refusal :=
  onDev s (sliceRestitch g why)

/-- A slice's settings and lock state go with its logical number to another tile. -/
def sliceRegsMove (D t s : Nat) (d : Dev) : Dev :=
  let one (off : Nat → Nat) (d : Dev) : Dev := wr D (off s) (rg d D (off t)) d
  let d1 := forAll (List.range 16) (fun j => wr D (Reg.WAYPART s j) (rg d D (Reg.WAYPART t j))) d
  let keep (f : Fld) (d : Dev) : Dev := setFld D (Reg.SLICE_STATUS s) f (fld d D (Reg.SLICE_STATUS t) f) d
  keep Fl.SLICE_STATUS_SPAD_WAYS (keep Fl.SLICE_STATUS_REDIRECT (keep Fl.SLICE_STATUS_EXTRA
    (one Reg.SPAD_CTL (one Reg.LOCK_CTL (one Reg.LOCK_STAT d1)))))

/-- The locked lines of a slice with their owners. -/
def locksOf (d : Dev) (g : Nat) : List (Nat × BitVec 6) :=
  (homeSt d g).llc.filterMap (fun e => match e.2 with | some l => l.lock.map (fun p => (e.1, p)) | none => none)

/-- The switch phase ends (R445): the spare holds the scratchpad and the locked lines, fetched from memory, and serves the logical
number, and those redirected to it. -/
def sliceSwitch (D : Nat) (d : Dev) : Dev :=
  match (dieSt d D).moving with
  | none => d
  | some (i, s) =>
    let g := D * 42 + i
    let t := sliceTile d g
    let d1 := sliceEmpty g d
    let locks := locksOf d1 g
    let d2 := updHome g (fun x => { x with llc := [], plru := [], off := [], dir := KMap.drop x.dir (fun k => !(dirEnt d1 g k).any) }) d1
    let moved (j : Nat) : Bool := fld d D (Reg.LSLICE j) Fl.LSLICE_PTILE == t && flg d D (Reg.LSLICE j) Fl.LSLICE_VALID
    let d3 := mapChange D (forAll ((List.range 42).filter moved) (fun j => setFld D (Reg.LSLICE j) Fl.LSLICE_PTILE s))
      (sliceRegsMove D t s d2)
    let d4 := forAll locks (fun e => lockPlace g e.1 e.2) d3
    let d5 := updDie D (fun x => { x with moving := none, badSlice := if x.badSlice.contains t then x.badSlice else x.badSlice ++ [t] }) d4
    noteRestitched D 0x02 i (restitchRec D 0x02 i 0x11 s (restitchEnd D 0 d5))

def execSliceSwitch (D : Die) (s : State) : Host.Outcome State Fault Refusal := onDev s (sliceSwitch D)

/-- A slice that failed with no spare free is redirected to another active slice of the die (R166, R446), whose array then homes the
lines of both; its locked lines are locked there again, and its scratchpad is not served any more (log entry 17). -/
def sliceRedirect (g j : Nat) (d : Dev) : Dev :=
  let D := sliceDie g
  let i := sliceLog g
  let t := fld d D (Reg.LSLICE j) Fl.LSLICE_PTILE
  let b := D * 42 + j
  if i = j || !flg d D (Reg.LSLICE i) Fl.LSLICE_VALID || flg d D (Reg.LSLICE i) Fl.LSLICE_REDIRECTED
      || !flg d D (Reg.LSLICE j) Fl.LSLICE_VALID || flg d D (Reg.LSLICE j) Fl.LSLICE_REDIRECTED
      || flg d D (Reg.SLICE_STATUS t) Fl.SLICE_STATUS_REDIRECT || !(spareSlices d D).isEmpty || inReserve d D
      || (dieSt d D).moving.isSome then d
  else
    let t0 := sliceTile d g
    let d1 := sliceEmpty g (restitchPhase D 0x02 i 2 (restitchRec D 0x02 i 0x10 t d))
    let locks := locksOf d1 g
    let d2 := updHome g (fun _ => HomeSt.init) d1
    let d3 := mapChange D (fun d => setFlg D (Reg.LSLICE i) Fl.LSLICE_REDIRECTED true (setFld D (Reg.LSLICE i) Fl.LSLICE_PTILE t d))
      (setFld D (Reg.SLICE_STATUS t) Fl.SLICE_STATUS_EXTRA i (setFlg D (Reg.SLICE_STATUS t) Fl.SLICE_STATUS_REDIRECT true d2))
    let lock (e : Nat × BitVec 6) (d : Dev) : Dev :=
      if lockOutcome d b e.1 e.2 = 0 then lockPlace b e.1 e.2 d else lockLost b 1 d
    let d4 := updDie D (fun x => { x with badSlice := if x.badSlice.contains t0 then x.badSlice else x.badSlice ++ [t0] })
      (forAll locks lock d3)
    noteRestitched D 0x02 i (restitchRec D 0x02 i 0x11 t (restitchEnd D 0 d4))

def execSliceRedirect (g : SliceId) (j : Fin 42) (s : State) : Host.Outcome State Fault Refusal := onDev s (sliceRedirect g j)

/-! ### Wear (R52, R53) -/

/-- A wear measurement of a tile's core (`j` = 0) or slice (`j` = 1) domain: the rate of its slowest island in M turns per second. The
first time WARN or REPLACE becomes set, a record is written and the tile condition raised. -/
def wearMeasure (D t j rate island : Nat) (d : Dev) : Dev :=
  let base := fld d D (Reg.WEAR_BASE t j) Fl.WEAR_BASE_BASE
  let ctl := rg d D (Reg.WEAR_CTL t j)
  let below (pct : Nat) : Bool := decide (rate * 100 < base * (100 - pct))
  let warn := below (getF Fl.WEAR_CTL_WARN_PCT ctl)
  let repl := below (getF Fl.WEAR_CTL_REPLACE_PCT ctl) || decide (rate < getF Fl.WEAR_CTL_REPLACE_MIN ctl)
  let old := rg d D (Reg.WEAR_STATUS t j)
  let new := setB Fl.WEAR_STATUS_BELOW_FLOOR (j == 0 && decide (rate < 2900)) (setB Fl.WEAR_STATUS_REPLACE
    (repl || getB Fl.WEAR_STATUS_REPLACE old) (setB Fl.WEAR_STATUS_WARN (warn || getB Fl.WEAR_STATUS_WARN old)
      (setF Fl.WEAR_STATUS_WORST_ISLAND island (setF Fl.WEAR_STATUS_RATE rate old))))
  let log := if j = 0 then (tileCore d D t).map coreLog else (tileSlice d D t).map sliceLog
  let kind := if log.isNone then 0x0C else 1 + j
  let unit := log.getD (44 * j + t)
  let rec' (first : Bool) (code : Nat) (d : Dev) : Dev :=
    if first then
      let d1 := record D { ErrRec.mk' 0 kind unit code with info1 := rate } d
      match log with | some i => raiseSlot D i 6 d1 | none => d1
    else d
  let d1 := rec' (warn && !getB Fl.WEAR_STATUS_WARN old) 0x07 (wr D (Reg.WEAR_STATUS t j) new d)
  let first := repl && !getB Fl.WEAR_STATUS_REPLACE old
  let d2 := rec' first 0x08 d1
  let none' := if j = 0 then (spareCores d D).isEmpty else (spareSlices d D).isEmpty
  if first && none' && log.isSome then markWorn D (44 * j + t) kind unit d2 else d2

def execWearMeasurement (D : Die) (t : Fin 44) (slice : Bool) (rate island : BitVec 16) (s : State) :
    Host.Outcome State Fault Refusal := onDev s (wearMeasure D t (b2n slice) rate.toNat island.toNat)

/-! ### The error log (R439, R441) -/

/-- The error bank of a die pushes its oldest held record to the error-log queue when it can. -/
def recordPush (D : Nat) (d : Dev) : Dev :=
  match (dieSt d D).hold with
  | [] => d
  | r :: rest =>
    let q := fld d D Reg.LOG_CTL Fl.LOG_CTL_QID
    let r' := if (dieSt d D).holdDropped then { r with dropped := true } else r
    if !flg d D Reg.LOG_CTL Fl.LOG_CTL_EN || inReserve d D then d
    else
      match tailPush q ⟨4000 + D, false, 0, 0⟩ (.full (ofLineBytes r'.bytes)) d with
      | some d1 => updDie D (fun x => { x with hold := rest, holdDropped := false }) d1
      | none => d

def execErrorRecordPush (D : Die) (s : State) : Host.Outcome State Fault Refusal := onDev s (recordPush D)

/-! ### Injection (R452) -/

/-- A write of RAS.INJECT: while both control enables are set, GO arms an error at the unit's next access. -/
def injectWrite (D : Nat) (v : Word) (d : Dev) : Dev :=
  let kind := getF Fl.RAS_INJECT_KIND v
  let unit := getF Fl.RAS_INJECT_UNIT v
  let ty := getF Fl.RAS_INJECT_TYPE v
  if !(dbgControl d false && dbgControl d true) || !getB Fl.RAS_INJECT_GO v || ty == 0 then d
  else
    let d1 := updDie D (fun x => { x with armed := x.armed.filter (fun a => !(a.1 == kind && a.2.1 == unit)) ++ [(kind, unit, ty)] }) d
    if kind = 7 ∧ unit < 7 ∧ ty < 3 then updPort (D * 7 + unit) (fun x => { x with inject := some ty }) d1 else d1

def execInjectGo (D : Die) (v : Word) (s : State) : Host.Outcome State Fault Refusal :=
  onDev s (injectWrite D (setB Fl.RAS_INJECT_GO true v))

end Sys2Proof.Machine
end

