-- ==== Sys2Proof/Machine/Caseback.lean ====
section
/-! DEFINITION. The caseback record: its sections, its CRC, and the CASEBACK command (R432 to R434). -/

namespace Sys2Proof.Machine

/-! ### Laying out fields -/

/-- A field of the record: offset, bytes, value. -/
abbrev CbField := Nat × Nat × Nat

/-- The bytes of fields given in rising order, from a position; what they leave out is zero. -/
def layFields (at' : Nat) : List CbField → List Byte
  | [] => []
  | (o, n, v) :: r => List.replicate (o - at') 0 ++ toBytes n v ++ layFields (o + n) r

/-- The number whose bit `i` says whether `p i`, for `i` below `n`. -/
def bitsFrom (n : Nat) (p : Nat → Bool) : Nat := (List.range n).foldl (fun a i => a + b2n (p i) * 2 ^ i) 0

/-! ### Identity -/

/-- The ordering code of a package, ASCII (R1). -/
def orderingCode (n : Nat) : List Byte := [0x4B, 0x56, 0x58, 0x2D, 0x37, 0x31, 0x30] ++ [BitVec.ofNat 8 (0x30 + n % 10)]

/-- Whether boot stopped for want of a Crown image: ROM recovery (R423). -/
def romRecovery (d : Dev) (p : Nat) : Bool := fld d (crownDie d p) Reg.BOOT_STATUS Fl.BOOT_STATUS_STOP == 1

/-- Header and identity. -/
def cbHeader (d : Dev) (p req die : Nat) : List CbField :=
  let x := pkgSt d p
  let D := crownDie d p
  [(0, 4, 0x314B4243), (4, 2, 1), (6, 2, 0x1000), (8, 8, x.sequence), (0x10, 8, x.generation), (0x18, 8, nowOf d D), (0x20, 1, req),
   (0x21, 1, die % 8), (0x28, 8, (rg d D Reg.TIM_QUALITY).toNat), (0x40, 8, ofBytes (orderingCode (d.cfg.ndie p))), (0x50, 2, 0x00B0),
   (0x52, 2, 0x1D7A), (0x54, 1, d.cfg.ndie p), (0x55, 1, p),
   (0x56, 1, b2n (d.cfg.master == p) + 2 * fld d D Reg.SUCC Fl.SUCC_DEGRADED + 4 * b2n (romRecovery d p)), (0x57, 1, x.crown),
   (0x58, 8, (Config.serial p).toNat), (0x60, 1, bitsFrom 4 (fun q => decide (0 < d.cfg.ndie q))),
   (0x62, 2, fld d D Reg.SUCC Fl.SUCC_EPOCH), (0x68, 4, queueIdOf d (errQueue p)), (0x6C, 4, queueIdOf d (evtQueue p))]

/-! ### Dies -/

/-- Flags of a die: Crown failed, a domain worn with no spare free, a bridge down, a mesh link direction FAILED. -/
def cbFlags (d : Dev) (D : Nat) : Nat :=
  let down (b : Nat) : Bool := fld d D (Reg.BRG_STATUS b) Fl.BRG_STATUS_STATE == 3
  let failed := (List.range 194).any (fun i => flg d D (Reg.LNK_STATUS i) Fl.LNK_STATUS_FAILED)
  b2n (dieSt d D).crownDown + 2 * b2n (!(dieSt d D).worn.isEmpty) + 4 * b2n ((List.range 3).any down) + 8 * b2n failed

/-- State of a die: 1 up, 2 degraded, 3 failed, 4 Reserve mode (log entry 21). -/
def cbState (d : Dev) (D : Nat) : Nat :=
  if inReserve d D then 4
  else if cbFlags d D = 0 then 1
  else if Config.dieFailed D (pkgSt d (D / 8)).generation then 3 else 2

/-- The logical number of a physical port (R434): 0 to 5, 0x0F failed, 0x07 otherwise. -/
def cbPort (d : Dev) (k : Nat) : Nat :=
  if portState d k = 6 then 0x0F
  else match (List.range 6).find? (fun n => physPort d (portDie k) n == k) with | some n => n | none => 7

/-- Active memory ports of a die: logical ports served by a port that is not failed. -/
def activePorts (d : Dev) (D : Nat) : Nat := ((List.range 7).filter (fun n => decide (cbPort d (D * 7 + n) < 6))).length

/-- Status of a die. `pw` is its power, which no register holds. -/
def cbDie (d : Dev) (pw : Nat) (D : Nat) : List CbField :=
  let o := 0x100 + D % 8 * 0x40
  let x := dieSt d D
  let core (i : Nat) : Bool := flg d D (Reg.LCORE i) Fl.LCORE_VALID
  let worn (base t : Nat) : Bool := x.worn.contains (base + t)
  let count (n : Nat) (f : Nat → Bool) : Nat := ((List.range n).filter f).length
  [(o, 1, cbState d D), (o + 1, 1, cbFlags d D), (o + 2, 1, count 40 core),
   (o + 3, 1, count 42 (fun i => flg d D (Reg.LSLICE i) Fl.LSLICE_VALID)), (o + 4, 1, activePorts d D),
   (o + 5, 1, fld d D Reg.THERM_STATUS Fl.THERM_STATUS_TJ_MAX), (o + 6, 2, pw),
   (o + 8, 8, bitsFrom 40 (fun i => (coreSt d (D * 40 + i)).run)),
   (o + 0x10, 8, bitsFrom 40 (fun i => core i && worn 0 (coreTile d (D * 40 + i)))
      + Config.pairedFlags D (pkgSt d (D / 8)).generation % 4 * 2 ^ 48),
   (o + 0x18, 8, bitsFrom 42 (fun i => flg d D (Reg.LSLICE i) Fl.LSLICE_VALID && worn 44 (sliceTile d (D * 42 + i)))),
   (o + 0x20, 4, fld d D (Reg.BRG_STATUS 0) Fl.BRG_STATUS_STATE + fld d D (Reg.BRG_STATUS 1) Fl.BRG_STATUS_STATE * 4
      + fld d D (Reg.BRG_STATUS 2) Fl.BRG_STATUS_STATE * 16 + fld d D Reg.REIN_STATUS Fl.REIN_STATUS_STATE * 256),
   (o + 0x24, 4, match KMap.look none (pkgSt d (D / 8)).fw 1 with | some f => f.version | none => 0)]

/-- Spare map of a die. -/
def cbSpare (d : Dev) (D : Nat) : List CbField :=
  let o := 0x300 + D % 8 * 0x20
  let red := ((List.range 42).filter (fun i => flg d D (Reg.LSLICE i) Fl.LSLICE_REDIRECTED)).length
  [(o, 8, bitsFrom 44 (fun t => (spareCores d D).contains t)), (o + 8, 8, bitsFrom 44 (fun t => (spareSlices d D).contains t)),
   (o + 0x10, 8, bitsFrom 44 (fun t => (dieSt d D).badCore.contains t) + red * 2 ^ 48),
   (o + 0x18, 8, (rg d D Reg.MEMPORT).toNat % 2 ^ 24 + fld d D Reg.PHASE_STATUS Fl.PHASE_STATUS_SPARES_LEFT % 8 * 2 ^ 24
      + wiresUsed d D * 2 ^ 28)]

/-- Power domains of a die: on, in retention and off for cores, slices, ports and bridges; a domain in transition counts as on (log
entry 21). -/
def cbPower (d : Dev) (D : Nat) : List CbField :=
  let o := 0x600 + D % 8 * 0x40
  let st (i : Nat) : Nat := let x := domState d D i; if 3 ≤ x ∧ x ≤ 5 then 0 else x
  let n (lo hi s : Nat) : Nat := ((List.range (hi - lo)).filter (fun i => st (lo + i) == s)).length
  let grp (j lo hi : Nat) : List CbField := (List.range 3).map (fun s => (o + 3 * j + s, 1, n lo hi s))
  grp 0 0 44 ++ grp 1 44 88 ++ grp 2 88 95 ++ grp 3 96 99
    ++ [(o + 0xC, 1, ((List.range 101).filter (fun i => flg d D (Reg.DOM_CTL i) Fl.DOM_CTL_SECURE_HOLD)).length),
        (o + 0x10, 2, fld d D Reg.PKG_LIMIT Fl.PKG_LIMIT_LIMIT_W), (o + 0x12, 2, fld d D Reg.PKG_STATUS Fl.PKG_STATUS_CAP),
        (o + 0x14, 1, fld d D Reg.PKG_STATUS Fl.PKG_STATUS_UNMET + 2 * fld d D Reg.PKG_STATUS Fl.PKG_STATUS_DERATED
          + 4 * b2n (pkgSt d (D / 8)).clamped)]

/-- A memory port; a port with no components is absent. -/
def cbMem (d : Dev) (k : Nat) : List CbField :=
  let D := portDie k
  let n := portNum k
  let o := 0x800 + (D % 8 * 7 + n) * 0x10
  let st := rg d D (Reg.PORT_STATUS n)
  if !getB Fl.PORT_STATUS_POPULATED st then []
  else
    [(o, 1, getF Fl.PORT_STATUS_STATE st + 16 * getF Fl.PORT_STATUS_LOADED_TRAINED st + 32 * getF Fl.PORT_STATUS_RATE_DOWN st),
     (o + 1, 1, getF Fl.PORT_STATUS_RATE_NOW st), (o + 2, 1, cbPort d k), (o + 3, 1, remapsUsed d k),
     (o + 4, 2, fld d D (Reg.ECC_STAT n) Fl.ECC_STAT_CE_DEMAND), (o + 6, 2, fld d D (Reg.ECC_STAT n) Fl.ECC_STAT_UE),
     (o + 8, 2, fld d D (Reg.TRACK_STAT n) Fl.TRACK_STAT_HARD), (o + 0xA, 2, fld d D (Reg.RD_STAT n) Fl.RD_STAT_TRIGGERS),
     (o + 0xC, 2, fld d D Reg.MEMMAP Fl.MEMMAP_USABLE_GIB),
     (o + 0xE, 1, fld d D Reg.MEMMAP Fl.MEMMAP_MODE + 2 * fld d D Reg.MEMMAP Fl.MEMMAP_LOCK)]

/-! ### Partitions, faults, reset and firmware -/

/-- A partition; the counts are of this package's cores and slices, saturating at 255. -/
def cbPart (d : Dev) (p i : Nat) : CbField :=
  let own (reg : Nat → Nat) (n : Nat) (D : Nat) : Nat :=
    ((List.range n).filter (fun c => bitsOf (rg d D (reg c)) 6 0 == 64 + i)).length
  let total (f : Nat → Nat) : Nat := min 255 ((d.cfg.diesOf p).foldl (fun a D => a + f D) 0)
  let st := fld d 0 (Reg.PART i) Fl.PART_STATE
  (0x400 + i * 8, 8, st + 8 * fld d 0 (Reg.PART i) Fl.PART_WORLD + 16 * fld d 0 (Reg.PART i) Fl.PART_OWN_PORTS
    + total (own Reg.CORE_OWN 40) * 2 ^ 8 + total (own Reg.SLICE_OWN 42) * 2 ^ 16
    + (if st = 3 then ((d.cfg.allDies.find? (fun D => 0 < own Reg.CORE_OWN 40 D)).getD 0) / 8 * 2 ^ 24 else 0))

/-- Open faults and counters. -/
def cbFaults (d : Dev) (p : Nat) : List CbField :=
  let x := pkgSt d p
  let svc (n : Nat) : CbField :=
    (0xBB0 + 2 * n, 2, fld d (p * 8) (Reg.SVC_DOWN n) Fl.SVC_DOWN_SVC + fld d (p * 8) (Reg.SVC_DOWN n) Fl.SVC_DOWN_VALID * 2 ^ 15)
  let one (e : OpenFault × Nat) : List CbField :=
    let o := 0xC00 + e.2 * 0x20
    [(o, 1, e.1.cls), (o + 1, 1, e.1.kind), (o + 2, 1, e.1.die % 8), (o + 3, 1, e.1.unit), (o + 8, 8, e.1.time), (o + 0x10, 8, e.1.seq),
     (o + 0x18, 2, e.1.info)]
  (List.range 4).map (fun k => (0xB80 + 8 * k, 8, x.counts.getD k 0))
    ++ [(0xBA0, 4, (d.cfg.diesOf p).foldl (fun a D => a + fld d D Reg.RAS_RESTITCH Fl.RAS_RESTITCH_COUNT) 0),
        (0xBA4, 2, x.faults.length), (0xBA8, 8, (rg d (p * 8) Reg.DBG_STATUS).toNat)]
    ++ (List.range 16).map svc ++ (x.faults.take 16).zipIdx.flatMap one

/-- Reset, wake and firmware. -/
def cbReset (d : Dev) (p : Nat) : List CbField :=
  let x := pkgSt d p
  let D := crownDie d p
  let img (o t : Nat) : List CbField :=
    match KMap.look none x.fw t with
    | some f => [(o, 4, f.version), (o + 4, 4, f.svn), (o + 8, 4, f.slot)]
    | none => []
  [(0xE00, 1, fld d D Reg.BOOT_STATUS Fl.BOOT_STATUS_CAUSE), (0xE08, 8, x.releaseAt), (0xE10, 8, (rg d D Reg.LAST_WAKE_SRC).toNat),
   (0xE18, 8, (rg d D Reg.LAST_WAKE).toNat), (0xE20, 1, fld d D Reg.RAS_RESERVE Fl.RAS_RESERVE_CAUSE), (0xE28, 8, x.reserveAt),
   (0xE30, 8, x.exitAt)] ++ img 0xF00 1 ++ img 0xF10 2 ++ img 0xF20 3
    ++ [(0xF30, 4, Config.romVersion), (0xF34, 1, KMap.look 0 x.fuses 1), (0xF35, 1, KMap.look 0 x.fuses 2)]

/-! ### The record and its command -/

/-- The fields of a record in rising order. `pw` gives the power of each die. -/
def cbFields (d : Dev) (p req die : Nat) (pw : Nat → Nat) : List CbField :=
  cbHeader d p req die ++ (d.cfg.diesOf p).flatMap (fun D => cbDie d (pw D) D) ++ (d.cfg.diesOf p).flatMap (cbSpare d)
    ++ (List.range 64).map (cbPart d p) ++ (d.cfg.diesOf p).flatMap (cbPower d)
    ++ (d.cfg.diesOf p).flatMap (fun D => (List.range 7).flatMap (fun n => cbMem d (D * 7 + n))) ++ cbFaults d p ++ cbReset d p

/-- The 4,096 bytes of a record (R434). -/
def cbBytes (l : List CbField) : List Byte :=
  let b := (layFields 0 l ++ List.replicate 0xFFC 0).take 0xFFC
  b ++ toBytes 4 (crc32 b)

/-- CASEBACK (R432, R433): a record is taken and returned to its requester, and SEQUENCE rises for the next one. The dies' power is not
held by any register: a free value. -/
def caseback (D : Nat) (b : Mbx) (d : Dev) : Dev :=
  let p := D / 8
  let x := pkgSt d p
  let bytes := cbBytes (cbFields d p (mbxNum b) (mbxDie d D b) (fun E => Config.freeNat (draw d + E)))
  let d1 := updPkg p (fun x => { x with sequence := x.sequence + 1 }) { d with freeCtr := d.freeCtr + 32 }
  let d2 := updMbx D b (fun y => { y with buf := bytes }) d1
  let d3 := if b = .mctp then updPkg p (fun x => { x with rsp := x.rsp ++ [.record bytes] }) d2 else d2
  mbxFinish D b 0 [BitVec.ofNat 64 x.sequence, BitVec.ofNat 64 x.generation] d3

end Sys2Proof.Machine
end

