-- ==== Sys2Proof/Machine/Image.lean ====
section
/-! DEFINITION. The boot flash and its directory, Skouz images and their acceptance (R421 to R424). -/

namespace Sys2Proof.Machine

/-! ### Flash -/

/-- Bytes of the boot flash; erased flash reads 0xFF (PRESUMED, log entry 23). -/
def flashRead (d : Dev) (p off n : Nat) : List Byte := (List.range n).map (fun i => KMap.look 0xFF#8 (pkgSt d p).flash (off + i))

/-- Put bytes into the flash from an offset on. -/
def flashPut (m : KMap Byte) (off : Nat) : List Byte → KMap Byte
  | [] => m
  | b :: r => flashPut (KMap.put 0xFF#8 m off b) (off + 1) r

def flashWrite (p off : Nat) (l : List Byte) (d : Dev) : Dev := updPkg p (fun x => { x with flash := flashPut x.flash off l }) d

/-- A directory entry (R422): TYPE, SLOT (0 A, 1 B), flash offset, length. Their places within 16 bytes are PRESUMED (log entry 23). -/
structure DirSlot where
  typ : Nat
  slot : Nat
  off : Nat
  len : Nat
  deriving DecidableEq, Repr

/-- The little-endian number of some bytes of a byte string. -/
def leAt (l : List Byte) (o n : Nat) : Nat := ofBytes ((l.drop o).take n)

/-- The 16 entries of the directory at offset 0. -/
def flashDir (d : Dev) (p : Nat) : List DirSlot :=
  (List.range 16).map (fun i =>
    let e := flashRead d p (i * 16) 16
    ⟨leAt e 0 4, leAt e 4 4, leAt e 8 4, leAt e 12 4⟩)

/-- The place of a slot of an image type. -/
def slotPlace (d : Dev) (p typ slot : Nat) : Option DirSlot := (flashDir d p).find? (fun e => e.typ == typ && e.slot == slot)

/-! ### Images -/

/-- The header of a Skouz image (R421), and whether an image is accepted for a package (R422). -/
def imgType (l : List Byte) : Nat := leAt l 6 2
def imgVersion (l : List Byte) : Nat := leAt l 8 4
def imgSvn (l : List Byte) : Nat := leAt l 0xC 4
def imgEntry (l : List Byte) : Nat := leAt l 0x14 4
def imgLoad (l : List Byte) : Nat := leAt l 0x10 4
def imgLength (l : List Byte) : Nat := leAt l 0x18 4
def imgCommits (l : List Byte) : Bool := leAt l 0x1C 4 % 2 == 1
def imgKeySlot (l : List Byte) : Nat := leAt l 0x50 1
def imgPayload (l : List Byte) : List Byte := (l.drop 0x200).take (imgLength l)

/-- The conditions of R422 for an image of a type: MAGIC and FORMAT, key, signature, payload hash and rollback count; Crown firmware
and monitor firmware use key slot 0. -/
def imageOk (d : Dev) (p typ : Nat) (l : List Byte) : Bool :=
  let pub := (l.drop 0x60).take 96
  leAt l 0 4 == 0x315A4B53 && leAt l 4 2 == 1 && imgType l == typ && decide (1 ≤ typ) && decide (typ ≤ 3)
    && decide (imgKeySlot l < (if typ = 3 then 2 else 1)) && Config.sha384 pub == Config.fuseHash p (imgKeySlot l)
    && Config.ecdsaOk pub ((l.drop 0xC0).take 96) (l.take 0xC0) && Config.sha384 (imgPayload l) == (l.drop 0x20).take 48
    && decide (KMap.look 0 (pkgSt d p).fuses typ ≤ imgSvn l)

/-- The image that a slot of the flash holds. -/
def slotImage (d : Dev) (p typ slot : Nat) : Option (List Byte) :=
  match slotPlace d p typ slot with
  | none => none
  | some e => some (flashRead d p e.off (0x200 + leAt (flashRead d p e.off 0x20) 0x18 4))

/-- The slots of a type in the order in which secure start tries them (R423, R424): a slot that FW_ACTIVATE selected first, else the one
with the higher VERSION. -/
def slotOrder (d : Dev) (p typ : Nat) : List Nat :=
  let v (s : Nat) : Nat := match slotImage d p typ s with | some l => imgVersion l + 1 | none => 0
  match KMap.look 0 (pkgSt d p).select typ with
  | 1 => [0, 1]
  | 2 => [1, 0]
  | _ => if v 0 < v 1 then [1, 0] else [0, 1]

/-- The first image of a type that R422 accepts, with its slot. -/
def acceptedImage (d : Dev) (p typ : Nat) : Option (Nat × List Byte) :=
  (slotOrder d p typ).findSome? (fun s => match slotImage d p typ s with
    | some l => if imageOk d p typ l then some (s, l) else none
    | none => none)

/-- An image comes into use: its version, security version and slot (for a board description its key slot, R434). -/
def imageUse (p typ slot : Nat) (l : List Byte) (d : Dev) : Dev :=
  updPkg p (fun x => { x with
    fw := KMap.put none x.fw typ (some ⟨imgVersion l, imgSvn l, if typ = 3 then imgKeySlot l else slot⟩)
    running := KMap.put 0 x.running typ (slot + 1) }) d

/-! ### Updates (R424) -/

/-- The slot that an update of a type writes: the one that is not running. -/
def updateSlot (d : Dev) (p typ : Nat) : Nat := if KMap.look 0 (pkgSt d p).running typ = 1 then 1 else 0

/-- Whether the Crown of the die that drives the boot flash has failed (R431). -/
def flashLost (d : Dev) (p : Nat) : Bool := (dieSt d (flashDie d p)).crownDown

/-- An image is verified and written to the slot that is not running; whether it was. -/
def imageStage (p : Nat) (l : List Byte) (d : Dev) : Dev × Bool :=
  let t := imgType l
  let s := updateSlot d p t
  match slotPlace d p t s with
  | some e =>
    if imageOk d p t l && decide (l.length ≤ e.len) then
      (updPkg p (fun x => { x with staged := KMap.put 0 x.staged t (s + 1) }) (flashWrite p e.off l d), true)
    else (d, false)
  | none => (d, false)

/-- The staged slot of a type is used at the next package reset; whether one is staged. -/
def imageActivate (p typ : Nat) (d : Dev) : Dev × Bool :=
  match KMap.look 0 (pkgSt d p).staged typ with
  | 0 => (d, false)
  | s => (updPkg p (fun x => { x with select := KMap.put 0 x.select typ s }) d, true)

/-- Lines of DRAM read with partition 0's rights by the package Crown; none after a refusal or a poisoned line. -/
def crownLines (p : Nat) : Nat → Nat → Dev → Dev × Option (List Byte)
  | _, 0, d => (d, some [])
  | la, n + 1, d =>
    if !dramAdmits d Who.platform .r la then (portRefuse la Who.platform false d, none)
    else
      match unitRead ⟨.crown (crownDie d p), crownDie d p, .other, 430⟩ la Who.platform d with
      | (d1, .data l false) =>
        match crownLines p (la + 64) n d1 with
        | (d2, some r) => (d2, some (toBytes 64 l.toNat ++ r))
        | (d2, none) => (d2, none)
      | (d1, _) => (d1, none)

/-- Bytes of DRAM read with partition 0's rights. -/
def crownRead (p pa n : Nat) (d : Dev) : Dev × Option (List Byte) :=
  let la := pa / 64 * 64
  let r := crownLines p la ((pa - la + n + 63) / 64) d
  (r.1, r.2.map (fun l => (l.drop (pa - la)).take n))

end Sys2Proof.Machine
end

