-- ==== Sys2Proof/Machine/Mesh.lean ====
section
/-! DEFINITION. Mesh links, bandwidth reservation, bridges and routes between dies, reins, and the succession of the package Crown
(R248 to R267). -/

namespace Sys2Proof.Machine

/-! ### Mesh links (R248, R249) -/

def lnkSt (d : Dev) (D i : Nat) : LnkSt := KMap.look LnkSt.init d.lnks (D * 256 + i)
def updLnk (D i : Nat) (f : LnkSt → LnkSt) (d : Dev) : Dev := { d with lnks := KMap.modify LnkSt.init d.lnks (D * 256 + i) f }

/-- Whether the corrected errors call for a spare wire (R249): the limit is reached within the window, all name one wire, and the
group's spare is free. -/
def ceSwitch (d : Dev) (D i : Nat) (l : List (Nat × Nat × Nat)) : Bool :=
  let lim := fld d D Reg.LNK_CTL Fl.LNK_CTL_CE_LIMIT
  match l with
  | [] => false
  | e :: _ => lim != 0 && decide (lim ≤ l.length) && l.all (fun x => x.2 == e.2)
      && !(fld d D (Reg.LNK_STATUS i) Fl.LNK_STATUS_SPARE_USED).testBit e.2.1

/-- A handshake crosses link direction `i` (2 × link + direction): a good one, one with a corrected bit, or one refused and repeated;
after 3 refusals the direction is paused and FAILED. While it is paused the sender waits. -/
def handshake (D i : Nat) (c : HsCheck) (d : Dev) : Dev :=
  let st := Reg.LNK_STATUS i
  if flg d D st Fl.LNK_STATUS_PAUSED then d
  else
    match c with
    | .good => updLnk D i (fun x => { x with refusals := 0 }) d
    | .corrected g w =>
      let win := max 1 (fld d D Reg.LNK_CTL Fl.LNK_CTL_CE_WIN) * 1000000
      let l := (lnkSt d D i).ces.filter (fun e => decide (nowOf d D < e.1 + win)) ++ [(nowOf d D, g.val, w.val)]
      let d1 := bump D st Fl.LNK_STATUS_CE 1 (updLnk D i (fun _ => ⟨0, l⟩) d)
      if ceSwitch d D i l then setFlg D st Fl.LNK_STATUS_PAUSED true d1 else d1
    | .bad =>
      let n := (lnkSt d D i).refusals + 1
      let d1 := bump D st Fl.LNK_STATUS_REPEATS 1 (updLnk D i (fun x => { x with refusals := n }) d)
      if 3 ≤ n then raise D 473 (setFlg D st Fl.LNK_STATUS_FAILED true (setFlg D st Fl.LNK_STATUS_PAUSED true d1)) else d1

def execHandshake (D : Die) (i : Fin 194) (c : HsCheck) (s : State) : Host.Outcome State Fault Refusal := onDev s (handshake D i c)

/-- The Crown switches the spare wire of a group into service and resumes the link; `found` whether the test pattern isolated one
wire. With the group's spare in use, or no wire found, a FAILED direction stays so, which is fatal. -/
def spareWire (D i group : Nat) (found : Bool) (d : Dev) : Dev :=
  let st := Reg.LNK_STATUS i
  let used := fld d D st Fl.LNK_STATUS_SPARE_USED
  if !flg d D st Fl.LNK_STATUS_PAUSED then d
  else if found && !used.testBit group then
    let d1 := setFlg D st Fl.LNK_STATUS_FAILED false (setFlg D st Fl.LNK_STATUS_PAUSED false
      (setFld D st Fl.LNK_STATUS_SPARE_USED (used + 2 ^ group) (updLnk D i (fun _ => LnkSt.init) d)))
    raise D 472 (record D { ErrRec.mk' 0 0x04 i 0x06 with info0 := group } d1)
  else if flg d D st Fl.LNK_STATUS_FAILED then fatal D 0x04 i 0x17 d
  else setFlg D st Fl.LNK_STATUS_PAUSED false d

def execSpareWireSwitch (D : Die) (i : Fin 194) (group : Fin 16) (found : Bool) (s : State) : Host.Outcome State Fault Refusal :=
  onDev s (spareWire D i group found)

/-! ### Bandwidth reservation (R250 to R252) -/

/-- The shares of a MSH.BWRES value that count: all five if it is enabled. -/
def bwShares (w : Word) : Nat :=
  if getB Fl.BWRES_EN w then
    getF Fl.BWRES_REQ w + getF Fl.BWRES_SNP w + getF Fl.BWRES_RSP w + getF Fl.BWRES_DAT w + getF Fl.BWRES_QUE w
  else 0

/-- The sum of the enabled shares on a die. -/
def bwTotal (d : Dev) (D : Nat) : Nat := (List.range 64).foldl (fun n p => n + bwShares (rg d D (Reg.BWRES p))) 0

/-- A write of MSH.BWRES: locked while the partition is sealed; refused if the total would exceed 60. -/
def bwresWrite (D p : Nat) (v : Word) (d : Dev) : Dev :=
  let new := v &&& 0x800000003FFFFFFF#64
  let total := bwTotal d D - bwShares (rg d D (Reg.BWRES p)) + bwShares new
  if isSealed d p then d
  else if 60 < total then setFlg D Reg.BWSTAT Fl.BWSTAT_REFUSED true d
  else forAll (d.cfg.diesOf (D / 8)) (fun E => setFld E Reg.BWSTAT Fl.BWSTAT_TOTAL total) (wr D (Reg.BWRES p) new d)

def execBwresWrite (D : Die) (p : BitVec 6) (v : Word) (s : State) : Host.Outcome State Fault Refusal :=
  onDev s (bwresWrite D p.toNat v)

/-! ### Bridges (R255 to R257) -/

/-- Deliver the messages of a frame in order. -/
def deliverAll (ms : List Msg) (d : Dev) : Dev := forAll ms msgStep d

/-- Deliver the frames that follow in sequence; `fuel` at least the number held. -/
def bridgeDrain (D b : Nat) : Nat → Dev → Dev
  | 0, d => d
  | f + 1, d =>
    let x := brgSt d D b
    match x.hold.find? (fun e => e.1 == x.expect) with
    | some e =>
      bridgeDrain D b f (deliverAll e.2 (updBrg D b (fun y =>
        { y with expect := y.expect + 1, hold := y.hold.filter (fun h => h.1 != e.1) }) d))
    | none => d

/-- A frame reaches the receiver of a bridge (R256): a bad one is discarded with the later ones; good ones are delivered in sequence
order. A frame for a bridge in retention wakes it and waits (R371). -/
def bridgeFrame (D b seq : Nat) (ok : Bool) (ms : List Msg) (d : Dev) : Dev :=
  if !domOn d D (96 + b) then domReach D (96 + b) d
  else if fld d D (Reg.BRG_STATUS b) Fl.BRG_STATUS_STATE ≠ 2 then d
  else if !ok then
    bump D (Reg.BRG_ERR b) Fl.BRG_ERR_CRC_ERR 1 (updBrg D b (fun x => { x with hold := x.hold.filter (fun h => decide (h.1 < seq)) }) d)
  else
    let x := brgSt d D b
    if seq < x.expect ∨ 128 ≤ seq - x.expect ∨ x.hold.any (fun h => h.1 == seq) = true then d
    else
      let d1 := bridgeDrain D b 129 (updBrg D b (fun y => { y with hold := y.hold ++ [(seq, ms)] }) d)
      let far := brgFar d D b
      -- the acknowledgement of what has been delivered
      updBrg far.1 far.2 (fun y => { y with unack := match y.unack with
        | some u => if u < (brgSt d1 D b).expect then none else some u
        | none => none }) d1

def execBridgeFrame (D : Die) (b : Fin 3) (seq : Nat) (ok : Bool) (ms : List Msg) (s : State) : Host.Outcome State Fault Refusal :=
  onDev s (bridgeFrame D b seq ok ms)

/-- Event k of bridge b (R348). -/
def raiseBrg (D b k : Nat) (d : Dev) : Dev := raise D (448 + 8 * b + k) d

/-- Count a replay (R267): the first after software cleared REPLAYS, and every 1,024th after it, writes a record, which a
bridge reports with its event k = 2. -/
def replayCount (D off : Nat) (kind unit : Nat) (f : Fld) (d : Dev) : Dev :=
  let n := fld d D off f
  let d1 := bump D off f 1 d
  let d2 := if kind = 0x05 then raiseBrg D unit 2 d1 else d1
  if n % 1024 = 0 then record D { ErrRec.mk' 0 kind unit 0x04 with count := if n = 0 then 1 else 1024 } d2 else d1

/-- A module begins to retrain (R257), unless it is out of service. -/
def moduleTrain (D b m : Nat) (d : Dev) : Dev :=
  if !(fld d D (Reg.BRG_STATUS b) Fl.BRG_STATUS_MOD_UP).testBit m || (brgSt d D b).training.contains m then d
  else updBrg D b (fun x => { x with training := x.training ++ [m] }) d

/-- A negative acknowledgement reaches the transmitter (R256): it sends again from the frame named, on the same module; REPLAY_MAX
replays within REPLAY_WIN retrain the module. -/
def bridgeNak (D b m seq : Nat) (d : Dev) : Dev :=
  let ctl := rg d D (Reg.BRG_CTL b)
  let win := max 1 (getF Fl.BRG_CTL_REPLAY_WIN ctl) * 1000
  let l := (brgSt d D b).replays.filter (fun e => decide (nowOf d D < e.2 + win)) ++ [(m, nowOf d D)]
  let d1 := replayCount D (Reg.BRG_ERR b) 0x05 b Fl.BRG_ERR_REPLAYS (updBrg D b (fun x => { x with replays := l, unack := some seq }) d)
  if max 1 (getF Fl.BRG_CTL_REPLAY_MAX ctl) ≤ (l.filter (fun e => e.1 == m)).length then
    moduleTrain D b m (updBrg D b (fun x => { x with replays := l.filter (fun e => e.1 != m) }) d1)
  else d1

def execNegativeAcknowledgement (D : Die) (b : Fin 3) (m : Fin 2) (seq : Nat) (s : State) : Host.Outcome State Fault Refusal :=
  onDev s (bridgeNak D b m seq)

/-- The periodic margin check of a module (R257); MARGIN_PERIOD 0 disables it. -/
def marginCheck (D b m : Nat) (pass : Bool) (d : Dev) : Dev :=
  if pass = true ∨ fld d D (Reg.BRG_CTL b) Fl.BRG_CTL_MARGIN_PERIOD = 0 then d else moduleTrain D b m d

def execMarginCheck (D : Die) (b : Fin 3) (m : Fin 2) (pass : Bool) (s : State) : Host.Outcome State Fault Refusal :=
  onDev s (marginCheck D b m pass)

/-- A bit of a field set or cleared. -/
def setBitOf (n i : Nat) (v : Bool) : Nat := if v then n ||| 2 ^ i else n - (n &&& 2 ^ i)

/-- Set a bit of a field of BRG.STATUS at one end. -/
def brgBit (D b : Nat) (f : Fld) (m : Nat) (v : Bool) (d : Dev) : Dev :=
  setFld D (Reg.BRG_STATUS b) f (setBitOf (fld d D (Reg.BRG_STATUS b) f) m v) d

/-- One end of a bridge with a module out of service: with both out it is down, which an uncorrected-contained record reports (R257,
R267). -/
def moduleOut (D b m : Nat) (d : Dev) : Dev :=
  let d1 := raiseBrg D b 0 (brgBit D b Fl.BRG_STATUS_MOD_UP m false d)
  if fld d1 D (Reg.BRG_STATUS b) Fl.BRG_STATUS_MOD_UP = 0 ∧ fld d D (Reg.BRG_STATUS b) Fl.BRG_STATUS_STATE ≠ 3 then
    raiseBrg D b 3 (record D (ErrRec.mk' 2 0x05 b 0x17) (setFld D (Reg.BRG_STATUS b) Fl.BRG_STATUS_STATE 3 d1))
  else d1

/-- A module finishes retraining (R257): `lanes` repaired in the receive direction, at 16 GT/s or not, or it does not train at all. -/
def moduleRetrain (D b m lanes : Nat) (low ok : Bool) (d : Dev) : Dev :=
  let first := fld d D (Reg.BRG_STATUS b) Fl.BRG_STATUS_STATE == 1
  if !(brgSt d D b).training.contains m && !first then d
  else
    let repF := if m = 0 then Fl.BRG_STATUS_REP0 else Fl.BRG_STATUS_REP1
    let old := fld d D (Reg.BRG_STATUS b) repF
    let d1 := bump D (Reg.BRG_ERR b) Fl.BRG_ERR_RETRAINS 1 (updBrg D b (fun x => { x with training := x.training.filter (· != m) }) d)
    let d2 := raiseBrg D b 0 (record D { ErrRec.mk' 0 0x05 b 0x05 with info0 := m } d1)
    if !ok || decide (4 < lanes) then
      let far := brgFar d D b
      moduleOut far.1 far.2 m (moduleOut D b m d2)
    else
      let d3 := setFld D (Reg.BRG_STATUS b) repF lanes d2
      let d4 := if old < lanes then raiseBrg D b 1 (record D { ErrRec.mk' 0 0x05 b 0x06 with info0 := m, info1 := lanes } d3) else d3
      let d5 := setFld D (Reg.BRG_STATUS b) Fl.BRG_STATUS_STATE 2 (brgBit D b Fl.BRG_STATUS_MOD_UP m true (brgBit D b Fl.BRG_STATUS_LOW_RATE m low d4))
      let slow := fld d5 D (Reg.BRG_STATUS b) Fl.BRG_STATUS_LOW_RATE &&& fld d5 D (Reg.BRG_STATUS b) Fl.BRG_STATUS_MOD_UP
      oppSet D (96 + b) (if slow = fld d5 D (Reg.BRG_STATUS b) Fl.BRG_STATUS_MOD_UP then 0 else 1) d5

def execModuleRetrain (D : Die) (b : Fin 3) (m : Fin 2) (lanes : Nat) (low ok : Bool) (s : State) : Host.Outcome State Fault Refusal :=
  onDev s (moduleRetrain D b m lanes low ok)

/-! ### Routes between dies (R258, R259) -/

/-- Whether bridge `b` of die `j` of a package leads to a present die and is in service at both ends. -/
def bridgeUp (d : Dev) (p j b : Nat) : Bool :=
  let e := bridgeTo j b
  decide (j < d.cfg.ndie p) && decide (e < d.cfg.ndie p) && !(b == 1 && decide (j < 2))
    && fld d (p * 8 + j) (Reg.BRG_STATUS b) Fl.BRG_STATUS_STATE == 2
    && fld d (p * 8 + e) (Reg.BRG_STATUS (bridgeBack b)) Fl.BRG_STATUS_STATE == 2

/-- The dies that reach die `j` over at most `n` bridges, with the number of bridges. -/
def reachOf (d : Dev) (p j : Nat) : Nat → List (Nat × Nat)
  | 0 => [(j, 0)]
  | n + 1 =>
    let l := reachOf d p j n
    let new := (List.range (d.cfg.ndie p)).filter (fun i => !l.any (fun e => e.1 == i)
      && (List.range 3).any (fun b => bridgeUp d p i b && l.any (fun e => e.1 == bridgeTo i b)))
    l ++ new.map (fun i => (i, n + 1))

/-- The bridges from a die to another on the shortest route, along the row first (R258). -/
def nextBridge (d : Dev) (p i j : Nat) : Option Nat :=
  let l := reachOf d p j 7
  let dist (k : Nat) : Option Nat := (l.find? (fun e => e.1 == k)).map (·.2)
  match dist i with
  | none => none
  | some n => [1, 2, 0].find? (fun b => bridgeUp d p i b && (match dist (bridgeTo i b) with | some m => m + 1 == n | none => false))

/-- The entry of DIE_BR for a destination. -/
def routeEntry (d : Dev) (p i j : Nat) : Nat := if i = j then 3 else (nextBridge d p i j).getD 3

/-- The table of a die. -/
def routeTable (d : Dev) (p i : Nat) : Nat :=
  (List.range 8).foldl (fun n j => n + (if j < d.cfg.ndie p then routeEntry d p i j else 3) * 4 ^ j) 0

/-- After a bridge has gone down: injection is paused toward each destination whose route changes; a die that cannot be reached any
more is a fatal fault (R259, R437). -/
def reroute (D b : Nat) (d : Dev) : Dev :=
  let p := D / 8
  if fld d D (Reg.BRG_STATUS b) Fl.BRG_STATUS_STATE ≠ 3 then d
  else
    let dies := List.range (d.cfg.ndie p)
    let old (i j : Nat) : Nat := fld d (p * 8 + i) Reg.ROUTE Fl.ROUTE_DIE_BR / 4 ^ j % 4
    let changed := dies.flatMap (fun i => (dies.filter (fun j => old i j != routeEntry d p i j)).map (fun j => (i, j)))
    let d1 := updPkg p (fun x => { x with paused := changed }) d
    if dies.any (fun j => routeEntry d p 0 j == 3 && j != 0) then fatal D 0x05 b 0x17 d1 else d1

def execReroute (D : Die) (b : Fin 3) (s : State) : Host.Outcome State Fault Refusal := onDev s (reroute D b)

/-- The old routes are empty: the new tables are written on every die, and injection resumes (R259). -/
def rerouteDone (p : Nat) (d : Dev) : Dev :=
  if (pkgSt d p).paused.isEmpty then d
  else
    updPkg p (fun x => { x with paused := [] })
      (forAll (List.range (d.cfg.ndie p)) (fun i d' => raise (p * 8 + i) 474
        (setFld (p * 8 + i) Reg.ROUTE Fl.ROUTE_DIE_BR (routeTable d p i) d')) d)

def execRerouteDrainComplete (p : Pkg) (s : State) : Host.Outcome State Fault Refusal := onDev s (rerouteDone p)

/-! ### Reins (R260 to R263) -/

def reinSt (d : Dev) (D : Nat) : ReinSt := KMap.look ReinSt.init d.reins D
def updRein (D : Nat) (f : ReinSt → ReinSt) (d : Dev) : Dev := { d with reins := KMap.modify ReinSt.init d.reins D f }
def reinState (d : Dev) (D : Nat) : Nat := fld d D Reg.REIN_STATUS Fl.REIN_STATUS_STATE
def reinFar (d : Dev) (D : Nat) : Nat := fld d D Reg.REIN_STATUS Fl.REIN_STATUS_FAR_PKG
/-- The die at the far end of a rein. -/
def reinFarDie (d : Dev) (D : Nat) : Nat := reinFar d D * 8 + fld d D Reg.REIN_STATUS Fl.REIN_STATUS_FAR_DIE

/-- The number that orders the reins of a pair of packages (R262): the die of the end in the lower-numbered package. -/
def reinOrder (d : Dev) (D : Nat) : Nat :=
  if D / 8 < reinFar d D then D % 8 else fld d D Reg.REIN_STATUS Fl.REIN_STATUS_FAR_DIE

/-- The trained reins of a package to another, in their order. -/
def reinsTo (d : Dev) (p q : Nat) : List Nat :=
  let l := (d.cfg.diesOf p).filter (fun D => (reinState d D == 3 || reinState d D == 4) && reinFar d D == q)
  ((List.range 8).map (fun k => l.filter (fun D => reinOrder d D == k))).flatten

/-- A die's entry in REIN_ACT or REIN_SPARE for a package. -/
def setReinField (p q : Nat) (f : Fld) (v : Option Nat) (d : Dev) : Dev :=
  forAll (d.cfg.diesOf p) (fun D d =>
    let old := fld d D Reg.ROUTE f
    let clr := old - (old / 2 ^ (4 * q) % 16) * 2 ^ (4 * q)
    setFld D Reg.ROUTE f (clr + (match v with | some k => (k + 8) * 2 ^ (4 * q) | none => 0)) d) d

/-- The first rein of a pair in its order is active, every other one a spare (R262); `MSH.ROUTE` on every die names both. -/
def reinAssign (p q : Nat) (d : Dev) : Dev :=
  let l := reinsTo d p q
  let mark (x : Nat × Nat) (d : Dev) : Dev :=
    setFlg x.1 Reg.KPR_STATUS Fl.KPR_STATUS_ACTIVE (x.2 == 0)
      (setFld x.1 Reg.REIN_STATUS Fl.REIN_STATUS_STATE (if x.2 = 0 then 3 else 4) d)
  setReinField p q Fl.ROUTE_REIN_SPARE (l[1]?.map (· % 8)) (setReinField p q Fl.ROUTE_REIN_ACT (l[0]?.map (· % 8))
    (forAll l.zipIdx mark d))

/-- Why a partner is refused (R261); 0 when it is not. -/
def idRefusal (d : Dev) (D : Nat) (f : IdFrame) : Nat :=
  if 2 ≤ f.series then 2
  else if !f.proto then 4
  else if f.pkg.val = D / 8 then 1
  else if f.master = true ∧ D / 8 = d.cfg.master then 3
  else 0

/-- An identity frame is received (R261). -/
def identity (D : Nat) (f : IdFrame) (d : Dev) : Dev :=
  if hspMode d D ≠ 2 ∨ d.cfg.present D = false then d
  else
    let r := idRefusal d D f
    let w := rg d D Reg.REIN_STATUS
    let w1 := setF Fl.REIN_STATUS_REFUSE r (setB Fl.REIN_STATUS_FAR_MASTER f.master (setB Fl.REIN_STATUS_FAR_COMPAT (f.series == 1)
      (setF Fl.REIN_STATUS_FAR_DIE f.die.val (setF Fl.REIN_STATUS_FAR_PKG f.pkg.val w))))
    if r ≠ 0 then
      raise D 431 (setFlg D Reg.KPR_STATUS Fl.KPR_STATUS_ACTIVE false (wr D Reg.REIN_STATUS (setF Fl.REIN_STATUS_STATE 5 w1) d))
    else
      let d1 := wr D Reg.REIN_STATUS (setF Fl.REIN_STATUS_STATE 4 w1) d
      let d2 := setFlg D Reg.KPR_STATUS Fl.KPR_STATUS_FAR_COMPAT (f.series == 1)
        (setFld D Reg.KPR_STATUS Fl.KPR_STATUS_FAR_PKG f.pkg.val d1)
      raise D 431 (reinAssign (D / 8) f.pkg.val d2)

def execIdentityFrame (D : Die) (f : IdFrame) (s : State) : Host.Outcome State Fault Refusal := onDev s (identity D f)

/-- A rein enters recovery at one end. -/
def reinRecover (D : Nat) (d : Dev) : Dev :=
  if reinState d D = 3 ∨ reinState d D = 4 then
    setFld D Reg.REIN_STATUS Fl.REIN_STATUS_STATE 1 (updRein D (fun x => { x with was := some (reinState d D), replays := [] }) d)
  else d

/-- A negative acknowledgement reaches the rein's transmitter on a die: it replays, and REPLAY_MAX replays within REPLAY_WIN start a
recovery at both ends (R263). -/
def reinReplay (D seq : Nat) (d : Dev) : Dev :=
  let ctl := rg d D Reg.REIN_CTL
  let win := max 1 (getF Fl.REIN_CTL_REPLAY_WIN ctl) * 1000
  let l := (reinSt d D).replays.filter (fun t => decide (nowOf d D < t + win)) ++ [nowOf d D]
  let d1 := replayCount D Reg.REIN_ERR 0x06 (reinFar d D) Fl.REIN_ERR_REPLAYS
    (updRein D (fun x => { x with replays := l, unack := some seq }) d)
  if max 1 (getF Fl.REIN_CTL_REPLAY_MAX ctl) ≤ l.length then reinRecover (reinFarDie d D) (reinRecover D d1) else d1

/-- A FLIT reaches the receiver of a rein (R260, R263): a bad one is not acknowledged and the far end replays; a good one in sequence is
acknowledged, and an active rein's messages are delivered. -/
def reinFlit (D seq : Nat) (ok : Bool) (ms : List Msg) (d : Dev) : Dev :=
  if reinState d D ≠ 3 ∧ reinState d D ≠ 4 then d
  else if !ok then reinReplay (reinFarDie d D) seq (bump D Reg.REIN_ERR Fl.REIN_ERR_CRC_ERR 1 d)
  else if seq ≠ (reinSt d D).expect then d
  else
    let far := reinFarDie d D
    let d1 := updRein far (fun x => { x with unack := match x.unack with | some u => if u ≤ seq then none else some u | none => none })
      (updRein D (fun x => { x with expect := x.expect + 1 }) d)
    if reinState d D = 3 then deliverAll ms d1 else d1

def execReinFlit (D : Die) (seq : Nat) (ok : Bool) (ms : List Msg) (s : State) : Host.Outcome State Fault Refusal :=
  onDev s (reinFlit D seq ok ms)

/-- A rein finishes its recovery (R263): it is as before at full width and rate; else it is down, to be replaced. -/
def reinRecovered (D : Nat) (ok x8 low : Bool) (d : Dev) : Dev :=
  match (reinSt d D).was with
  | none => d
  | some st =>
    let q := reinFar d D
    let d1 := record D (ErrRec.mk' 0 0x06 q 0x05) (bump D Reg.REIN_ERR Fl.REIN_ERR_RETRAINS 1 (updRein D (fun x => { x with was := none }) d))
    let d2 := setFlg D Reg.REIN_STATUS Fl.REIN_STATUS_RATE32 low (setFlg D Reg.REIN_STATUS Fl.REIN_STATUS_X8 x8 d1)
    if ok && !x8 && !low then setFld D Reg.REIN_STATUS Fl.REIN_STATUS_STATE st d2
    else
      raise D 432 (record D (ErrRec.mk' 2 0x06 q 0x17) (setFlg D Reg.KPR_STATUS Fl.KPR_STATUS_ACTIVE false
        (setFld D Reg.REIN_STATUS Fl.REIN_STATUS_STATE 6 (updRein D (fun x => { x with failed := st == 3 }) d2))))

def execReinRecovery (D : Die) (ok x8 low : Bool) (s : State) : Host.Outcome State Fault Refusal := onDev s (reinRecovered D ok x8 low)

/-- A failed rein is replaced by the spare of its pair (R263): both ends of the pair's first remaining rein become active, on every die
of both packages. With none left the loss is fatal for both packages (R437). -/
def reinReplace (D : Nat) (d : Dev) : Dev :=
  let p := D / 8
  let q := reinFar d D
  if !(reinSt d D).failed then d
  else
    let far := reinFarDie d D
    let down (E : Nat) (d : Dev) : Dev :=
      setFlg E Reg.KPR_STATUS Fl.KPR_STATUS_ACTIVE false (setFld E Reg.REIN_STATUS Fl.REIN_STATUS_STATE 6
        (updRein E (fun _ => ReinSt.init) d))
    let d1 := down far (down D d)
    match reinsTo d1 p q with
    | [] => fatal far 0x06 p 0x17 (fatal D 0x06 q 0x17 (reinAssign q p (reinAssign p q d1)))
    | _ :: _ => raise far 432 (raise D 432 (reinAssign q p (reinAssign p q d1)))

def execSpareReinReplacement (D : Die) (s : State) : Host.Outcome State Fault Refusal := onDev s (reinReplace D)

/-! ### Succession of the package Crown (R265, R266) -/

/-- The package Crown sends its heartbeat, and every die of the package receives it. A failed Crown sends none. -/
def heartbeat (p : Nat) (d : Dev) : Dev :=
  if (dieSt d (crownDie d p)).crownDown then d
  else forAll (d.cfg.diesOf p) (fun D => updDie D (fun x => { x with hbAt := nowOf d D })) d

def execHeartbeat (p : Pkg) (s : State) : Host.Outcome State Fault Refusal := onDev s (heartbeat p)

/-- A die's Crown has failed: the commands pending in its mailboxes are executed again from their start by the package Crown (R427), and
ALERT_N stays asserted when that die drives the boot flash (R431). -/
def crownFail (D : Nat) (d : Dev) : Dev :=
  let again (x : MbxSt) : MbxSt := if x.busy then { x with replayed := true } else x
  let d1 := updCrn D (fun x => { x with mbx := x.mbx.map (fun e => (e.1, again e.2)) }) (updDie D (fun x => { x with crownDown := true }) d)
  if D = flashDie d (D / 8) then updPkg (D / 8) (fun x => { x with alert := true }) d1 else d1

/-- A claim (E, k) at a die's MSH.SUCC: accepted if E is greater than EPOCH, or equal to it with k less than MASTER. The package Crown is
the one that the die names; the one it replaces has failed (R266). -/
def claimAt (D e k : Nat) (d : Dev) : Dev :=
  let w := rg d D Reg.SUCC
  if getF Fl.SUCC_EPOCH w < e ∨ (getF Fl.SUCC_EPOCH w = e ∧ k < getF Fl.SUCC_MASTER w) then
    let p := D / 8
    let d1 := wr D Reg.SUCC (setB Fl.SUCC_DEGRADED true (setF Fl.SUCC_EPOCH e (setF Fl.SUCC_MASTER k w))) d
    if (pkgSt d p).crown = k then d1
    else
      let d2 := crownFail (crownDie d p) (updPkg p (fun x => { x with crown := k }) d1)
      raisePkg p 501 (record (p * 8 + k) (ErrRec.mk' 0 0x0A (crownDie d p % 8) 0x1C) d2)
  else d

/-- The heartbeat timeout of a die in nanoseconds. -/
def hbTimeout (d : Dev) (D : Nat) : Nat := max 5 (min 100 (fld d D Reg.SUCC Fl.SUCC_TIMEOUT)) * 100000

/-- A Crown has received no heartbeat for TIMEOUT: it claims the role with the next epoch, and every die receives the claim. -/
def hbExpire (D : Nat) (d : Dev) : Dev :=
  let p := D / 8
  if !d.cfg.present D || crownDie d p == D || (dieSt d D).crownDown
      || decide (nowOf d D < (dieSt d D).hbAt + hbTimeout d D) then d
  else claimAt D (fld d D Reg.SUCC Fl.SUCC_EPOCH + 1) (D % 8) d

def execHeartbeatTimeout (D : Die) (s : State) : Host.Outcome State Fault Refusal := onDev s (hbExpire D)

/-- A claim (E, k) reaches a die. A Crown that receives one for the next epoch from a higher-numbered die claims that epoch itself. -/
def claimRecv (D e k : Nat) (d : Dev) : Dev :=
  let next := e == fld d D Reg.SUCC Fl.SUCC_EPOCH + 1
  let d1 := claimAt D e k d
  if next && decide (D % 8 < k) && !(dieSt d D).crownDown && d.cfg.present D then claimAt D e (D % 8) d1 else d1

def execClaim (D : Die) (e : BitVec 16) (k : Fin 8) (s : State) : Host.Outcome State Fault Refusal := onDev s (claimRecv D e.toNat k)

end Sys2Proof.Machine
end

