-- ==== Sys2Proof/Machine/Ports.lean ====
section
/-! DEFINITION. Memory ports: slots, command choice, training, remapping, takeover by the spare, masks, reservations, repair rewrites,
scrubbing, the check cache and code conversion (R272 to R309). What a request does to the stored data is in Dram.lean. -/

namespace Sys2Proof.Machine

/-! ### Lines of a port -/

/-- The logical port of a die that a physical port serves. -/
def lportOf (d : Dev) (k : Nat) : Option Nat := (List.range 6).find? (fun n => physPort d (portDie k) n == k)

/-- The physical address of a port data address, for a port that serves a logical one. -/
def paOf (d : Dev) (k dd : Nat) : Option Nat :=
  (lportOf d k).map (fun n => portDie k / 8 * 2 ^ 40 + winOffset d (portDie k) n dd)

/-- The port data address of a line by channel, bank, column line and data row (R274). -/
def lineAt (d : Dev) (k chan bank col row : Nat) : Option Nat :=
  ((List.range 64).map (fun i => row * 2 ^ 17 + col / 4 * 2 ^ 14 + i * 256 + col % 4 * 64)).find? (fun dd =>
    (splitD d k dd).chan == chan && (splitD d k dd).bank == bank)

/-- The physical addresses of the lines of a data row. -/
def rowLines (d : Dev) (k chan bank row : Nat) : List Nat :=
  (List.range 32).filterMap (fun col => (lineAt d k chan bank col row).bind (paOf d k))

/-- The data line `i` (0 to 255) of a block. -/
def blockLine (d : Dev) (k block chan bank i : Nat) : Option Nat := lineAt d k chan bank (i % 32) (block * 8 + i / 32)

/-- Blocks per bank of a port. -/
def blocksOf (d : Dev) (k : Nat) : Nat := (portGeom d k).2.2 / 8

/-- A line is read and written back (R289, R291, R309): corrected if its code can, poisoned if it cannot be corrected. -/
def fixLine (la : Nat) (d : Dev) : Dev :=
  match decodeLine d la with
  | .corrected data _ _ => storeLine la false data d
  | .uncorrectable => storeLine la true (storedData d la) d
  | _ => d

/-! ### Slots (R276, R279, R283) -/

/-- The reservation of a partition at a port: the first enabled one that names it. -/
def resvOf (d : Dev) (k part : Nat) : Option Nat :=
  (List.range 4).find? (fun m => let w := rg d (portDie k) (Reg.PORT_RESV (portNum k) m)
    getB Fl.PORT_RESV_EN w && getF Fl.PORT_RESV_PART w == part)
def resvFld (d : Dev) (k m : Nat) (f : Fld) : Nat := fld d (portDie k) (Reg.PORT_RESV (portNum k) m) f
def resvEn (d : Dev) (k : Nat) : List Nat := (List.range 4).filter (fun m => flg d (portDie k) (Reg.PORT_RESV (portNum k) m) Fl.PORT_RESV_EN)

/-- Slots that a partition holds. -/
def slotsOf (d : Dev) (k part : Nat) : Nat := ((portSt d k).slots.filter (fun r => r.who.part.toNat == part)).length

/-- Whether a slot is free for a request of a partition: one of its reserved slots, or, unless it is sealed, one that nobody reserved. -/
def slotFor (d : Dev) (k part : Nat) : Bool :=
  let res := resvEn d k
  let all := res.foldl (fun n m => n + resvFld d k m Fl.PORT_RESV_SLOTS) 0
  let inRes := res.foldl (fun n m => n + min (slotsOf d k (resvFld d k m Fl.PORT_RESV_PART)) (resvFld d k m Fl.PORT_RESV_SLOTS)) 0
  let free := decide ((portSt d k).slots.length - inRes < 512 - all)
  match resvOf d k part with
  | some m => decide (slotsOf d k part < resvFld d k m Fl.PORT_RESV_SLOTS) || (free && !isSealed d part)
  | none => free

/-- The throttle in force for a source at a port (R282). -/
def throttleOf (d : Dev) (k : Nat) (who : Who) : Option Throttle :=
  (portSt d k).throttles.find? (fun t => t.who == who && decide (nowOf d (portDie k) < t.endAt))

/-- Whether a source may take another slot (R283). -/
def mayTake (d : Dev) (k : Nat) (who : Who) : Bool :=
  let lim := max 1 (min 64 (fld d (portDie k) (Reg.RD_CTL (portNum k)) Fl.RD_CTL_THR_SLOTS))
  (throttleOf d k who).isNone || decide (((portSt d k).slots.filter (fun r => r.who == who)).length < lim)

/-- A request is accepted into a slot. Requests to overlapping bytes are performed in the order of acceptance, a write is complete when
it holds a slot, and a read of bytes that an accepted write covers is served from it (R276): so what the request does to the
data is done at its acceptance, and the slot is held until its row command is issued. -/
def slotAccept (k : Nat) (r : MemReq) (d : Dev) : Dev :=
  let la := r.pa / 64 * 64
  let hold (v : Option (LineData × Bool)) (d : Dev) : Dev :=
    updPort k (fun x => { x with slots := x.slots ++ [{ r with d := (portOf d la).2, at' := nowOf d (portDie k), val := v }] }) d
  match r.op with
  | .read => hold (some (lineValue d la)) (lineRead la d)
  | .write data poison => hold none (lineWrite la data poison d)
  | .partialWrite data be =>
    let v := lineValue d la
    hold none (lineWrite la (lineMerge v.1 data be) v.2 (lineRead la d))
  | .atomic off a =>
    let v := lineValue d la
    let old := dramAtomicOld d la off a
    let new := if v.2 then v.1 else linePut v.1 off a.size (a.apply (lineGet v.1 off a.size))
    hold (some (BitVec.ofNat 512 old.1, old.2)) (lineWrite la new v.2 (lineRead la d))

/-- Held requests take slots as their sources may (R283), in the order in which they came; `fuel` at least their number. -/
def holdPump (k : Nat) : Nat → Dev → Dev
  | 0, d => d
  | f + 1, d =>
    match takeFirst (fun r => mayTake d k r.who && slotFor d k r.who.part.toNat) (portSt d k).hold with
    | some (r, rest) => holdPump k f (slotAccept k r (updPort k (fun x => { x with hold := rest }) d))
    | none => d

/-- What an operation needs of the firewall (R324). -/
def memNeed : MemOp → Need
  | .read => .r
  | .write _ _ => .w
  | .partialWrite _ _ => .rw
  | .atomic _ _ => .rw

/-- A request reaches a memory port (R276, R283): refused by the port's firewall, performed by a failed port (R292), accepted into a
slot, put into the hold, or left waiting in the request channel; a full hold stops every source and is counted. -/
def memRequest (r : MemReq) (d : Dev) : Dev :=
  let k := (portOf d r.pa).1
  if !dramAdmits d r.who (memNeed r.op) r.pa then
    updPort k (fun x => { x with done := if r.op = .read then x.done ++ [(r.tag, 0, true)] else x.done })
      (portRefuse r.pa r.who (r.op != .read) d)
  else
    let d1 := portReach k d
    let st := portState d1 k
    if st = 6 then
      (match r.op with
       | .read => updPort k (fun x => { x with done := x.done ++ [(r.tag, (lineValue d1 (r.pa / 64 * 64)).1, true)] })
          (lineRead (r.pa / 64 * 64) d1)
       | _ => d1)
    else if st ≠ 3 ∧ st ≠ 4 then d1
    else if 64 ≤ (portSt d1 k).hold.length then bump (portDie k) (Reg.RD_STAT (portNum k)) Fl.RD_STAT_HOLD_FULL 1 d1
    else if !mayTake d1 k r.who then updPort k (fun x => { x with hold := x.hold ++ [r] }) d1
    else if slotFor d1 k r.who.part.toNat then slotAccept k r d1
    else d1

def execMemoryRequest (src : Agent) (tag : Nat) (op : MemOp) (pa : Nat) (who : Who) (qos : BitVec 4) (s : State) :
    Host.Outcome State Fault Refusal := onDev s (memRequest ⟨src, tag, op, 0, pa, who, qos.toNat, 0, none⟩)

/-! ### Choice of the next command (R278, R279, R282) -/

/-- The latency target of a class. -/
def qosTarget (d : Dev) (k cls : Nat) : Nat :=
  fld d (portDie k) (Reg.QOS_TGT (portNum k) (cls / 4)) Fl.QOS_TGT_TGT / 2 ^ (16 * (cls % 4)) % 2 ^ 16

/-- Urgency of a request. -/
def urgency (d : Dev) (k : Nat) (r : MemReq) : Nat :=
  let t := qosTarget d k r.qos
  let age := nowOf d (portDie k) - r.at'
  if t = 0 ∨ age * 2 < t then 0 else if age * 4 < t * 3 then 1 else if age * 10 < t * 9 then 2 else 3

/-- The channel × 16 + bank and the row that serve a request. -/
def reqRow (d : Dev) (k : Nat) (r : MemReq) : Nat × Nat :=
  let x := splitD d k r.d
  let t := rowTarget d k x.chan x.bank (physRow x.dataRow)
  (x.chan * 16 + t.1, t.2)
def rowIsOpen (d : Dev) (k : Nat) (r : MemReq) : Bool :=
  KMap.look none (portSt d k).openRow (reqRow d k r).1 == some (reqRow d k r).2

/-- Whether a request is a read. -/
def isReadReq (r : MemReq) : Bool := match r.op with | .read => true | _ => false

/-- Whether a throttle lets a request be issued now: a row hit, or THR_GAP × 10 ns after its source's last activation there. -/
def gapOk (d : Dev) (k : Nat) (r : MemReq) : Bool :=
  rowIsOpen d k r || (match (portSt d k).throttles.find? (fun t => t.who == r.who && t.bank == (reqRow d k r).1
      && decide (nowOf d (portDie k) < t.endAt)) with
    | some t => decide (t.lastAct + fld d (portDie k) (Reg.RD_CTL (portNum k)) Fl.RD_CTL_THR_GAP * 10 ≤ nowOf d (portDie k))
    | none => true)

/-- Transfers that reservation `m` has used in the present window of 64. -/
def usedOf (d : Dev) (k m : Nat) : Nat := (portSt d k).winUsed.getD m 0

/-- Whether a request has a reserved transfer left (R279). -/
def hasShare (d : Dev) (k : Nat) (r : MemReq) : Bool :=
  match resvOf d k r.who.part.toNat with
  | some m => decide (usedOf d k m < resvFld d k m Fl.PORT_RESV_SHARE)
  | none => false

/-- Whether a request may have the next transfer: a reserved one, or one that no sealed partition has reserved; a sealed partition
has only its own. -/
def shareOk (d : Dev) (k : Nat) (r : MemReq) : Bool :=
  let kept := ((resvEn d k).filter (fun m => isSealed d (resvFld d k m Fl.PORT_RESV_PART))).foldl
    (fun n m => n + (resvFld d k m Fl.PORT_RESV_SHARE - usedOf d k m)) 0
  hasShare d k r || (!((resvOf d k r.who.part.toNat).isSome && isSealed d r.who.part.toNat)
    && decide (kept < 64 - (portSt d k).winPos))

/-- Whether candidate `a` comes before `b` (R278, R279): reserved transfers first; higher urgency; at urgency 3 greater age; an open
row; greater age. `i` and `j` are the places in the order of acceptance. -/
def before (d : Dev) (k : Nat) (a b : MemReq × Nat) : Bool :=
  let ua := urgency d k a.1
  let ub := urgency d k b.1
  if hasShare d k a.1 ≠ hasShare d k b.1 then hasShare d k a.1
  else if ua ≠ ub then decide (ub < ua)
  else if ua = 3 then decide (a.2 < b.2)
  else if rowIsOpen d k a.1 ≠ rowIsOpen d k b.1 then rowIsOpen d k a.1
  else decide (a.2 < b.2)

/-- Whether a channel drains its writes (R278): from more than 128 until 64 or fewer, or while a write has urgency 2 or more. -/
def drains (d : Dev) (k : Nat) (was : Bool) (writes : List MemReq) : Bool :=
  decide (128 < writes.length) || (was && decide (64 < writes.length)) || writes.any (fun r => decide (2 ≤ urgency d k r))

/-- The window of 64 transfers moves on by one; `m` the reservation used. -/
def winStep (k : Nat) (m : Option Nat) (d : Dev) : Dev :=
  let use (l : List Nat) : List Nat := match m with | some i => l.modify i (· + 1) | none => l
  updPort k (fun x => if x.winPos + 1 < 64 then { x with winPos := x.winPos + 1, winUsed := use x.winUsed }
    else { x with winPos := 0, winUsed := [0, 0, 0, 0] }) d

/-- The port issues the next command on a channel (R278): the row opens, the transfer completes, and the slot is free. With nothing to
issue the transfer stays idle. -/
def commandIssue (k chan : Nat) (d : Dev) : Dev :=
  let onChan := (portSt d k).slots.zipIdx.filter (fun e => (splitD d k e.1.d).chan == chan)
  let writes := (onChan.filter (fun e => !isReadReq e.1)).map (·.1)
  let dr := drains d k ((portSt d k).drain.getLsbD chan) writes
  let ok := onChan.filter (fun e => gapOk d k e.1 && shareOk d k e.1)
  let reads := ok.filter (fun e => isReadReq e.1)
  let wrs := ok.filter (fun e => !isReadReq e.1)
  let cands := if dr then (if wrs.isEmpty then reads else wrs) else if reads.isEmpty then wrs else reads
  let best := cands.foldl (fun acc e => match acc with | none => some e | some b => some (if before d k e b then e else b)) none
  let mark (x : PortSt) : PortSt := { x with drain := if dr then x.drain ||| BitVec.ofNat 4 (2 ^ chan) else x.drain &&& ~~~ BitVec.ofNat 4 (2 ^ chan) }
  if portState d k ≠ 3 then d
  else
    match best with
    | none => if onChan.isEmpty then updPort k mark d else winStep k none (updPort k mark d)
    | some e =>
      let m := if hasShare d k e.1 then resvOf d k e.1.who.part.toNat else none
      let fin (x : PortSt) : PortSt := { x with slots := x.slots.eraseIdx e.2,
                                                done := match e.1.val with | some v => x.done ++ [(e.1.tag, v.1, v.2)] | none => x.done }
      holdPump k 64 (updPort k fin (winStep k m (rowAccess k e.1.d e.1.who (updPort k mark d))))

def execCommandIssue (k : PortId) (chan : Fin 4) (s : State) : Host.Outcome State Fault Refusal := onDev s (commandIssue k chan)

/-! ### Row disturbance, refresh, training (R281 to R286) -/

/-- All counts and candidates of a port are cleared (R281). -/
def execRdWindowClear (k : PortId) (s : State) : Host.Outcome State Fault Refusal :=
  onDev s (updPort k (fun x => { x with rd := [] }))

/-- Throttles whose time has run out end (R282), and held requests of their sources go on. -/
def throttleEnd (k : Nat) (d : Dev) : Dev :=
  holdPump k 64 (updPort k (fun x => { x with throttles := x.throttles.filter (fun t => decide (nowOf d (portDie k) < t.endAt)) }) d)

def execThrottleEnd (k : PortId) (s : State) : Host.Outcome State Fault Refusal := onDev s (throttleEnd k)

/-- A bank is refreshed (R284): its row is closed. -/
def bankRefresh (k chan bank : Nat) (d : Dev) : Dev :=
  updPort k (fun x => { x with openRow := KMap.put none x.openRow (chan * 16 + bank) none }) d

def execPerBankRefresh (k : PortId) (chan : Fin 4) (bank : Fin 16) (s : State) : Host.Outcome State Fault Refusal :=
  onDev s (bankRefresh k chan bank)

/-- The distance of two numbers. -/
def apart (a b : Nat) : Nat := (a - b) + (b - a)

/-- The conditions at a port are compared with those of its training (R286): the VIN current in units of 0.1 A, the temperature in °C.
Outside the window the port retrains, which takes at most 5 µs, and event k = 0 is raised. -/
def conditionRetrain (k cur temp : Nat) (d : Dev) : Dev :=
  let D := portDie k
  let n := portNum k
  let ctl := rg d D (Reg.TRAIN_CTL n)
  let rec' := rg d D (Reg.TRAIN_REC n)
  if portState d k ≠ 3 then d
  else if apart cur (getF Fl.TRAIN_REC_CAP_CURRENT rec') ≤ 10 * max 1 (getF Fl.TRAIN_CTL_CUR_WIN ctl)
      ∧ apart temp (getF Fl.TRAIN_REC_CAP_TEMP rec') ≤ max 1 (getF Fl.TRAIN_CTL_TEMP_WIN ctl) then d
  else
    raisePort k 0 (wr D (Reg.TRAIN_REC n) (satAdd Fl.TRAIN_REC_RETRAINS 1
      (setF Fl.TRAIN_REC_CAP_TEMP temp (setF Fl.TRAIN_REC_CAP_CURRENT cur rec'))) d)

def execConditionRetrain (k : PortId) (cur : BitVec 16) (temp : BitVec 8) (s : State) : Host.Outcome State Fault Refusal :=
  onDev s (conditionRetrain k cur.toNat temp.toNat)

/-- A step of drift tracking pauses one channel for at most 0.5 µs (R286) and changes nothing that the spec names. -/
def execDriftTracking (_ : PortId) (_ : Fin 4) (s : State) : Host.Outcome State Fault Refusal := onDev s id

/-! ### Row remapping (R288, R289) -/

/-- The lowest spare row of a channel that no valid entry uses, from a bank upwards cyclically. -/
def freeSpare (d : Dev) (k chan bank : Nat) : Option (Nat × Nat) :=
  let used (b s : Nat) : Bool := (List.range 64).any (fun e =>
    let w := rg d (portDie k) (Reg.REMAP (portNum k) (chan * 64 + e))
    getB Fl.REMAP_VALID w && getF Fl.REMAP_TBANK w == b && getF Fl.REMAP_TSPARE w == s)
  ((List.range 16).flatMap (fun i => (List.range (portGeom d k).2.1).map (fun s => ((bank + i) % 16, s)))).find? (fun x => !used x.1 x.2)

/-- A physical row of a bank is remapped: its lines are copied corrected, its entry set, a record written, event k = 3. A row that is
remapped already is remapped from its present target. With no entry of the channel left, REMAP_FULL. -/
def rowRemap (k chan bank row : Nat) (d : Dev) : Dev :=
  let D := portDie k
  let n := portNum k
  let at' := rowTarget d k chan bank row
  let unitRec (code : Nat) (d : Dev) : Dev :=
    record D { ErrRec.mk' 0 0x08 n code with info0 := chan + bank * 4 + row * 64 } d
  let entry := (List.range 64).find? (fun e => !flg d D (Reg.REMAP n (chan * 64 + e)) Fl.REMAP_VALID)
  match entry, freeSpare d k chan at'.1 with
  | some e, some t =>
    let lines := if row % 9 = 8 then [] else rowLines d k chan bank (row / 9 * 8 + row % 9)
    let w : Word := BitVec.ofNat 64 (1 + at'.1 * 4 + at'.2 * 64 + t.1 * 2 ^ 22 + t.2 * 2 ^ 26)
    raisePort k 3 (unitRec 0x0E (wr D (Reg.REMAP n (chan * 64 + e)) w (forAll lines fixLine d)))
  | _, _ => raisePort k 3 (unitRec 0x0F (setFlg D (Reg.PORT_STATUS n) Fl.PORT_STATUS_REMAP_FULL true d))

def execRowRemap (k : PortId) (chan : Fin 4) (bank : Fin 16) (row : BitVec 16) (s : State) : Host.Outcome State Fault Refusal :=
  onDev s (rowRemap k chan bank row.toNat)

/-! ### The spare port (R290 to R292, R437, R446) -/

/-- The free spare port of a die (MSH.MEMPORT): populated, trained and unused. -/
def spareOf (d : Dev) (D : Nat) : Option Nat :=
  let s := fld d D Reg.MEMPORT Fl.MEMPORT_SPARE
  if flg d D Reg.MEMPORT Fl.MEMPORT_SPARE_OK && fld d D (Reg.PORT_STATUS s) Fl.PORT_STATUS_STATE == 7 then some s else none

/-- A takeover of a logical port by the spare starts: mirroring and the background copy. -/
def takeoverStart (D n : Nat) (d : Dev) : Dev :=
  let k := physPort d D n
  match spareOf d D with
  | none => d
  | some s =>
    if portState d k ≠ 3 ∨ inReserve d D = true then d
    else
      let d1 := restitchPhase D 0x07 (portNum k) 1 (restitchRec D 0x07 (portNum k) 0x10 s d)
      let d2 := setFld D (Reg.PORT_STATUS s) Fl.PORT_STATUS_STATE 8 d1
      let d3 := setFlg D (Reg.PORT_STATUS (portNum k)) Fl.PORT_STATUS_MIRROR true d2
      raisePort k 7 (wr D (Reg.PORT_COPY (portNum k)) (BitVec.ofNat 64 (s + 8)) d3)

def execSparePortTakeover (D : Die) (n : Fin 6) (s : State) : Host.Outcome State Fault Refusal := onDev s (takeoverStart D n)

/-- The spare serves as a logical port from now on: steps 6 to 9 of the takeover. The slots of the old port drain; the settings that
requests and a running conversion depend on go with the logical port (log entry 18). -/
def portSwitch (D n s : Nat) (lost : Bool) (d : Dev) : Dev :=
  let k := physPort d D n
  let o := portNum k
  let ks := D * 7 + s
  let x := portSt d k
  let out (y : PortSt) : PortSt := { PortSt.init with done := y.done ++ y.slots.filterMap (fun r => r.val.map (fun v => (r.tag, v.1, v.2))) }
  let inn (y : PortSt) : PortSt := { y with hold := x.hold, allPoison := x.allPoison || lost, written := if lost then [] else x.written }
  let keep (off : Nat → Nat) (d : Dev) : Dev := wr D (off s) (rg d D (off o)) d
  let d1 := updPort ks inn (updPort k out (checkFlush k d))
  let d2 := forAll (List.range 4) (fun m => keep (fun i => Reg.PORT_RESV i m)) (forAll (List.range 4) (fun m => keep (fun i => Reg.QOS_TGT i m)) d1)
  let d3 := forAll (List.range 2) (fun m => keep (fun i => Reg.CHMASK i m)) (forAll (List.range 4) (fun m => keep (fun i => Reg.BAMASK i m)) d2)
  let d4 := keep Reg.CONV_FENCE (setFlg D Reg.MEMPORT Fl.MEMPORT_SPARE_OK false (setFld D Reg.MEMPORT ⟨3 * n + 2, 3 * n⟩ s d3))
  let d5 := setFld D (Reg.PORT_STATUS s) Fl.PORT_STATUS_STATE 3 (setFld D (Reg.PORT_STATUS o) Fl.PORT_STATUS_STATE 6 d4)
  wr D (Reg.PORT_COPY o) 0 (setFlg D (Reg.PORT_STATUS o) Fl.PORT_STATUS_MIRROR false (wr D (Reg.CONV_FENCE o) 0 d5))

/-- The addresses of the lines that are stored or have check bytes. -/
def storedLines (d : Dev) : List Nat := (d.mem.map (fun (e : Nat × Byte) => e.1 / 64 * 64) ++ d.chk.map (fun (e : Nat × Byte) => e.1 / 8 * 64)).eraseDups

/-- The copy of a takeover is complete and the switch is made (R290, R291). -/
def takeoverSwitch (D n : Nat) (d : Dev) : Dev :=
  let k := physPort d D n
  let c := rg d D (Reg.PORT_COPY (portNum k))
  if !getB Fl.PORT_COPY_ACTIVE c then d
  else
    let s := getF Fl.PORT_COPY_TARGET c
    let d1 := forAll ((storedLines d).filter (fun la => (portOf d la).1 == k)) fixLine d
    raisePort k 7 (noteRestitched D 0x07 (portNum k) (restitchRec D 0x07 (portNum k) 0x11 s (restitchEnd D 0 (portSwitch D n s false d1))))

def execTakeoverSwitch (D : Die) (n : Fin 6) (s : State) : Host.Outcome State Fault Refusal := onDev s (takeoverSwitch D n)

/-- A port fails without copy (R292): an uncorrected-contained record, and the spare at once with every line poisoned; with no spare
free the loss is fatal if PORT_LOSS_RESERVE is 1 (R437). A spare that fails is no longer one; a copy to it ends (R442). -/
def portFail (k : Nat) (d : Dev) : Dev :=
  let D := portDie k
  let o := portNum k
  let st := portState d k
  if st = 0 ∨ st = 6 then d
  else
    let d0 := raisePort k 7 (record D (ErrRec.mk' 2 0x07 o 0x17) (setFld D (Reg.PORT_STATUS o) Fl.PORT_STATUS_STATE 6 d))
    match lportOf d k with
    | none =>
      let src := (List.range 7).find? (fun i => flg d D (Reg.PORT_COPY i) Fl.PORT_COPY_ACTIVE && fld d D (Reg.PORT_COPY i) Fl.PORT_COPY_TARGET == o)
      let d1 := setFlg D Reg.MEMPORT Fl.MEMPORT_SPARE_OK false d0
      (match src with
       | some i => restitchRec D 0x07 i 0x12 o (restitchEnd D 1 (wr D (Reg.PORT_COPY i) 0
          (setFlg D (Reg.PORT_STATUS i) Fl.PORT_STATUS_MIRROR false d1)))
       | none => d1)
    | some n =>
      let spare := if flg d D (Reg.PORT_COPY o) Fl.PORT_COPY_ACTIVE then some (fld d D (Reg.PORT_COPY o) Fl.PORT_COPY_TARGET) else spareOf d D
      match spare with
      | some s => restitchRec D 0x07 o 0x11 s (restitchEnd D 0 (portSwitch D n s true (restitchRec D 0x07 o 0x10 s d0)))
      | none =>
        let d1 := updPort k (fun x => { x with slots := [], hold := [], track := [], throttles := [] }) (restitchEnd D 2 d0)
        if flg d D Reg.SPARE_CTL Fl.SPARE_CTL_PORT_LOSS_RESERVE then fatal D 0x07 o 0x17 d1 else d1

def execPortFailure (k : PortId) (s : State) : Host.Outcome State Fault Refusal := onDev s (portFail k)

/-! ### Settings (R272, R275, R279) -/

def mapLocked (d : Dev) (D : Nat) : Bool := flg d D Reg.MEMMAP Fl.MEMMAP_LOCK

/-- Whether a mask value is refused (R275): mask 0 and 1 are channel masks, 2 to 5 bank masks; their own bit of D[13:8] must be set and no
other, and no bit below. -/
def maskBad (i : Nat) (v : Word) : Bool := v.toNat % 64 != 0 || bitsOf v 13 8 != 2 ^ i

/-- A write of a channel or bank mask of a port. -/
def maskWrite (D n i : Nat) (v : Word) (d : Dev) : Dev :=
  if mapLocked d D then d
  else if maskBad i v then setFlg D (Reg.PORT_STATUS n) Fl.PORT_STATUS_MASK_REFUSED true d
  else wr D (if i < 2 then Reg.CHMASK n i else Reg.BAMASK n (i - 2)) (v &&& 0xFFFFFFFFFFFF#64) d

def execMaskWrite (D : Die) (n : Fin 7) (i : Fin 6) (v : Word) (s : State) : Host.Outcome State Fault Refusal :=
  onDev s (maskWrite D n i v)

/-- A write of PORT.RESV (R279): locked while its partition is sealed; refused if the enabled reservations would exceed 256 slots or 48
transfers. -/
def resvWrite (D n m : Nat) (v : Word) (d : Dev) : Dev :=
  let new := v &&& 0xFFFF7F#64
  let vals := (List.range 4).map (fun i => if i = m then new else rg d D (Reg.PORT_RESV n i))
  let sum (f : Fld) : Nat := (vals.filter (getB Fl.PORT_RESV_EN)).foldl (fun a w => a + getF f w) 0
  if isSealed d (fld d D (Reg.PORT_RESV n m) Fl.PORT_RESV_PART) then d
  else if 256 < sum Fl.PORT_RESV_SLOTS ∨ 48 < sum Fl.PORT_RESV_SHARE then
    setFlg D (Reg.PORT_STATUS n) Fl.PORT_STATUS_RESV_REFUSED true d
  else wr D (Reg.PORT_RESV n m) new d

def execResvWrite (D : Die) (n : Fin 7) (m : Fin 4) (v : Word) (s : State) : Host.Outcome State Fault Refusal :=
  onDev s (resvWrite D n m v)

/-- LOCK of MSH.MEMMAP is set (R272). -/
def execLockMemmap (D : Die) (s : State) : Host.Outcome State Fault Refusal :=
  onDev s (setFlg D Reg.MEMMAP Fl.MEMMAP_LOCK true)

/-! ### Repair rewrites and scrubbing (R303, R306) -/

/-- A queued repair rewrite of a line. -/
def repairRewrite (k dd : Nat) (d : Dev) : Dev :=
  match trackFind d k dd with
  | some ⟨_, pa, c, .repairDue⟩ =>
    let d1 := match decodeLine d pa with | .corrected data _ _ => storeLine pa false data d | _ => d
    record (portDie k) (portRec k 0 0x0C dd) (bump (portDie k) (Reg.TRACK_STAT (portNum k)) Fl.TRACK_STAT_REWRITES 1
      (trackSet k dd .rewritten c d1))
  | _ => d

def execRepairRewrite (k : PortId) (dd : Nat) (s : State) : Host.Outcome State Fault Refusal := onDev s (repairRewrite k dd)

/-- A scrub or conversion read of a line (R302, R303, R306): counted; a corrected line is rewritten, an uncorrectable one rewritten
poisoned. -/
def scrubRead (k dd pa : Nat) (d : Dev) : Dev :=
  let D := portDie k
  let n := portNum k
  match trackFind d k dd, decodeLine d pa with
  | some ⟨_, _, _, .rewritten⟩, .corrected data a b =>
    trackFree k dd (hardLine k dd a b (storeLine pa false data (bump D (Reg.ECC_STAT n) Fl.ECC_STAT_CE_SCRUB 1 d)))
  | some ⟨_, _, _, .rewritten⟩, .uncorrectable => lostLine (trackFree k dd d)
  | some ⟨_, _, _, .rewritten⟩, _ => trackFree k dd d
  | some e, .corrected data _ _ => trackSet k dd .rewritten e.count (storeLine pa false data (bump D (Reg.ECC_STAT n) Fl.ECC_STAT_CE_SCRUB 1 d))
  | none, .corrected data _ _ => (trackAlloc k dd pa .rewritten (storeLine pa false data (bump D (Reg.ECC_STAT n) Fl.ECC_STAT_CE_SCRUB 1 d))).1
  | _, .uncorrectable => lostLine d
  | _, _ => d
where
  /-- A line read as UNCORRECTABLE. -/
  lostLine (d : Dev) : Dev :=
    raisePort k 5 (record (portDie k) (portRec k 1 0x02 dd) (bump (portDie k) (Reg.ECC_STAT (portNum k)) Fl.ECC_STAT_UE 1
      (storeLine pa true (storedData d pa) d)))

/-- The port scrubs its next data line, in the order block, channel, bank, data line. -/
def patrolScrub (k : Nat) (d : Dev) : Dev :=
  let D := portDie k
  let n := portNum k
  let i := fld d D (Reg.SCRUB_STATUS n) Fl.SCRUB_STATUS_LINE
  let total := blocksOf d k * 64 * 256
  if portState d k ≠ 3 ∨ (lportOf d k).isNone = true ∨ flg d D (Reg.ECC_CTL n) Fl.ECC_CTL_SCRUB_EN = false then d
  else
    let dd := (blockLine d k (i / 16384) (i / 4096 % 4) (i / 256 % 16) (i % 256)).getD 0
    let d1 := match paOf d k dd with | some pa => scrubRead k dd pa d | none => d
    if i + 1 < total then setFld D (Reg.SCRUB_STATUS n) Fl.SCRUB_STATUS_LINE (i + 1) d1
    else bump D (Reg.SCRUB_STATUS n) Fl.SCRUB_STATUS_PASSES 1 (setFld D (Reg.SCRUB_STATUS n) Fl.SCRUB_STATUS_LINE 0 d1)

def execPatrolScrub (k : PortId) (s : State) : Host.Outcome State Fault Refusal := onDev s (patrolScrub k)

/-! ### The check cache (R299) -/

/-- The data lines whose check bytes a check line holds: 8, or 16 where their code is light. -/
def checkLines (d : Dev) (k cl : Nat) : List Nat :=
  let pas (n : Nat) (c : Nat) : List Nat := (List.range n).filterMap (fun i =>
    (blockLine d k (c / 2048) (c / 512 % 4) (c / 32 % 16) (c % 32 * 8 + i)).bind (paOf d k))
  let l := pas 8 cl
  if l.any (fun pa => effCode d pa == .light) then pas 16 (cl / 2 * 2) else l

/-- An error in a check line that the cache holds: corrected; discarded and read again; or, dirty, its data lines poisoned. -/
def checkError (k cl : Nat) (double : Bool) (d : Dev) : Dev :=
  let D := portDie k
  let n := portNum k
  match KMap.look 0 (portSt d k).ccache cl with
  | 0 => d
  | st =>
    if !double then bump D (Reg.CCACHE_ERR n) Fl.CCACHE_ERR_CE 1 d
    else
      let d1 := updPort k (fun x => { x with ccache := KMap.put 0 x.ccache cl 0 }) d
      if st = 1 then bump D (Reg.CCACHE_ERR n) Fl.CCACHE_ERR_REREAD 1 d1
      else
        let d2 := forAll (checkLines d k cl) (fun pa d => storeLine pa true (storedData d pa) d) d1
        raisePort k 5 (record D { ErrRec.mk' 1 0x07 n 0x09 with info0 := cl } (bump D (Reg.CCACHE_ERR n) Fl.CCACHE_ERR_LOST 1 d2))

def execCheckCacheError (k : PortId) (cl : Nat) (double : Bool) (s : State) : Host.Outcome State Fault Refusal :=
  onDev s (checkError k cl double)

/-! ### Code conversion (R309) -/

/-- A port walks the check group at its fence: a group whose effective code changes is read under the old code and its check bytes are
written under the new one. -/
def conversionGroup (k : Nat) (d : Dev) : Dev :=
  let D := portDie k
  let n := portNum k
  let g := fld d D (Reg.CONV_FENCE n) Fl.CONV_FENCE_GROUP
  if !flg d D (Reg.CONV_FENCE n) Fl.CONV_FENCE_ACTIVE || !flg d D Reg.CODE_CONV Fl.CODE_CONV_BUSY || portState d k != 3 then d
  else
    let lines := (List.range 16).filterMap (fun i =>
      (blockLine d k (g / 1024) (g / 256 % 4) (g / 16 % 16) (g % 16 * 16 + i)).bind (fun dd => (paOf d k dd).map (fun pa => (dd, pa))))
    let fence (d : Dev) : Dev := setFld D (Reg.CONV_FENCE n) Fl.CONV_FENCE_GROUP (g + 1) d
    let changes := lines.any (fun (e : Nat × Nat) => effCode d e.2 != effCode (fence d) e.2)
    let d1 := if changes then forAll lines (fun e => scrubRead k e.1 e.2) d else d
    let old := lines.map (fun e => (e.2, (lineValue d1 e.2).2, storedData d1 e.2))
    let d2 := if changes then forAll old (fun e => storeLine e.1 e.2.1 e.2.2) (fence d1) else fence d1
    if g + 1 < blocksOf d k * 1024 then d2
    else setFld D Reg.CODE_CONV Fl.CODE_CONV_PORTS_LEFT (fld d2 D Reg.CODE_CONV Fl.CODE_CONV_PORTS_LEFT - 1)
      (setFlg D (Reg.CONV_FENCE n) Fl.CONV_FENCE_ACTIVE false d2)

def execConversionGroup (k : PortId) (s : State) : Host.Outcome State Fault Refusal := onDev s (conversionGroup k)

/-- Every port of a package has walked: the new CODE is written, CONV and BUSY are cleared. -/
def conversionDone (p : Nat) (d : Dev) : Dev :=
  let D := p * 8
  let c := rg d D Reg.CODE_CONV
  if !getB Fl.CODE_CONV_BUSY c || getF Fl.CODE_CONV_PORTS_LEFT c != 0 then d
  else
    let e := Reg.CODE_REG (getF Fl.CODE_CONV_REGION c)
    wr D Reg.CODE_CONV (setB Fl.CODE_CONV_BUSY false c)
      (wr D e (setB Fl.CODE_REG_CONV false (setB Fl.CODE_REG_CODE (getB Fl.CODE_CONV_NEWCODE c) (rg d D e))) d)

def execConversionComplete (p : Pkg) (s : State) : Host.Outcome State Fault Refusal := onDev s (conversionDone p)

end Sys2Proof.Machine
end

