-- ==== Sys2Proof/Machine/Isolation.lean ====
section
/-! DEFINITION. Firewall writes and the partition commands (R323 to R339). -/

namespace Sys2Proof.Machine

/-! ### Firewall regions (R327, R338) -/

/-- Whether a mask names a sealed partition. -/
def namesSealed (d : Dev) (m : Word) : Bool := (List.range 64).any (fun p => m.getLsbD p && isSealed d p)

/-- LOCKED of a region: a sealed partition locks it (R338). -/
def regionLocked (d : Dev) (D f r : Nat) : Bool := namesSealed d (rg d D (Reg.FW_MASK f r))

/-- TLB entries whose result a write to a package's DRAM table could change are invalidated (R327). -/
def fwPurge (p : Nat) (d : Dev) : Dev :=
  tlbPurge (fun e => match regionOf e.pa with | .dram q _ => q == p | _ => false) d

/-- A write of FW_CFG (0), FW_LIMIT (1) or FW_MASK (2) of a region. A locked region keeps its value; so does one that the write would make
name a sealed partition, or enable while it names one. -/
def firewallWrite (D f r which : Nat) (v : Word) (d : Dev) : Dev :=
  let blocked := regionLocked d D f r || (which == 2 && namesSealed d v)
  if d.cfg.present D = false ∨ blocked = true then d
  else
    let d1 := match which with
      | 0 => wr D (Reg.FW_CFG f r) (v &&& 0xFFFFFFE0000F#64) d
      | 1 => wr D (Reg.FW_LIMIT f r) (v &&& 0xFFFFFFE00000#64) d
      | _ => wr D (Reg.FW_MASK f r) v d
    if f = 0 then fwPurge (D / 8) (setFlg D (Reg.FW_STATUS 0) Fl.FW_STATUS_PENDING true d1) else d1

def execFirewallWrite (D : Die) (f : Fin 45) (r : Fin 32) (which : Fin 3) (v : Word) (s : State) :
    Host.Outcome State Fault Refusal := onDev s (firewallWrite D f r which v)

/-- Every copy has applied the write, and what was admitted under the earlier table has been performed (R327). -/
def firewallApplied (p : Nat) (d : Dev) : Dev :=
  forAll (d.cfg.diesOf p) (fun D => setFlg D (Reg.FW_STATUS 0) Fl.FW_STATUS_PENDING false) d

def execFirewallWriteApplied (p : Pkg) (s : State) : Host.Outcome State Fault Refusal := onDev s (firewallApplied p)

/-! ### What names a partition (R335, R336) -/

/-- A region of a firewall: the die that keeps it, firewall and region number. -/
structure RegionId where
  die : Nat
  fw : Nat
  reg : Nat
  deriving DecidableEq, Repr

def RegionId.cfg (x : RegionId) (d : Dev) : Word := rg d x.die (Reg.FW_CFG x.fw x.reg)
def RegionId.mask (x : RegionId) (d : Dev) : Word := rg d x.die (Reg.FW_MASK x.fw x.reg)
def RegionId.en (x : RegionId) (d : Dev) : Bool := getB Fl.FW_CFG_EN (x.cfg d)

/-- The firewall regions of the system whose mask is not zero. -/
def maskedRegions (d : Dev) : List RegionId :=
  d.regs.filterMap (fun e =>
    let off := e.1 % 0x100000000
    let o := off - Reg.FW_CFG 0 0
    if decide (Reg.FW_CFG 0 0 ≤ off) && decide (off < Reg.FW_CFG 45 0) && decide (o % 0x1000 < 0x400) && o % 0x20 == 0x10 then
      some ⟨e.1 / 0x100000000, o / 0x1000, o % 0x1000 / 0x20⟩
    else none)

/-- The regions whose mask names a partition, whatever their EN. -/
def regionsOf (d : Dev) (p : Nat) : List RegionId := (maskedRegions d).filter (fun x => (x.mask d).getLsbD p)

/-- The cores and slices that a partition owns (ISO.CORE_OWN, ISO.SLICE_OWN). -/
def ownCores (d : Dev) (p : Nat) : List Nat :=
  d.cfg.allDies.flatMap (fun D => ((List.range 40).filter (fun c =>
    let w := rg d D (Reg.CORE_OWN c)
    getB Fl.CORE_OWN_EN w && getF Fl.CORE_OWN_PART w == p)).map (D * 40 + ·))
def ownSlices (d : Dev) (p : Nat) : List Nat :=
  d.cfg.allDies.flatMap (fun D => ((List.range 42).filter (fun s =>
    let w := rg d D (Reg.SLICE_OWN s)
    getB Fl.SLICE_OWN_EN w && getF Fl.SLICE_OWN_PART w == p)).map (D * 42 + ·))

/-- The cores whose SYS.PARTID is a partition other than 0. -/
def coresIn (d : Dev) (p : Nat) : List Nat := (d.cores.map (·.1)).filter (fun c => (partId d c).toNat == p)

/-- Whether a core runs or a core in a partition runs (R335, TEARDOWN). -/
def partRuns (d : Dev) (p : Nat) : Bool := (ownCores d p ++ coresIn d p).any (fun c => (coreSt d c).run)

/-- Whether something that R335 lists names a partition. An entry or ownership register with EN = 0 names none; a firewall region does
(the table of R335). -/
def inUse (d : Dev) (p : Nat) : Bool :=
  let home (D : Nat) : Bool := (List.range 64).any (fun n =>
    let w := rg d D (Reg.HOME_REG n)
    getB Fl.HOME_REG_EN w && getF Fl.HOME_REG_PART w == p) || flg d D (Reg.BWRES p) Fl.BWRES_EN
  let port (D : Nat) : Bool := (List.range 28).any (fun i =>
    let w := rg d D (Reg.PORT_RESV (i / 4) (i % 4))
    getB Fl.PORT_RESV_EN w && getF Fl.PORT_RESV_PART w == p)
  let queue := d.queues.any (fun e => match e.2 with | some q => q.pushMask.getLsbD p || q.popMask.getLsbD p | none => false)
  !(regionsOf d p).isEmpty || (packages d).any (fun q => home (q * 8)) || d.cfg.allDies.any port || queue
    || !(ownCores d p).isEmpty || !(ownSlices d p).isEmpty
    || fld d 0 Reg.HYP_PART Fl.HYP_PART_NS_HYP == p || fld d 0 Reg.HYP_PART Fl.HYP_PART_S_HYP == p

/-! ### The seal checks (R336) -/

/-- TILES. -/
def sealTiles (d : Dev) (p : Nat) : Bool :=
  let cs := ownCores d p
  let ss := ownSlices d p
  let pairOk (c : Nat) : Bool :=
    let w := rg d (coreDie c) (Reg.LCORE (coreLog c))
    !getB Fl.LCORE_VALID w || (cs.contains c == ss.contains (coreDie c * 42 + getF Fl.LCORE_TL_SLICE w))
  !cs.isEmpty && d.cfg.allDies.all (fun D => (List.range 40).all (fun c => pairOk (D * 40 + c)))
    && cs.all (fun c => !(coreSt d c).run) && (coresIn d p).all cs.contains

/-- PACKAGES: the packages of a partition's cores and of the regions that name it are one. -/
def sealPackages (d : Dev) (p : Nat) : Bool :=
  let l := (ownCores d p).map corePkg ++ ((regionsOf d p).filter (fun x => x.en d)).map (fun x => x.die / 8)
  match l with | [] => true | a :: r => r.all (· == a)

/-- WORLD. -/
def sealWorld (d : Dev) (p : Nat) : Bool :=
  ((regionsOf d p).filter (fun x => x.en d)).all (fun x => getB Fl.FW_CFG_NS (x.cfg d) == flg d 0 (Reg.PART p) Fl.PART_WORLD)

/-- The package of a partition's cores. -/
def partPkg (d : Dev) (p : Nat) : Nat := match ownCores d p with | c :: _ => corePkg c | [] => 0

/-- MESH: every share of MSH.BWRES is at least 1. -/
def sealMesh (d : Dev) (p : Nat) : Bool :=
  let w := rg d (partPkg d p * 8) (Reg.BWRES p)
  getB Fl.BWRES_EN w && [Fl.BWRES_REQ, Fl.BWRES_SNP, Fl.BWRES_RSP, Fl.BWRES_DAT, Fl.BWRES_QUE].all (fun f => decide (1 ≤ getF f w))

/-- PACE. -/
def sealPace (d : Dev) (p : Nat) : Bool :=
  (ownCores d p).all (fun c => decide (64 ≤ fld d (coreDie c) (Reg.PACE_CTL (coreTile d c)) Fl.PACE_CTL_FLOOR))

/-- The bytes of a package's window that a region covers, as first and first after. -/
def regionSpan (d : Dev) (q : Nat) (x : RegionId) (len : Nat) : Nat × Nat :=
  let lo := getF Fl.FW_CFG_BASE (x.cfg d) * 2 ^ 21
  let hi := fld d x.die (Reg.FW_LIMIT x.fw x.reg) Fl.FW_LIMIT_LIMIT * 2 ^ 21
  (max lo (q * 2 ^ 40) - q * 2 ^ 40, min hi (q * 2 ^ 40 + len) - q * 2 ^ 40)

/-- Bytes of a die's part of the window in die-local mode (R272). -/
def dieSpan (d : Dev) (q : Nat) : Nat := 6 * pkgCap d q / 2 ^ 30 * 2 ^ 30

/-- The enabled regions of a package's DRAM table that name a partition. -/
def dramRegions (d : Dev) (q : Nat) : List RegionId :=
  (maskedRegions d).filter (fun x => x.fw == 0 && x.die == q * 8 && x.en d)

/-- Whether a mask names one partition alone. -/
def onlyNames (m : Word) (p : Nat) : Bool := m.toNat == 2 ^ p

/-- HOMING of one region: at its first byte and at each boundary of a home-region entry within it, the lowest-numbered enabled entry names
the partition; or, in die-local mode, it lies on one die all of whose active slices the partition owns. -/
def regionHomed (d : Dev) (q p : Nat) (x : RegionId) : Bool :=
  let s := regionSpan d q x (2 ^ 40)
  let edges := (List.range 64).flatMap (fun n =>
    let w := rg d (q * 8) (Reg.HOME_REG n)
    if getB Fl.HOME_REG_EN w then [getF Fl.HOME_REG_BASE w * 2 ^ 30, getF Fl.HOME_REG_LIMIT w * 2 ^ 30] else [])
  let mine (a : Nat) : Bool := match homeReg d q a with
    | some n => fld d (q * 8) (Reg.HOME_REG n) Fl.HOME_REG_PART == p
    | none => false
  let j := s.1 / dieSpan d q
  decide (s.2 ≤ s.1) || (mine s.1 && (edges.filter (fun e => decide (s.1 < e) && decide (e < s.2))).all mine)
    || (dieLocal d q && decide (s.2 ≤ (j + 1) * dieSpan d q) && decide (j < d.cfg.ndie q)
        && (List.range 42).all (fun g => !flg d (q * 8 + j) (Reg.LSLICE g) Fl.LSLICE_VALID
            || (ownSlices d p).contains ((q * 8 + j) * 42 + g)))

/-- HOMING. -/
def sealHoming (d : Dev) (p : Nat) : Bool :=
  let q := partPkg d p
  ((dramRegions d q).filter (fun x => onlyNames (x.mask d) p)).all (regionHomed d q p)

/-- Whether the ports of a die hold a line of a region (R272, R273, R337): in package-interleaved mode those of every die do. -/
def dieHolds (d : Dev) (q j : Nat) (x : RegionId) : Bool :=
  let s := regionSpan d q x (usableLen d q)
  decide (s.1 < s.2) && (!dieLocal d q || (decide (s.1 < (j + 1) * dieSpan d q) && decide (j * dieSpan d q < s.2)))

/-- MEMORY: whether the check passes and whether every port is the partition's own. -/
def sealMemory (d : Dev) (p : Nat) : Bool × Bool :=
  let q := partPkg d p
  let l := dramRegions d q
  let js := (List.range (d.cfg.ndie q)).filter (fun j => l.any (fun x => (x.mask d).getLsbD p && dieHolds d q j x))
  let own (j : Nat) : Bool := l.all (fun x => onlyNames (x.mask d) p || !dieHolds d q j x
    || !(getB Fl.FW_CFG_R (x.cfg d) || getB Fl.FW_CFG_W (x.cfg d)))
  let resv (k : Nat) : Bool := (List.range 4).any (fun m =>
    let w := rg d (portDie k) (Reg.PORT_RESV (portNum k) m)
    getB Fl.PORT_RESV_EN w && getF Fl.PORT_RESV_PART w == p && decide (1 ≤ getF Fl.PORT_RESV_SLOTS w)
      && decide (1 ≤ getF Fl.PORT_RESV_SHARE w))
  (js.all (fun j => own j || (List.range 6).all (fun n => resv (physPort d (q * 8 + j) n))), js.all own)

/-- The first check that fails, by its result code; 0 when all pass. -/
def sealResult (d : Dev) (p : Nat) : Nat :=
  if !sealTiles d p then 3
  else if !sealPackages d p then 0xA
  else if !sealWorld d p then 8
  else if !sealMesh d p then 4
  else if !sealPace d p then 7
  else if !sealHoming d p then 6
  else if !(sealMemory d p).1 then 5
  else 0

/-! ### The partition commands (R334, R335, R339) -/

def partState (d : Dev) (p : Nat) : Nat := fld d 0 (Reg.PART p) Fl.PART_STATE

/-- A command ends with a result; the commands are carried out at once, so BUSY is never seen (log entry 20). -/
def partEnd (p code : Nat) (d : Dev) : Dev := setFld 0 (Reg.PART p) Fl.PART_RESULT code d

def partSet (p st : Nat) (d : Dev) : Dev := partEnd p 0 (setFld 0 (Reg.PART p) Fl.PART_STATE st d)

/-- BUILD_S and BUILD_NS. -/
def partBuild (p : Nat) (ns : Bool) (d : Dev) : Dev :=
  if p = 0 ∨ partState d p ≠ 0 then partEnd p 1 d else partSet p 1 (setFlg 0 (Reg.PART p) Fl.PART_WORLD ns d)

/-- OPEN. -/
def partOpen (p : Nat) (d : Dev) : Dev := if p = 0 ∨ partState d p ≠ 1 then partEnd p 1 d else partSet p 2 d

/-- FLUSH mode comes to every core whose SYS.PARTID names the partition (R338, R139): its predictor is flushed. -/
def sealFlush (p : Nat) (d : Dev) : Dev := forAll (coresIn d p) flushPred d

/-- SEAL. -/
def partSeal (p : Nat) (d : Dev) : Dev :=
  if p = 0 ∨ partState d p ≠ 1 then partEnd p 1 d
  else
    let r := sealResult d p
    if r = 0 then sealFlush p (partSet p 3 (setFlg 0 (Reg.PART p) Fl.PART_OWN_PORTS (sealMemory d p).2 d)) else partEnd p r d

/-- An owned slice is flushed and its scratchpad ways are discarded (R173, R339, step 3). -/
def sliceTear (g : Nat) (d : Dev) : Dev :=
  let a := sliceArray d g
  let d1 := forAll (homeKeys d a) (maintLine a 1) d
  setSfld a Reg.SPAD_CTL Fl.SPAD_CTL_WAYS 0 (setSfld a Reg.SLICE_STATUS Fl.SLICE_STATUS_SPAD_WAYS 0
    (setSfld a Reg.SLICE_STATUS Fl.SLICE_STATUS_SPAD_BUSY 0 (updHome a (fun x => { x with spad := [], conv := none }) d1)))

/-- TEARDOWN. -/
def partTeardown (p : Nat) (d : Dev) : Dev :=
  if p = 0 ∨ (partState d p ≠ 2 ∧ partState d p ≠ 3) then partEnd p 1 d
  else if partRuns d p then partEnd p 2 d
  else
    let qs := d.queues.filterMap (fun e => match e.2 with | some q => if q.owner.toNat = p then some e.1 else none | none => none)
    let d1 := forAll qs qDestroy d
    let d2 := forAll ((packages d).flatMap (pkgSlices d)) (fun g => releaseLocks g (fun x => x.toNat == p)) d1
    let d3 := forAll (ownSlices d p) sliceTear d2
    let d4 := tlbPurge (fun e => e.part == p) d3
    let d5 := forAll (coresIn d4 p) (fun c => setSr c Sr.PARTID 0) d4
    partSet p 4 (setFlg 0 (Reg.PART p) Fl.PART_OWN_PORTS false d5)

/-- FREE. -/
def partFree (p : Nat) (d : Dev) : Dev :=
  if p = 0 ∨ partState d p ≠ 4 then partEnd p 1 d else if inUse d p then partEnd p 9 d else partSet p 0 d

/-- A command written to ISO.PART of a partition (R334): 0 and 7 have no effect. -/
def partCommand (p cmd : Nat) (d : Dev) : Dev :=
  match cmd with
  | 1 => partBuild p false d
  | 2 => partBuild p true d
  | 3 => partOpen p d
  | 4 => partSeal p d
  | 5 => partTeardown p d
  | 6 => partFree p d
  | _ => d

def execBuildS (p : BitVec 6) (s : State) : Host.Outcome State Fault Refusal := onDev s (partBuild p.toNat false)
def execBuildNs (p : BitVec 6) (s : State) : Host.Outcome State Fault Refusal := onDev s (partBuild p.toNat true)
def execPartOpen (p : BitVec 6) (s : State) : Host.Outcome State Fault Refusal := onDev s (partOpen p.toNat)
def execPartSeal (p : BitVec 6) (s : State) : Host.Outcome State Fault Refusal := onDev s (partSeal p.toNat)
def execPartTeardown (p : BitVec 6) (s : State) : Host.Outcome State Fault Refusal := onDev s (partTeardown p.toNat)
def execPartFree (p : BitVec 6) (s : State) : Host.Outcome State Fault Refusal := onDev s (partFree p.toNat)

end Sys2Proof.Machine
end

