-- ==== Sys2Proof/Machine/Time.lean ====
section
/-! DEFINITION. The commands of the event interfaces and controllers (R349 to R355), and the time base (R356 to R360). -/

namespace Sys2Proof.Machine

/-! ### Core interfaces and routes -/

def execCifTake (c : CoreId) (ns : Bool) (s : State) : Host.Outcome State Fault Refusal := onDev s (cifTake c ns)
def execCifFinish (c : CoreId) (ns : Bool) (v : Word) (s : State) : Host.Outcome State Fault Refusal := onDev s (cifFinish c ns v)
def execCifTcmpWrite (c : CoreId) (ns : Bool) (v : Word) (s : State) : Host.Outcome State Fault Refusal := onDev s (cifTcmp c ns v)
def execTimerComparator (c : CoreId) (ns : Bool) (s : State) : Host.Outcome State Fault Refusal := onDev s (cifCompare c ns)

/-- A core writes CIF_RAISE: the write orders as a store with release does (R350), and its SYS.PARTID is checked. -/
def coreRaise (c : Nat) (ns : Bool) (v : Word) (d : Dev) : Dev := cifRaise c ns (partId d c) v (sbDrainAll c d)

def execCifRaise (c : CoreId) (ns : Bool) (v : Word) (s : State) : Host.Outcome State Fault Refusal := onDev s (coreRaise c ns v)

/-- A raised event arrives at its controller (R349); one that has not been raised does not. -/
def eventArrival (D n : Nat) (d : Dev) : Dev := if (dieSt d D).raised.contains n then arriveWake D n d else d

def execEventArrival (D : Die) (n : Fin 511) (s : State) : Host.Outcome State Fault Refusal := onDev s (eventArrival D n)

def execRouteWrite (D : Die) (n : Fin 511) (v : Word) (s : State) : Host.Outcome State Fault Refusal := onDev s (routeWriteWake D n v)

/-! ### Reference edges and slewing (R356, R357, R360) -/

/-- The die whose time base is the system reference: die 0 of the master package (R357). -/
def refDie (d : Dev) : Nat := d.cfg.master * 8

/-- The leader of a follower: die 0 of its package, or of the master package (R357). -/
def leaderOf (d : Dev) (D : Nat) : Nat := if D % 8 = 0 then refDie d else D / 8 * 8

/-- A two's-complement field as an integer. -/
def sfieldOf (f : Fld) (w : Word) : Int :=
  let v := getF f w
  if v < 2 ^ (f.width - 1) then (v : Int) else (v : Int) - (2 ^ f.width : Nat)

/-- The error that is still to be slewed away in nanoseconds: PHASE on the reference die, the measured error on a follower. -/
def slewLeft (d : Dev) (D : Nat) : Int := if D = refDie d then sfieldOf Fl.TIM_ADJ_PHASE (rg d D Reg.TIM_ADJ) else (dieSt d D).slew

def setSlewLeft (D : Nat) (n : Int) (d : Dev) : Dev :=
  if D = refDie d then setFld D Reg.TIM_ADJ Fl.TIM_ADJ_PHASE (n % ((2 ^ 32 : Nat) : Int)).toNat d else updDie D (fun x => { x with slew := n }) d

/-- An edge of REF100 on a die: TIM.NOW advances by INCR, plus FREQ on the reference die, and by 1 ns more or less when an error is to be
slewed away and SLEW_US microseconds have passed since the last such nanosecond. The increment is never negative. -/
def refEdge (D : Nat) (d : Dev) : Dev :=
  if !d.cfg.present D || (pkgSt d (D / 8)).refStop then d
  else
    let x := dieSt d D
    let freq : Int := if D = refDie d then sfieldOf Fl.TIM_ADJ_FREQ (rg d D Reg.TIM_ADJ) else 0
    let base : Int := max 0 ((fld d D Reg.REF_CFG Fl.REF_CFG_INCR : Int) + freq)
    let left := slewLeft d D
    let due := left != 0 && decide (max 1 (fld d D Reg.TIM_CTL Fl.TIM_CTL_SLEW_US) * 1000 ≤ x.slewAge)
    let one : Int := if left < 0 then -1 else 1
    let go := due && decide (0 ≤ base + one * ((2 ^ 24 : Nat) : Int))
    let units := (if go then base + one * ((2 ^ 24 : Nat) : Int) else base).toNat + x.nowFrac
    let adv := units / 2 ^ 24
    let d1 := wr D Reg.TIM_NOW (rg d D Reg.TIM_NOW + BitVec.ofNat 64 adv) d
    let d2 := updDie D (fun y => { y with nowFrac := units % 2 ^ 24, slewAge := if go then adv else min (x.slewAge + adv) 255000 }) d1
    if go then setSlewLeft D (left - one) d2 else d2

def execReferenceEdge (D : Die) (s : State) : Host.Outcome State Fault Refusal := onDev s (refEdge D)

/-! ### Alignment (R357) -/

/-- The bound within which a follower counts as aligned: ±2 ns within a package, ±10 ns between packages. -/
def alignBound (D : Nat) : Nat := if D % 8 = 0 then 10 else 2

def synced (d : Dev) (D : Nat) : Bool := flg d D Reg.TIM_QUALITY Fl.TIM_QUALITY_SYNCED

/-- A follower's error exceeds the bound, or it has lost its path: it clears SYNCED and raises event 504. -/
def alignmentLost (D : Nat) (d : Dev) : Dev :=
  if synced d D && D != refDie d then raise D 504 (setFlg D Reg.TIM_QUALITY Fl.TIM_QUALITY_SYNCED false d) else d

def execAlignmentLost (D : Die) (s : State) : Host.Outcome State Fault Refusal := onDev s (alignmentLost D)

/-- A follower exchanges timestamps with its leader: the error that it measures is slewed away from then on; SYNCED follows the bound once
the follower has first been stepped to its leader, with event 504 at each change. -/
def timeExchange (D : Nat) (d : Dev) : Dev :=
  if !d.cfg.present D || D == refDie d then d
  else
    let err : Int := (nowOf d (leaderOf d D) : Int) - (nowOf d D : Int)
    let d1 := updDie D (fun x => { x with slew := err }) d
    let d2 := if D % 8 = 0 then updPkg (D / 8) (fun x => { x with xchgAt := nowOf d D }) d1 else d1
    if alignBound D < err.natAbs then alignmentLost D d2
    else if synced d D then d2
    else raise D 504 (setFlg D Reg.TIM_QUALITY Fl.TIM_QUALITY_SYNCED true d2)

def execTimestampExchange (D : Die) (s : State) : Host.Outcome State Fault Refusal := onDev s (timeExchange D)

/-! ### PPS and discipline (R358, R360) -/

/-- A rising edge of PPS_IN, used by the reference die only, while PPS_EN is 1. -/
def ppsEdge (d : Dev) : Dev :=
  let D := refDie d
  if !flg d D Reg.TIM_CTL Fl.TIM_CTL_PPS_EN then d
  else raise D 503 (setFlg D Reg.TIM_QUALITY Fl.TIM_QUALITY_PPS_LOCKED true
    (updDie D (fun x => { x with ppsAt := some (nowOf d D) }) (wr D Reg.PPS_CAP (rg d D Reg.TIM_NOW) d)))

def execPpsEdge (s : State) : Host.Outcome State Fault Refusal := onDev s ppsEdge

/-- No edge has arrived within 1.1 s of the last. -/
def ppsLoss (d : Dev) : Dev :=
  let D := refDie d
  match (dieSt d D).ppsAt with
  | some t =>
    if flg d D Reg.TIM_CTL Fl.TIM_CTL_PPS_EN && decide (t + 1100000000 < nowOf d D) then
      raise D 502 (setFlg D Reg.TIM_QUALITY Fl.TIM_QUALITY_PPS_LOCKED false (updDie D (fun x => { x with ppsAt := none }) d))
    else d
  | none => d

def execPpsLoss (s : State) : Host.Outcome State Fault Refusal := onDev s ppsLoss

/-- A write of TIM.ADJ: PHASE is slewed in and FREQ added to the increment; no effect but on the reference die. -/
def adjWrite (D : Nat) (v : Word) (d : Dev) : Dev := if D = refDie d then wr D Reg.TIM_ADJ (v &&& 0xFFFFFFFFFFFFFF#64) d else d

def execAdjWrite (D : Die) (v : Word) (s : State) : Host.Outcome State Fault Refusal := onDev s (adjWrite D v)

/-- A write of TIM.REF_CFG: the next edge counts with the new increment, from the present count. -/
def incrWrite (D : Nat) (v : Word) (d : Dev) : Dev := wr D Reg.REF_CFG (v &&& 0xFFFFFFFFF#64) d

def execIncrWrite (D : Die) (v : Word) (s : State) : Host.Outcome State Fault Refusal := onDev s (incrWrite D v)

/-! ### Stops (R359) -/

/-- The reference domain of a package stops counting. -/
def referenceStop (p : Nat) (d : Dev) : Dev := updPkg p (fun x => { x with refStop := true }) d

def execReferenceStop (p : Pkg) (s : State) : Host.Outcome State Fault Refusal := onDev s (referenceStop p)

/-- The advance of a gap of `ticks` periods of RTC32K: ticks × 30,517.578125 ns, rounded down. -/
def gapNs (ticks : Nat) : Nat := ticks * 30517578125 / 1000000

/-- The uncertainty of a gap: one tick, and the gap times PPM / 10^6 or 2%, rounded up to whole nanoseconds. -/
def gapUncert (ticks ppm : Nat) (rc : Bool) : Nat :=
  ceilDiv (30517578125 + gapNs ticks * (if rc then 20000 else ppm)) 1000000

/-- A die resumes after a stop of `ticks` periods. -/
def resumeDie (D ticks : Nat) (d : Dev) : Dev :=
  let rc := flg d D Reg.RTC_CFG Fl.RTC_CFG_RC
  let q := rg d D Reg.TIM_QUALITY
  let q1 := satAdd Fl.TIM_QUALITY_STOPS 1 (satAdd Fl.TIM_QUALITY_UNCERT (gapUncert ticks (fld d D Reg.RTC_CFG Fl.RTC_CFG_PPM) rc) q)
  raise D 505 (wr D Reg.TIM_QUALITY (if rc then setB Fl.TIM_QUALITY_RC_USED true q1 else q1)
    (wr D Reg.LAST_GAP (BitVec.ofNat 64 (ticks % 2 ^ 32)) (wr D Reg.TIM_NOW (rg d D Reg.TIM_NOW + BitVec.ofNat 64 (gapNs ticks)) d)))

/-- The reference of a package counts again. -/
def referenceResume (p ticks : Nat) (d : Dev) : Dev :=
  if !(pkgSt d p).refStop then d
  else forAll (d.cfg.diesOf p) (fun D => resumeDie D ticks) (updPkg p (fun x => { x with refStop := false }) d)

def execReferenceResume (p : Pkg) (ticks : Nat) (s : State) : Host.Outcome State Fault Refusal := onDev s (referenceResume p ticks)

end Sys2Proof.Machine
end

