-- ==== Sys2Proof/Machine/Mailbox.lean ====
section
/-! DEFINITION. The mailbox commands (R412, R425 to R427) and what they do (R308, R332, R333, R424, R447, R451). -/

namespace Sys2Proof.Machine

/-! ### Who may use a command, and when (R427) -/

/-- The mailboxes of a command code: CRN, host, MCTP, JTAG. -/
def mbxAllowed (code : Nat) : List Mbx :=
  if code = 0x01 then [.crn, .host, .mctp, .jtag]
  else if code = 0x02 ∨ code = 0x03 then [.crn, .host, .mctp]
  else if code = 0x04 ∨ code = 0x08 ∨ code = 0x09 ∨ code = 0x0A then [.crn, .mctp]
  else if code = 0x05 then [.host, .mctp]
  else if code = 0x06 ∨ code = 0x07 ∨ code = 0x0B then [.crn]
  else if code = 0x0C ∨ code = 0x0D then [.crn, .host]
  else if code = 0x10 ∨ code = 0x11 then [.jtag]
  else if code = 0x12 then [.crn, .jtag]
  else []

/-- Commands that are not served in Reserve mode. -/
def notInReserve (code : Nat) : Bool := code == 4 || code == 5 || code == 6 || code == 7 || code == 0xB || code == 0xC

/-- Whether a package's Crowns run their firmware (R423, R459, R464). -/
def crownRuns (d : Dev) (p : Nat) : Bool :=
  decide (0 < d.cfg.ndie p) && decide (2 ≤ fld d (crownDie d p) Reg.BOOT_STATUS Fl.BOOT_STATUS_STAGE) && !romRecovery d p

/-- Whether a mailbox is served; the MCTP endpoint is lost with the Crown of the flash-driving die (R431). -/
def mbxServed (d : Dev) (D : Nat) (b : Mbx) : Bool := crownRuns d (D / 8) && !(b == .mctp && flashLost d (D / 8))

/-! ### Background commands (R426) -/

/-- A ticket is given out, and the command ends with ACCEPTED. -/
def newTicket (D : Nat) (b : Mbx) (code a0 a1 : Nat) (d : Dev) : Dev :=
  let p := D / 8
  let n := (pkgSt d p).nextTicket
  mbxFinish D b 1 [BitVec.ofNat 64 n]
    (updPkg p (fun x => { x with nextTicket := n + 1, tickets := x.tickets ++ [⟨n, code, a0, a1, 0, 0⟩] }) d)

/-- Whether a command of a code about a unit is running in the background. -/
def ticketBusy (d : Dev) (p code : Nat) (same : Nat → Bool) : Bool :=
  (pkgSt d p).tickets.any (fun t => t.code == code && t.state == 0 && same t.a0)

/-! ### Commands -/

/-- GET_STATUS. The percentage of a command that runs is a free value, as is what its final result reads. -/
def mbxGetStatus (D : Nat) (b : Mbx) (a0 : Nat) (d : Dev) : Dev :=
  match (pkgSt d (D / 8)).tickets.find? (fun t => t.id == a0) with
  | none => mbxFinish D b 4 [] d
  | some t =>
    let pct := if t.state = 1 then 100 else Config.freeNat (draw d) % 101
    let res := if t.state = 0 then Config.freeNat (draw d + 1) % 16 else t.result
    mbxFinish D b 0 [BitVec.ofNat 64 (t.state + pct * 2 ^ 8 + res * 2 ^ 16)] { d with freeCtr := d.freeCtr + 2 }

/-- The value of a PLDM sensor (R430); none where there is no such sensor. -/
def sensorValue (d : Dev) (p id : Nat) : Option Nat :=
  match Config.sensor id with
  | none => none
  | some k =>
    if k.val < 8 then (if k.val < d.cfg.ndie p then some (fld d (p * 8 + k.val) Reg.THERM_STATUS Fl.THERM_STATUS_TJ_MAX) else none)
    else if k.val = 8 then some (fld d (p * 8) Reg.SUPPLY Fl.SUPPLY_VIN)
    else if k.val = 9 then some (fld d (p * 8) Reg.SUPPLY Fl.SUPPLY_IIN)
    else if k.val = 10 then some (fld d (p * 8) Reg.SUPPLY Fl.SUPPLY_VSB)
    else if k.val = 11 then some (pkgField d p Fl.PKG_STATUS_POWER_W)
    else some (Config.pkgState (fld d (crownDie d p) Reg.BOOT_STATUS Fl.BOOT_STATUS_STAGE) (pkgReserve d p))

/-- SENSOR_READ. -/
def mbxSensor (D : Nat) (b : Mbx) (a0 : Nat) (d : Dev) : Dev :=
  match sensorValue d (D / 8) a0 with
  | some v => mbxFinish D b 0 [BitVec.ofNat 64 v, rg d (crownDie d (D / 8)) Reg.TIM_NOW] d
  | none => mbxFinish D b 4 [] d

/-- SET_POWER_LIMIT. -/
def mbxPowerLimit (D : Nat) (b : Mbx) (a0 : Nat) (d : Dev) : Dev :=
  if 2 ^ 16 ≤ a0 then mbxFinish D b 4 [] d
  else mbxFinish D b 0 [] (setFld (D / 8 * 8) Reg.PKG_LIMIT Fl.PKG_LIMIT_LIMIT_W a0 d)

/-- DOMAIN_REQ: a normal-side request; the mailbox waits for its final outcome. -/
def mbxDomainReq (D : Nat) (b : Mbx) (a0 : Nat) (d : Dev) : Dev :=
  let E := D / 8 * 8 + a0 % 8
  if a0 ≠ a0 % 8 + a0 / 2 ^ 8 % 128 * 2 ^ 8 + a0 / 2 ^ 16 % 4 * 2 ^ 16 ∨ d.cfg.present E = false then mbxFinish D b 4 [] d
  else domNormal E (a0 / 2 ^ 8 % 128) (a0 / 2 ^ 16 % 4) (updMbx D b (fun x => { x with wait := some (E, (dieSt d E).nsSeq + 1) }) d)

/-- The ports of a package that serve a logical port and are up. -/
def convPorts (d : Dev) (p : Nat) : List Nat :=
  (d.cfg.diesOf p).flatMap (fun D => ((List.range 6).map (physPort d D)).filter (fun k => portState d k == 3))

/-- CODE_CONVERT (R308, R309): the Crown sets MSH.CODE_CONV and CONV of the entry, and starts every active port. -/
def mbxCodeConvert (D : Nat) (b : Mbx) (a0 : Nat) (d : Dev) : Dev :=
  let p := D / 8
  let r := a0 % 64
  let new := a0.testBit 8
  let e := Reg.CODE_REG r
  if a0 ≠ r + b2n new * 2 ^ 8 then mbxFinish D b 4 [] d
  else if flg d (p * 8) Reg.CODE_CONV Fl.CODE_CONV_BUSY then mbxFinish D b 2 [] d
  else if flg d (p * 8) e Fl.CODE_REG_EN = false ∨ flg d (p * 8) e Fl.CODE_REG_CODE = new then mbxFinish D b 4 [] d
  else
    let ks := convPorts d p
    let w : Word := BitVec.ofNat 64 (r + b2n new * 2 ^ 6 + 2 ^ 7 + ks.length % 64 * 2 ^ 8)
    let start (k : Nat) (d : Dev) : Dev :=
      setFlg (portDie k) (Reg.CONV_FENCE (portNum k)) Fl.CONV_FENCE_ACTIVE true (wr (portDie k) (Reg.CONV_FENCE (portNum k)) 0 d)
    newTicket D b 6 a0 0 (forAll ks start (setFlg (p * 8) e Fl.CODE_REG_CONV true (wr (p * 8) Reg.CODE_CONV w d)))

/-- RESTITCH: ARG0 names the unit as an error record does (KIND in bits 15:8, DIE in 18:16, PKG in 20:19, UNIT in 31:24), and for a DRAM
row ARG1 holds what INFO0 does (log entry 24). Only kinds that R443 lets the command restitch are taken. -/
def mbxRestitch (D : Nat) (b : Mbx) (a0 a1 : Nat) (d : Dev) : Dev :=
  let p := D / 8
  let kind := a0 / 2 ^ 8 % 256
  let E := p * 8 + a0 / 2 ^ 16 % 8
  let unit := a0 / 2 ^ 24 % 256
  let bad := a0 ≠ kind * 2 ^ 8 + a0 / 2 ^ 16 % 32 * 2 ^ 16 + unit * 2 ^ 24 ∨ a0 / 2 ^ 19 % 4 ≠ p ∨ d.cfg.present E = false
  let go (ok : Bool) (f : Dev → Dev) : Dev :=
    if !ok then mbxFinish D b 4 [] d
    else if ticketBusy d p 7 (· == a0) then mbxFinish D b 2 [] d
    else newTicket D b 7 a0 a1 (f d)
  if bad then mbxFinish D b 4 [] d
  else if kind = 0x01 then go (decide (unit < 40)) (coreRestitch (E * 40 + unit) .command)
  else if kind = 0x02 then go (decide (unit < 42)) (sliceRestitch (E * 42 + unit) .command)
  else if kind = 0x08 then
    go (decide (unit < 7) && decide (a1 < 2 ^ 22)) (rowRemap (E * 7 + unit) (a1 % 4) (a1 / 4 % 16) (a1 / 64 % 2 ^ 16))
  else mbxFinish D b 4 [] d

/-- RESERVE_ENTER: every package of the system is to enter Reserve mode with cause 4 (R447). -/
def mbxReserveEnter (D : Nat) (b : Mbx) (d : Dev) : Dev :=
  mbxFinish D b 0 [] (forAll (packages d) (fun q => reserveCause q 4) d)

/-- RESERVE_EXIT (R451): accepted if every package is in Reserve mode and meets the conditions. -/
def mbxReserveExit (D : Nat) (b : Mbx) (d : Dev) : Dev :=
  if (packages d).all (fun q => pkgReserve d q && exitOk d q) then newTicket D b 9 0 0 (exitStart d) else mbxFinish D b 7 [] d

/-- FAULT_ACK: the entry is removed. -/
def mbxFaultAck (D : Nat) (b : Mbx) (a0 : Nat) (d : Dev) : Dev :=
  if (pkgSt d (D / 8)).faults.length ≤ a0 then mbxFinish D b 4 [] d
  else mbxFinish D b 0 [] (updPkg (D / 8) (fun x => { x with faults := x.faults.eraseIdx a0 }) d)

/-- SVC_DOWN_CLEAR: the service's entry is cleared on every die, with event 499 (R320). -/
def mbxSvcClear (D : Nat) (b : Mbx) (a0 : Nat) (d : Dev) : Dev :=
  let hit := (List.range 16).filter (fun n =>
    flg d 0 (Reg.SVC_DOWN n) Fl.SVC_DOWN_VALID && fld d 0 (Reg.SVC_DOWN n) Fl.SVC_DOWN_SVC == a0)
  if 2 ^ 12 ≤ a0 then mbxFinish D b 4 [] d
  else
    let d1 := forAll hit (fun n => wr 0 (Reg.SVC_DOWN n) 0) d
    mbxFinish D b 0 [] (if hit.isEmpty then d1 else forAll (packages d1) (fun q => raisePkg q 499) d1)

/-- FW_STAGE: the image is read when the background command ends. -/
def mbxFwStage (D : Nat) (b : Mbx) (a0 a1 : Nat) (d : Dev) : Dev :=
  let p := D / 8
  if flashLost d p then mbxFinish D b 6 [] d
  else if 2 ^ 48 ≤ a0 ∨ a1 < 0x200 ∨ 0x1000200 < a1 then mbxFinish D b 4 [] d
  else if ticketBusy d p 0xC (fun _ => true) || (pkgSt d p).upd.isSome then mbxFinish D b 2 [] d
  else newTicket D b 0xC a0 a1 d

/-- FW_ACTIVATE: the staged slot is used at the next package reset; with nothing staged it fails. -/
def mbxFwActivate (D : Nat) (b : Mbx) (a0 : Nat) (d : Dev) : Dev :=
  if flashLost d (D / 8) then mbxFinish D b 6 [] d
  else if a0 = 0 ∨ 3 < a0 then mbxFinish D b 4 [] d
  else
    let r := imageActivate (D / 8) a0 d
    mbxFinish D b (if r.2 then 0 else 7) [] r.1

/-! ### Debug enables (R332, R333) -/

/-- The enables in force are changed, on every die; a change raises event 498 of every package. -/
def dbgSet (en : Nat) (d : Dev) : Dev :=
  let w := rg d 0 Reg.DBG_STATUS
  if w.toNat % 16 = en then d
  else forAll (packages d) (fun q => raisePkg q 498) (wr 0 Reg.DBG_STATUS (setF ⟨3, 0⟩ en w) d)

/-- DBG_CHALLENGE: a nonce of 32 bytes from the random source; a set that names a fused-off enable fails. -/
def mbxChallenge (D : Nat) (b : Mbx) (a0 : Nat) (d : Dev) : Dev :=
  let p := D / 8
  let n := draw d
  let w (i : Nat) : Word := Config.freeWord (n + i)
  if 16 ≤ a0 then mbxFinish D b 4 [] d
  else if a0 &&& fld d 0 Reg.DBG_STATUS Fl.DBG_STATUS_FUSED_OFF ≠ 0 then mbxFinish D b 7 [] d
  else
    let nonce := (w 0).toNat + (w 1).toNat * 2 ^ 64 + (w 2).toNat * 2 ^ 128 + (w 3).toNat * 2 ^ 192
    mbxFinish D b 0 [w 0, w 1, w 2, w 3, Config.serial p]
      (updPkg p (fun x => { x with chal := some ⟨nonce, a0, nowOf d (crownDie d p), []⟩ }) { d with freeCtr := n + 4 })

/-- The bytes that a response signs: nonce, serial and set. -/
def dbgMessage (p : Nat) (c : DbgChal) : List Byte := toBytes 32 c.nonce ++ toBytes 8 (Config.serial p).toNat ++ toBytes 8 c.set

/-- A failed response is counted, and the third locks the mailbox. -/
def dbgFail (D : Nat) (b : Mbx) (d : Dev) : Dev :=
  let n := min 3 (fld d 0 Reg.DBG_STATUS Fl.DBG_STATUS_FAILS + 1)
  let d1 := setFld 0 Reg.DBG_STATUS Fl.DBG_STATUS_FAILS n d
  mbxFinish D b 5 [] (if n = 3 then setFlg 0 Reg.DBG_STATUS Fl.DBG_STATUS_LOCKOUT true d1 else d1)

/-- DBG_RESPONSE: the first part is kept; the second completes the signature, which is verified against the four key slots. The nonce is
valid for 10 s and one use. -/
def mbxResponse (D : Nat) (b : Mbx) (part : Nat) (sig : List Word) (d : Dev) : Dev :=
  let p := D / 8
  if 2 ≤ part then mbxFinish D b 4 [] d
  else if part = 0 then
    mbxFinish D b 0 [] (updPkg p (fun x => { x with chal := x.chal.map (fun c => { c with sig := sig }) }) d)
  else
    let d1 := updPkg p (fun x => { x with chal := none }) d
    match (pkgSt d p).chal with
    | none => dbgFail D b d1
    | some c =>
      let bytes := (c.sig ++ sig).flatMap (fun w => toBytes 8 w.toNat)
      if c.sig.length = 6 ∧ nowOf d (crownDie d p) ≤ c.at' + 10000000000 then
        match (List.range 4).find? (fun ks => Config.ecdsaOk (Config.dbgKey p ks) bytes (dbgMessage p c)) with
        | some ks =>
          mbxFinish D b 0 [] (dbgSet (fld d1 0 Reg.DBG_STATUS ⟨3, 0⟩ ||| c.set) (setFld 0 Reg.DBG_STATUS Fl.DBG_STATUS_KEYSLOT ks d1))
        | none => dbgFail D b d1
      else dbgFail D b d1

/-- DBG_CLEAR. -/
def mbxDbgClear (D : Nat) (b : Mbx) (a0 : Nat) (d : Dev) : Dev :=
  if 16 ≤ a0 then mbxFinish D b 4 [] d
  else mbxFinish D b 0 [] (dbgSet (fld d 0 Reg.DBG_STATUS ⟨3, 0⟩ &&& (15 - a0)) d)

/-! ### The mailbox (R425 to R427) -/

/-- What a command that is served does, by its code and arguments. -/
def mbxDo (D : Nat) (b : Mbx) (code : Nat) (a : Nat → Word) (d : Dev) : Dev :=
  let n (i : Nat) : Nat := (a i).toNat
  match code with
  | 0x01 => caseback D b d
  | 0x02 => mbxGetStatus D b (n 0) d
  | 0x03 => mbxSensor D b (n 0) d
  | 0x04 => mbxPowerLimit D b (n 0) d
  | 0x05 => mbxDomainReq D b (n 0) d
  | 0x06 => mbxCodeConvert D b (n 0) d
  | 0x07 => mbxRestitch D b (n 0) (n 1) d
  | 0x08 => mbxReserveEnter D b d
  | 0x09 => mbxReserveExit D b d
  | 0x0A => mbxFaultAck D b (n 0) d
  | 0x0B => mbxSvcClear D b (n 0) d
  | 0x0C => mbxFwStage D b (n 0) (n 1) d
  | 0x0D => mbxFwActivate D b (n 0) d
  | 0x10 => mbxChallenge D b (n 0) d
  | 0x11 => mbxResponse D b (n 0) ((List.range 6).map (fun i => a (i + 1))) d
  | 0x12 => mbxDbgClear D b (n 0) d
  | _ => mbxFinish D b 3 [] d

/-- A Crown serves the command that a mailbox holds: BAD_CMD, DENIED and UNAVAILABLE are checked first. A locked JTAG mailbox may use no
command (R333). -/
def mbxServe (D : Nat) (b : Mbx) (d : Dev) : Dev :=
  let x := mbxSt d D b
  if mbxAllowed x.code = [] then mbxFinish D b 3 [] d
  else if (mbxAllowed x.code).contains b = false ∨ (b = .jtag ∧ flg d 0 Reg.DBG_STATUS Fl.DBG_STATUS_LOCKOUT = true) then mbxFinish D b 5 [] d
  else if pkgReserve d (D / 8) && notInReserve x.code then mbxFinish D b 6 [] d
  else mbxDo D b x.code (fun i => KMap.look 0 x.args i) d

/-- A Crown event becomes pending at a die's Crown, and ends its sleep (R417): 0 mailbox, 1 management channel, 2 I3C, 3 JTAG, 4 timer. -/
def crownPend (D bit : Nat) (d : Dev) : Dev := updCrn D (fun x => { x with evpend := x.evpend ||| 2 ^ bit, asleep := false }) d

/-- A write of MBX_CMD rings the mailbox (R426); while BUSY is 1 it is ignored and sets OVERRUN. -/
def mbxRing (D : Nat) (b : Mbx) (code seq : Nat) (d : Dev) : Dev :=
  let x := mbxSt d D b
  if x.busy then updMbx D b (fun x => { x with overrun := true }) d
  else
    let d1 := updMbx D b (fun x => { x with busy := true, done := false, replayed := false, seq := seq, code := code }) d
    let d2 := crownPend (mbxDie d D b) (if b = .mctp then 2 else if b = .jtag then 3 else 0) d1
    if mbxServed d2 D b then mbxServe D b d2 else d2

/-- A write of an argument register. -/
def mbxArg (D : Nat) (b : Mbx) (i : Nat) (v : Word) (d : Dev) : Dev :=
  if (mbxSt d D b).busy then updMbx D b (fun x => { x with overrun := true }) d
  else updMbx D b (fun x => { x with args := KMap.put 0 x.args i v }) d

/-- Whether a mailbox exists: the CRN and JTAG mailboxes on every die, the host mailbox where the port is an endpoint, the MCTP endpoint
once per package. -/
def mbxExists (d : Dev) (D : Nat) (b : Mbx) : Bool := d.cfg.present D && !(b == .host && !hspEnd d D)

/-- A requester writes the arguments and then the command. -/
def mbxCommand (D : Nat) (b : Mbx) (seq code : Nat) (args : List Word) (d : Dev) : Dev :=
  if mbxExists d D b then mbxRing D b code seq ((args.zipIdx).foldl (fun d e => mbxArg D b e.2 e.1 d) d) else d

/-- The commands that wait in a package's mailboxes are served once its Crowns run their firmware. -/
def mbxServeAll (p : Nat) (d : Dev) : Dev :=
  forAll (d.cfg.diesOf p) (fun D => forAll [.crn, .host, .mctp, .jtag] (fun b d =>
    if mbxServed d D b && (mbxSt d D b).busy && (mbxSt d D b).wait.isNone && (b != .mctp || D == flashDie d p) then mbxServe D b d
    else d)) d

/-! ### The end of a background command -/

/-- A ticket reports its final result. -/
def ticketEnd (p id result : Nat) (d : Dev) : Dev :=
  updPkg p (fun x => { x with tickets := x.tickets.map (fun t =>
    if t.id == id && t.state == 0 then { t with state := if result = 0 then 1 else 2, result := result } else t) }) d

/-- Whether what a background command does is still under way. -/
def ticketRuns (d : Dev) (p : Nat) (t : Ticket) : Bool :=
  if t.code = 6 then flg d (p * 8) Reg.CODE_CONV Fl.CODE_CONV_BUSY
  else if t.code = 7 then t.a0 / 2 ^ 8 % 256 == 2 &&
    (match (dieSt d (p * 8 + t.a0 / 2 ^ 16 % 8)).moving with | some (i, _) => i == t.a0 / 2 ^ 24 % 256 | none => false)
  else if t.code = 9 then flg d (p * 8) Reg.RAS_RESERVE Fl.RAS_RESERVE_EXITING
  else false

/-- A background command finishes: FW_STAGE reads, verifies and writes its image; the others report what came of them. -/
def backgroundEnd (p id : Nat) (ok : Bool) (d : Dev) : Dev :=
  match (pkgSt d p).tickets.find? (fun t => t.id == id && t.state == 0) with
  | none => d
  | some t =>
    if ticketRuns d p t then d
    else if t.code = 0xC then
      match crownRead p t.a0 t.a1 d with
      | (d1, some l) =>
        let r := if ok then imageStage p l d1 else (d1, false)
        ticketEnd p id (if r.2 then 0 else 7) r.1
      | (d1, none) => ticketEnd p id 7 d1
    else if t.code = 9 then ticketEnd p id (if pkgReserve d p then 7 else 0) d
    else ticketEnd p id (if ok then 0 else 7) d

/-! ### Rows -/

def execCaseback (D : Die) (b : Mbx) (q : BitVec 8) (s : State) : Host.Outcome State Fault Refusal :=
  onDev s (mbxCommand D b q.toNat 0x01 [])
def execGetStatus (D : Die) (b : Mbx) (q : BitVec 8) (ticket : Word) (s : State) : Host.Outcome State Fault Refusal :=
  onDev s (mbxCommand D b q.toNat 0x02 [ticket])
def execSensorRead (D : Die) (b : Mbx) (q : BitVec 8) (sensor : Word) (s : State) : Host.Outcome State Fault Refusal :=
  onDev s (mbxCommand D b q.toNat 0x03 [sensor])
def execSetPowerLimit (D : Die) (b : Mbx) (q : BitVec 8) (w : Word) (s : State) : Host.Outcome State Fault Refusal :=
  onDev s (mbxCommand D b q.toNat 0x04 [w])
def execDomainReq (D : Die) (b : Mbx) (q : BitVec 8) (a : Word) (s : State) : Host.Outcome State Fault Refusal :=
  onDev s (mbxCommand D b q.toNat 0x05 [a])
def execCodeConvert (D : Die) (b : Mbx) (q : BitVec 8) (a : Word) (s : State) : Host.Outcome State Fault Refusal :=
  onDev s (mbxCommand D b q.toNat 0x06 [a])
def execRestitch (D : Die) (b : Mbx) (q : BitVec 8) (a a1 : Word) (s : State) : Host.Outcome State Fault Refusal :=
  onDev s (mbxCommand D b q.toNat 0x07 [a, a1])
def execReserveEnter (D : Die) (b : Mbx) (q : BitVec 8) (s : State) : Host.Outcome State Fault Refusal :=
  onDev s (mbxCommand D b q.toNat 0x08 [])
def execReserveExit (D : Die) (b : Mbx) (q : BitVec 8) (s : State) : Host.Outcome State Fault Refusal :=
  onDev s (mbxCommand D b q.toNat 0x09 [])
def execFaultAck (D : Die) (b : Mbx) (q : BitVec 8) (i : Word) (s : State) : Host.Outcome State Fault Refusal :=
  onDev s (mbxCommand D b q.toNat 0x0A [i])
def execSvcDownClear (D : Die) (b : Mbx) (q : BitVec 8) (svc : Word) (s : State) : Host.Outcome State Fault Refusal :=
  onDev s (mbxCommand D b q.toNat 0x0B [svc])
def execFwStage (D : Die) (b : Mbx) (q : BitVec 8) (pa len : Word) (s : State) : Host.Outcome State Fault Refusal :=
  onDev s (mbxCommand D b q.toNat 0x0C [pa, len])
def execFwActivate (D : Die) (b : Mbx) (q : BitVec 8) (typ : Word) (s : State) : Host.Outcome State Fault Refusal :=
  onDev s (mbxCommand D b q.toNat 0x0D [typ])
def execDbgChallenge (D : Die) (b : Mbx) (q : BitVec 8) (en : Word) (s : State) : Host.Outcome State Fault Refusal :=
  onDev s (mbxCommand D b q.toNat 0x10 [en])
def execDbgResponse (D : Die) (b : Mbx) (q : BitVec 8) (part : Word) (s1 s2 s3 s4 s5 s6 : Word) (s : State) :
    Host.Outcome State Fault Refusal := onDev s (mbxCommand D b q.toNat 0x11 [part, s1, s2, s3, s4, s5, s6])
def execDbgClear (D : Die) (b : Mbx) (q : BitVec 8) (en : Word) (s : State) : Host.Outcome State Fault Refusal :=
  onDev s (mbxCommand D b q.toNat 0x12 [en])
def execBadCmd (D : Die) (b : Mbx) (q code : BitVec 8) (s : State) : Host.Outcome State Fault Refusal :=
  onDev s (mbxCommand D b q.toNat code.toNat [])
def execBackgroundCommandEnd (p : Pkg) (ticket : Nat) (ok : Bool) (s : State) : Host.Outcome State Fault Refusal :=
  onDev s (backgroundEnd p ticket ok)

end Sys2Proof.Machine
end

