-- ==== Sys2Proof/Machine/HspIn.lean ====
section
/-! DEFINITION. What comes in from a high-speed port's link: memory requests through BARs and windows, doorbells, configuration
requests, message-signalled interrupts, and the window commits (R387 to R394, R398, R399, R407, R408). -/

namespace Sys2Proof.Machine

/-! ### Window sets (R391, R392) -/

/-- The shadow set of a port as a window set. -/
def shadowSet (d : Dev) (D : Nat) : KMap Word :=
  (List.range 17).foldl (fun m w => KMap.put 0 (KMap.put 0 m (2 * w) (rg d D (Reg.WIN_BASE w))) (2 * w + 1) (rg d D (Reg.WIN_CTL w))) []

/-- A window set becomes the live one. -/
def winApply (D : Nat) (m : KMap Word) (d : Dev) : Dev :=
  raise D 426 (bump D Reg.WIN_STATUS Fl.WIN_STATUS_COMMITS 1 (updHsp D (fun x => { x with live := m }) d))

/-- A commit (R392): applied at once, or held behind the one that is pending. -/
def winGo (D : Nat) (d : Dev) : Dev :=
  if flg d D Reg.WIN_STATUS Fl.WIN_STATUS_PENDING then
    setFlg D Reg.WIN_STATUS Fl.WIN_STATUS_HELD true (updHsp D (fun x => { x with commits := x.commits ++ [shadowSet d D] }) d)
  else setFlg D Reg.WIN_STATUS Fl.WIN_STATUS_PENDING true (winApply D (shadowSet d D) d)

/-- Every request translated by the old set has completed: a held commit is applied, or PENDING clears. -/
def winDoneCommit (D : Nat) (d : Dev) : Dev :=
  if !flg d D Reg.WIN_STATUS Fl.WIN_STATUS_PENDING then d
  else match (hspSt d D).commits with
    | [] => setFlg D Reg.WIN_STATUS Fl.WIN_STATUS_PENDING false d
    | m :: r => setFlg D Reg.WIN_STATUS Fl.WIN_STATUS_HELD (!r.isEmpty) (winApply D m (updHsp D (fun x => { x with commits := r }) d))

/-- WIN_BASE and WIN_CTL of a live window. -/
def liveBase (d : Dev) (D w : Nat) : Word := KMap.look 0 (hspSt d D).live (2 * w)
def liveCtl (d : Dev) (D w : Nat) : Word := KMap.look 0 (hspSt d D).live (2 * w + 1)

/-- Log2 of the size of a window. -/
def winLg (d : Dev) (D w : Nat) : Nat := if w = 16 then bar4Lg d D else max 12 (min 26 (getF Fl.WIN_CTL_SIZE_LG (liveCtl d D w)))

/-- The device address of an offset of a window for `n` bytes; none when the window refuses it. -/
def winTranslate (d : Dev) (D w o n : Nat) : Option Nat :=
  let lg := winLg d D w
  if getB Fl.WIN_CTL_EN (liveCtl d D w) && decide (o + n ≤ 2 ^ lg) then
    some (getF Fl.WIN_BASE_BASE (liveBase d D w) * 2 ^ 12 / 2 ^ lg * 2 ^ lg + o)
  else none

/-- The window of a root port that a bus address lies in, with the offset (R407). -/
def busWindow (d : Dev) (D a : Nat) : Option (Nat × Nat) :=
  ((List.range 17).find? (fun w =>
    let b := getF Fl.WIN_CTL_BUS_BASE (liveCtl d D w) * 2 ^ 12
    getB Fl.WIN_CTL_EN (liveCtl d D w) && decide (b ≤ a) && decide (a < b + 2 ^ winLg d D w))).map
      (fun w => (w, a - getF Fl.WIN_CTL_BUS_BASE (liveCtl d D w) * 2 ^ 12))

/-- Where a memory request of a function goes (R389, R390, R407). -/
inductive InPlace where
  | bar0 (off : Nat)
  | win (w o : Nat)
  | page (n : Nat)
  | nowhere
  deriving DecidableEq, Repr

def inPlace (d : Dev) (D f : Nat) : HostTgt → InPlace
  | .bar 0 off => .bar0 off
  | .bar 2 off =>
    if f = 1 then
      (if off < 0x40000000 then .win (off / 2 ^ 26) (off % 2 ^ 26)
       else if off < 0x40100000 then .page ((off - 0x40000000) / 4096) else .nowhere)
    else if 2 ≤ f ∧ off < 0x10000 then .page (256 + 16 * (f - 2) + off / 4096) else .nowhere
  | .bar 4 off => if f = 1 then .win 16 off else .nowhere
  | .bar _ _ => .nowhere
  | .bus a => match busWindow d D a with | some (w, o) => .win w o | none => .nowhere

/-! ### BAR0 (R389) -/

/-- The 64-bit word of PF0's BAR0 at an aligned offset. -/
def bar0Pf0 (d : Dev) (D off : Nat) : Word :=
  let x := mbxSt d D .host
  if off = 8 then x.status
  else if 0x40 ≤ off ∧ off < 0x80 then KMap.look 0 x.args ((off - 0x40) / 8)
  else if 0x80 ≤ off ∧ off < 0xC0 then KMap.look 0 x.resp ((off - 0x80) / 8)
  else if 0x100000 ≤ off ∧ off < 0x101000 then BitVec.ofNat 64 (ofBytes ((x.buf.drop (off - 0x100000)).take 8))
  else if off = 0x200000 then rg d D Reg.HSP_MODE
  else if 0x200008 ≤ off ∧ off < 0x200008 + 8 * 66 then rg d D (Reg.FN_STATUS ((off - 0x200008) / 8))
  else 0

/-- The MSI-X table and Pending Bit Array of a function, at their offsets. -/
def bar0Msix (d : Dev) (D f tab pba off : Nat) : Word :=
  if tab ≤ off ∧ off < tab + 16 * msixCount f then
    let vec := (off - tab) / 16
    let i := (off - tab) / 8 % 2 * 2
    BitVec.ofNat 64 (msixWord d D f vec i + msixWord d D f vec (i + 1) * 2 ^ 32)
  else if pba ≤ off ∧ off < pba + 8 * ((msixCount f + 63) / 64) then
    BitVec.ofNat 64 (bitsFrom 64 (fun i => (hspSt d D).pend.contains (f, (off - pba) * 8 + i)))
  else 0

/-- DMA_STATUS of a channel as its function's BAR0 shows it. -/
def bar0Chan (d : Dev) (D f ch : Nat) : Word := if ch < 16 ∧ chanFn d D ch = f then rg d D (Reg.DMA_STATUS ch) else 0

/-- The 64-bit word of a function's BAR0 at an aligned offset; what the layout does not list reads as zero. -/
def bar0Word (d : Dev) (D f off : Nat) : Word :=
  if f = 0 then bar0Pf0 d D off
  else if f = 1 then
    if off = 0 then rg d D (Reg.FN_STATUS 1)
    else if 0x10000 ≤ off ∧ off < 0x10000 + 17 * 16 then
      (if off % 16 = 0 then liveBase d D ((off - 0x10000) / 16) else liveCtl d D ((off - 0x10000) / 16))
    else if 0x20000 ≤ off ∧ off < 0x20080 then bar0Chan d D 1 ((off - 0x20000) / 8)
    else bar0Msix d D 1 0x100000 0x180000 off
  else if off = 0 then rg d D (Reg.FN_STATUS f)
  else if 0x100 ≤ off ∧ off < 0x180 then bar0Chan d D f ((off - 0x100) / 8)
  else bar0Msix d D f 0x8000 0xC000 off

/-- Bytes of a value within a 64-bit word at an offset. -/
def wordMerge (old : Word) (off n v : Nat) : Word :=
  let m : Nat := (2 ^ (8 * n) - 1) * 2 ^ (8 * (off % 8)) % 2 ^ 64
  (old &&& ~~~ BitVec.ofNat 64 m) ||| (BitVec.ofNat 64 (v * 2 ^ (8 * (off % 8))) &&& BitVec.ofNat 64 m)

/-- A write of a mailbox's registers at an offset of its block (R425): the command, the status, an argument. -/
def mbxRegWrite (D : Nat) (b : Mbx) (off n v : Nat) (d : Dev) : Dev :=
  if off = 0 then mbxRing D b (v % 256) (v / 256 % 256) d
  else if off = 8 then (if v / 4 % 2 = 1 then updMbx D b (fun x => { x with overrun := false }) d else d)
  else if 0x40 ≤ off ∧ off < 0x80 then
    mbxArg D b ((off - 0x40) / 8) (wordMerge (KMap.look 0 (mbxSt d D b).args ((off - 0x40) / 8)) off n v) d
  else d

/-- A write to a function's BAR0: the mailbox of PF0, the MSI-X tables of the others; every view is read-only. -/
def bar0Write (D f off n v : Nat) (d : Dev) : Dev :=
  if f = 0 then mbxRegWrite D .host off n v d
  else
    let tab := if f = 1 then 0x100000 else 0x8000
    if tab ≤ off ∧ off < tab + 16 * msixCount f then
      let w (i : Nat) (d : Dev) : Dev := setMsixWord D f ((off - tab) / 16) ((off - tab) / 4 % 4 + i) (v / 2 ^ (32 * i) % 2 ^ 32) d
      msixFlush D f (forAll (List.range (n / 4)) w d)
    else d

/-! ### Answers -/

def inCpl (D f tag st : Nat) (ep : Bool) (data : List Byte) (d : Dev) : Dev := hspSend D (.cpl f tag st ep data) d

/-- A refusal of a request that hit a window counts (R391). -/
def winCount (D : Nat) (pl : InPlace) (d : Dev) : Dev :=
  match pl with
  | .win _ _ => bump D Reg.WIN_STATUS Fl.WIN_STATUS_REFUSED 1 d
  | _ => d

/-- What the state of a function does with a memory request before anything else: nothing, Unsupported Request, or Completer Abort. -/
def inGate (d : Dev) (D f : Nat) : Option Nat :=
  if hspRoot d D then none
  else if !fnExists d D f then some 1
  else if inReserve d D && f != 0 then some 4
  else if !fnFlg d D f Fl.FN_STATUS_MSE || fnFld d D f Fl.FN_STATUS_DSTATE == 3 || fnFlg d D f Fl.FN_STATUS_FLR_BUSY then some 1
  else none

/-- Whether a function other than PF0 is not enabled (R388). -/
def inOff (d : Dev) (D f : Nat) : Bool := (hspRoot d D || f != 0) && !fnOn d D f

/-! ### Peer-to-peer (R391) -/

/-- Runs of enabled bytes with their offsets. -/
def enabledRuns : Nat → List (Option Byte) → List (Nat × List Byte)
  | _, [] => []
  | o, none :: r => enabledRuns (o + 1) r
  | o, some b :: r =>
    match enabledRuns (o + 1) r with
    | (o', l) :: t => if o' = o + 1 then (o, b :: l) :: t else (o, [b]) :: (o', l) :: t
    | [] => [(o, [b])]

/-- Whether an access to another port's window must wait for that port to wake. -/
def peerAsleep (d : Dev) (E : Nat) : Bool := domState d E 95 == 1 || domState d E 95 == 5

/-- A read leaves through another port's window; whether it did. -/
def peerRead (D f tag E off n : Nat) (d : Dev) : Dev × Bool :=
  if peerAsleep d E then (domReach E 95 d, false)
  else if hspMode d E < 2 ∧ domOn d E 95 = true ∧ fnIssues d E 1 = true then
    match nonPosted E 1 (.p2p D f tag) (busAddr d E off) n none d with
    | some d1 => (d1, true)
    | none => (d, false)
  else (inCpl D f tag 1 false [] d, true)

/-- A write leaves through another port's window, or is discarded as a core's store is. -/
def peerWrite (E off : Nat) (data : List (Option Byte)) (ep : Bool) (d : Dev) : Dev × Bool :=
  if peerAsleep d E then (domReach E 95 d, false)
  else if hspMode d E < 2 ∧ domOn d E 95 = true ∧ fnIssues d E 1 = true then
    (forAll (enabledRuns 0 data) (fun e => hspSend E (.memWr 1 (busAddr d E off + e.1) e.2 ep)) d, true)
  else (if hspMode d E < 2 then bump E (Reg.FN_STATUS 1) Fl.FN_STATUS_OB_DISCARD 1 d else d, true)

/-! ### Reads and writes through windows -/

/-- Whether every home of a range takes requests. -/
def rangeAwake (d : Dev) (D pa n : Nat) : Bool :=
  (List.range ((pa + n + 63) / 64 - pa / 64)).all (fun i => unitAwake d D ((pa / 64 + i) * 64))
def rangeWake (D pa n : Nat) (d : Dev) : Dev :=
  forAll (List.range ((pa + n + 63) / 64 - pa / 64)) (fun i => unitWake D ((pa / 64 + i) * 64)) d

/-- A read through a window; whether it is over (else it waits at the port's input). -/
def winRd (D f w o n tag : Nat) (d : Dev) : Dev × Bool :=
  let no (d : Dev) : Dev × Bool := (inCpl D f tag 1 false [] (winCount D (.win w o) d), true)
  match winTranslate d D w o n with
  | none => no d
  | some pa =>
    match regionOf pa with
    | .reg _ _ => no d
    | .unmapped => no d
    | .portWin E off => if flg d D (Reg.FN_CFG (fnOf d D f)) Fl.FN_CFG_P2P then peerRead D f tag E off n d else no d
    | _ =>
      if !rangeAwake d D pa n then (rangeWake D pa n d, false)
      else
        let r := dmaFetch D (fnWho d D f) pa n d
        let bad := r.2.2.1 || r.2.2.2
        (inCpl D f tag 0 bad (if bad then List.replicate n 0 else r.2.1) r.1, true)

/-- Write enabled bytes line by line. -/
def inStore (D : Nat) (who : Who) (pa : Nat) (data : List (Option Byte)) (ep : Bool) (d : Dev) : Dev :=
  let line (la : Nat) (d : Dev) : Dev :=
    let here := data.zipIdx.filterMap (fun e => match e.1 with
      | some b => if (pa + e.2) / 64 * 64 = la then some (pa + e.2, b) else none
      | none => none)
    let pl := placeBytes here
    (unitWrite (UnitSrc.hsp D) la who pl.1 pl.2 ep d).1
  forAll ((List.range ((pa + data.length + 63) / 64 - pa / 64)).map (fun i => (pa / 64 + i) * 64)) line d

/-- A posted write through a window; whether it is over. -/
def winWr (D f w o : Nat) (data : List (Option Byte)) (ep : Bool) (d : Dev) : Dev × Bool :=
  let no (d : Dev) : Dev × Bool := (winCount D (.win w o) d, true)
  match winTranslate d D w o data.length with
  | none => no d
  | some pa =>
    match regionOf pa with
    | .reg _ _ => no d
    | .unmapped => no d
    | .portWin E off => if flg d D (Reg.FN_CFG (fnOf d D f)) Fl.FN_CFG_P2P then peerWrite E off data ep d else no d
    | _ =>
      if !rangeAwake d D pa data.length then (rangeWake D pa data.length d, false)
      else (inStore D (fnWho d D f) pa data ep d, true)

/-! ### Doorbells (R393, R394) -/

/-- A doorbell write is discarded: counted, recorded, event 425. -/
def dbDiscard (D f : Nat) (d : Dev) : Dev :=
  raise D 425 (record D { ErrRec.mk' 0 0x0B 0 0x1E with info0 := f } (bump D (Reg.FN_STATUS f) Fl.FN_STATUS_DB_DISCARD 1 d))

/-- Words in chunks of up to 8. -/
def wordChunks : Nat → List Word → List QItem
  | 0, _ => []
  | _, [] => []
  | n + 1, l => .words (l.take 8) :: wordChunks n (l.drop 8)

/-- The words of enabled bytes. -/
def wordsOf (b : List Byte) : List Word := (List.range (b.length / 8)).map (fun i => BitVec.ofNat 64 (ofBytes ((b.drop (8 * i)).take 8)))

/-- The pushes that a doorbell write makes, or none when it is discarded. -/
def dbItems (d : Dev) (D f n off : Nat) (data : List (Option Byte)) : Option (List QItem) :=
  let m := rg d D (Reg.DB_MAP n)
  let q := getF Fl.DB_MAP_QID m
  let rq : Word := BitVec.ofNat 64 q
  let p := fnProd d D (fnOf d D f)
  let ns := (fnWho d D f).ns
  let b := data.filterMap id
  let packed := match queueAt d q with | some s => s.packed | none => false
  let ok := getB Fl.DB_MAP_EN m && fnOn d D f && data.length % 8 == 0 && decide (0 < data.length) && off % 8 == 0 && b.length == data.length
  let ws := wordChunks 64 (wordsOf b)
  if !ok then none
  else match getF Fl.DB_MAP_FORM m with
    | 0 => if qFaults d qPUSHW rq ns p then none else some ws
    | 1 => if b.length ≠ 64 ∨ off % 64 ≠ 0 ∨ qFaults d qPUSH rq ns p = true then none else some [.full (ofLineBytes b)]
    | 2 => if qFaults d qOPEN rq ns p || !packed then none else some (.openMark :: ws ++ [.closeMark])
    | _ => none

/-- An entry of the port's tail buffer: words of one producer join its last entry up to 8; none when the buffer is full. -/
def bufAdd (D q : Nat) (p : QProd) (it : QItem) (d : Dev) : Option Dev :=
  let l := (hspSt d D).buf
  let join : Option (List (Nat × QProd × QItem)) := match it, l.getLast? with
    | .words w, some (q', p', .words w') =>
      if q' = q ∧ p' = p ∧ w'.length + w.length ≤ 8 then some (l.dropLast ++ [(q, p, .words (w' ++ w))]) else none
    | _, _ => none
  let note (d : Dev) : Dev := match it with
    | .openMark => noteIssue q p qOPEN d
    | .closeMark => noteIssue q p qCLOSE d
    | _ => d
  match join with
  | some l' => some (updHsp D (fun x => { x with buf := l' }) d)
  | none => if bufUse d D < 8 then some (note (updHsp D (fun x => { x with buf := l ++ [(q, p, it)] }) d)) else none

/-- Pushes go into the tail buffer while it has room; what is left waits. -/
def dbPush (D q : Nat) (p : QProd) : List QItem → Dev → Dev × List QItem
  | [], d => (d, [])
  | it :: r, d => match bufAdd D q p it d with
    | some d1 => dbPush D q p r d1
    | none => (d, it :: r)

/-- The first entry of the tail buffer is released to its queue (R30); one whose queue is gone is dropped with it. -/
def dbRelease (D : Nat) (d : Dev) : Dev :=
  match (hspSt d D).buf with
  | [] => d
  | (q, p, it) :: r =>
    let d1 := updHsp D (fun x => { x with buf := r }) d
    match tailPush q p it d1 with
    | some d2 => d2
    | none => if (queueAt d q).isSome then d else d1

/-! ### Message-signalled interrupts (R408, R351) -/

/-- Whether a write from downstream is a message-signalled interrupt. -/
def isMsi (d : Dev) (D a : Nat) (data : List (Option Byte)) : Bool :=
  hspRoot d D && flg d D Reg.MSI_CAP Fl.MSI_CAP_EN && fld d D Reg.MSI_CAP Fl.MSI_CAP_ADDR == a / 4096
    && (data.length == 4 || data.length == 8)

/-- A message-signalled interrupt by its data. -/
def msiTake (D data : Nat) (d : Dev) : Dev :=
  let m := rg d D (Reg.MSI_MAP (data % 2048))
  if getB Fl.MSI_MAP_EN m then
    virtualWake ((D / 8 * 8 + getF Fl.MSI_MAP_DIE m) * 40 + getF Fl.MSI_MAP_CORE m) (getB Fl.MSI_MAP_GROUP m) (getF Fl.MSI_MAP_VEC m) d
  else raise D 437 d

/-! ### The port's input (R394, R399) -/

def InReq.fn' : InReq → Nat
  | .rd f _ _ _ => f
  | .wr f _ _ _ => f
  | .db f _ _ _ => f

/-- A request at the port's input is served; what of it must still wait. -/
def inServe (D : Nat) (r : InReq) (d : Dev) : Dev × Option InReq :=
  let wait (x : Dev × Bool) : Dev × Option InReq := (x.1, if x.2 then none else some r)
  match r with
  | .rd f tgt n tag =>
    let pl := inPlace d D f tgt
    let ur (d : Dev) : Dev × Option InReq := (inCpl D f tag 1 false [] d, none)
    match inGate d D f with
    | some st => (inCpl D f tag st false [] d, none)
    | none =>
      if inOff d D f then ur (winCount D pl d)
      else match pl with
        | .bar0 off =>
          if (n = 4 ∨ n = 8) ∧ off % n = 0 then
            (inCpl D f tag 0 false (toBytes n ((bar0Word d D f (off / 8 * 8)).toNat / 2 ^ (8 * (off % 8)))) d, none)
          else ur d
        | .win w o => wait (winRd D f w o n tag d)
        | .page _ => (inCpl D f tag 0 false (List.replicate n 0) d, none)
        | .nowhere => ur (if hspRoot d D then winCount D (.win 0 0) d else d)
  | .wr f tgt data ep =>
    let pl := inPlace d D f tgt
    let vals := data.map (fun b => b.getD 0)
    match tgt, inGate d D f with
    | _, some _ => (d, none)
    | .bus a, none =>
      if isMsi d D a data then (msiTake D (ofBytes vals) d, none)
      else if inOff d D f then (winCount D pl d, none)
      else match pl with
        | .win w o => wait (winWr D f w o data ep d)
        | _ => (winCount D (.win 0 0) d, none)
    | .bar _ off, none =>
      match pl with
      | .page n =>
        match dbItems d D f n off data with
        | none => (dbDiscard D f d, none)
        | some items =>
          let q := fld d D (Reg.DB_MAP n) Fl.DB_MAP_QID
          let p := fnProd d D f
          let x := dbPush D q p items d
          (x.1, if x.2.isEmpty then none else some (.db f q p x.2))
      | _ =>
        if inOff d D f then (winCount D pl d, none)
        else match pl with
          | .bar0 o =>
            let n := data.length
            if (n = 4 ∨ n = 8) ∧ o % n = 0 ∧ data.all Option.isSome = true then (bar0Write D f o n (ofBytes vals) d, none) else (d, none)
          | .win w o => wait (winWr D f w o data ep d)
          | _ => (d, none)
  | .db f q p items =>
    let x := dbPush D q p items d
    (x.1, if x.2.isEmpty then none else some (.db f q p x.2))

/-- The requests that wait at the port's input are served in order as far as they go. -/
def inPump (D : Nat) : Nat → Dev → Dev
  | 0, d => d
  | n + 1, d =>
    match (hspSt d D).inq with
    | [] => d
    | (r, t) :: rest =>
      match inServe D r (updHsp D (fun x => { x with inq := rest }) d) with
      | (d1, none) => inPump D n d1
      | (d1, some r') => updHsp D (fun x => { x with inq := (r', t) :: rest }) d1

def inPumpAll (D : Nat) (d : Dev) : Dev := inPump D ((hspSt d D).inq.length) d

/-- Whether a request may be served although others wait: a read behind which no earlier request of its function waits (R399). -/
def mayPass (d : Dev) (D : Nat) (r : InReq) : Bool :=
  match r with
  | .rd f _ _ _ => !(hspSt d D).inq.any (fun e => e.1.fn' == f)
  | _ => (hspSt d D).inq.isEmpty

/-- A memory request arrives over the link, while it is up and the port's domain is on. -/
def inArrive (D : Nat) (r : InReq) (d0 : Dev) : Dev :=
  if !linkUp d0 D || !domOn d0 D 95 || !(hspEnd d0 D || hspRoot d0 D) then d0
  else
    let d := inPumpAll D d0
    let put (r : InReq) (d : Dev) : Dev := updHsp D (fun x => { x with inq := x.inq ++ [(r, nowOf d D)] }) d
    if mayPass d D r then
      match inServe D r d with
      | (d1, none) => d1
      | (d1, some r') => put r' d1
    else put r d

/-- Whether a target suits the port's mode. -/
def tgtFits (d : Dev) (D : Nat) : HostTgt → Bool
  | .bar _ _ => hspEnd d D
  | .bus _ => hspRoot d D

/-- A doorbell that has waited for DB_TO is discarded, and the traffic behind it proceeds. -/
def dbTimeout (D : Nat) (d0 : Dev) : Dev :=
  let d := inPumpAll D d0
  match (hspSt d D).inq with
  | (.db f _ _ _, t) :: rest =>
    if t + max 1 (fld d D Reg.DB_CTL Fl.DB_CTL_DB_TO) * 1000 ≤ nowOf d D then
      inPumpAll D (dbDiscard D f (updHsp D (fun x => { x with inq := rest }) d))
    else d
  | _ => d

/-! ### Configuration requests (R387, R407, R467) -/

/-- What a write of a configuration word does beside the stored bits: enables, D-state, FLR, VF Enable, MSI-X. -/
def cfgEffects (D f dw : Nat) (v : Nat) (be : Nat → Bool) (d : Dev) : Dev :=
  if dw = 1 ∧ be 0 = true then
    let d1 := if v / 2 % 2 = 1 then enableSet D f 1 d else setFnFlg D f Fl.FN_STATUS_MSE false d
    if v / 4 % 2 = 1 then enableSet D f 0 d1 else bmeClear D f d1
  else if dw = 17 ∧ f < 2 ∧ be 0 = true then
    (if v % 4 = 3 then dState D f true d else if v % 4 = 0 then dState D f false d else d)
  else if dw = 26 ∧ be 1 = true ∧ v / 2 ^ 15 % 2 = 1 then flrStart D f d
  else if dw = 174 ∧ f = 1 ∧ be 0 = true then
    forAll (List.range 64) (fun i => setFnFlg D (2 + i) Fl.FN_STATUS_MSE (v / 8 % 2 == 1)) (vfEnable D (v % 2 == 1) d)
  else if dw = 20 then msixFlush D f d
  else d

/-- A configuration read or write of an endpoint's function. -/
def cfgRequest (D f dw : Nat) (wr' : Option (Nat × Nat)) (tag : Nat) (d : Dev) : Dev :=
  if !hspEnd d D || !linkUp d D || !domOn d D 95 then d
  else if !fnExists d D f then inCpl D f tag 1 false [] d
  else if inReserve d D && f != 0 then inCpl D f tag 4 false [] d
  else if f ≠ 0 ∧ released d (D / 8) = false then inCpl D f tag 2 false [] d
  else match wr' with
    | none => inCpl D f tag 0 false (toBytes 4 (cfgRead d D f dw)) d
    | some (v, be) =>
      let bytes := (List.range 4).filter (fun i => be.testBit i)
      let d1 := forAll bytes (fun i => ownCfgWrite D f (4 * dw + i) 1 (v / 2 ^ (8 * i) % 256)) d
      inCpl D f tag 0 false [] (cfgEffects D f dw v be.testBit d1)

/-! ### Rows -/

def execInboundMemoryRead (D : Die) (f : Fin 66) (tgt : HostTgt) (len : Fin 4097) (tag : Nat) (s : State) :
    Host.Outcome State Fault Refusal :=
  onDev s (fun d => if tgtFits d D tgt && decide (0 < len.val) then inArrive D (.rd f tgt len tag) d else d)
def execInboundMemoryWrite (D : Die) (f : Fin 66) (tgt : HostTgt) (data : List (Option Byte)) (ep : Bool) (s : State) :
    Host.Outcome State Fault Refusal :=
  onDev s (fun d => if tgtFits d D tgt && !data.isEmpty && decide (data.length ≤ 512) then inArrive D (.wr f tgt data ep) d else d)
/-- A write to page `n` of PF1 (`f` = 1) or of a VF. -/
def execDoorbellWrite (D : Die) (f : Fin 66) (n : Fin 256) (off : Fin 4096) (data : List (Option Byte)) (s : State) :
    Host.Outcome State Fault Refusal :=
  let base := if f.val = 1 then 0x40000000 + n.val * 4096 else n.val % 16 * 4096
  onDev s (fun d => if hspEnd d D && decide (1 ≤ f.val) && !data.isEmpty && decide (data.length ≤ 512) then
    inArrive D (.wr f (.bar 2 (base + off)) data false) d else d)
def execDoorbellRelease (D : Die) (s : State) : Host.Outcome State Fault Refusal :=
  onDev s (fun d => inPumpAll D (dbRelease D (inPumpAll D d)))
def execDoorbellTimeout (D : Die) (s : State) : Host.Outcome State Fault Refusal := onDev s (dbTimeout D)
def execConfigurationRequest (D : Die) (f : Fin 66) (dw : Fin 1024) (w : Option (BitVec 32 × BitVec 4)) (tag : Nat) (s : State) :
    Host.Outcome State Fault Refusal := onDev s (cfgRequest D f dw (w.map (fun e => (e.1.toNat, e.2.toNat))) tag)
def execGo (D : Die) (s : State) : Host.Outcome State Fault Refusal := onDev s (winGo D)
def execWinCommitComplete (D : Die) (s : State) : Host.Outcome State Fault Refusal := onDev s (winDoneCommit D)
def execFnMsixSend (D : Die) (f : Fin 66) (vec : BitVec 9) (s : State) : Host.Outcome State Fault Refusal :=
  onDev s (msixReq D f vec.toNat)
/-- A root port receives a message with 4 bytes of data at its capture page. -/
def execMessageSignalledInterrupt (D : Die) (v : BitVec 32) (s : State) : Host.Outcome State Fault Refusal :=
  onDev s (fun d => if flg d D Reg.MSI_CAP Fl.MSI_CAP_EN && hspRoot d D then
    inArrive D (.wr 1 (.bus (fld d D Reg.MSI_CAP Fl.MSI_CAP_ADDR * 4096)) ((toBytes 4 v.toNat).map some) false) d else d)
def execVirtualEvent (c : CoreId) (ns : Bool) (v : BitVec 8) (s : State) : Host.Outcome State Fault Refusal :=
  onDev s (virtualWake c ns v.toNat)

/-- The end of a transition (R371 to R373); a request that waited at a port's input for a slice is served. -/
def execDomainTransitionEnd (D : Die) (i : Fin 101) (vlow : Nat) (lost : List Nat) (s : State) :
    Host.Outcome State Fault Refusal :=
  onDev s (fun d => forAll (d.cfg.diesOf (D.val / 8)) inPumpAll (domEnd D i vlow lost d))

end Sys2Proof.Machine
end

