-- ==== Sys2Proof/Machine/Management.lean ====
section
/-! DEFINITION. The management endpoint: MCTP control messages, PLDM, the legacy SMBus registers and I3C address assignment
(R428 to R431). -/

namespace Sys2Proof.Machine

/-- Whether the endpoint of a package answers at all: its Crowns run, or its ROM is in recovery (R423), and the Crown of the die that
drives the boot flash has not failed (R431). -/
def endpointUp (d : Dev) (p : Nat) : Bool :=
  decide (0 < d.cfg.ndie p) && decide (2 ≤ fld d (crownDie d p) Reg.BOOT_STATUS Fl.BOOT_STATUS_STAGE) && !flashLost d p

/-- Whether it answers more than control messages and firmware updates: its Crowns run their firmware, and its endpoint ID is assigned. -/
def endpointServes (d : Dev) (p : Nat) : Bool := endpointUp d p && crownRuns d p && (pkgSt d p).eid != 0

/-- The endpoint answers. -/
def mgmtAnswer (p : Nat) (r : MgmtRsp) (d : Dev) : Dev := updPkg p (fun x => { x with rsp := x.rsp ++ [r] }) d

/-- The endpoint answers with a value if it is up. -/
def mgmtReply (p : Nat) (up : Bool) (r : MgmtRsp) (d : Dev) : Dev := if up then mgmtAnswer p r d else d

/-! ### MCTP control (R429) -/

/-- Set Endpoint ID: the reserved IDs 0 and 0xFF are not taken (PRESUMED, DSP0236, log entry 22). -/
def setEid (p e : Nat) (d : Dev) : Dev :=
  if !endpointUp d p then d
  else
    let d1 := if e = 0 ∨ e = 0xFF then d else updPkg p (fun x => { x with eid := e }) d
    mgmtAnswer p (.eid (pkgSt d1 p).eid) d1

def execSetEndpointId (p : Pkg) (e : BitVec 8) (s : State) : Host.Outcome State Fault Refusal := onDev s (setEid p e.toNat)
def execGetEndpointId (p : Pkg) (s : State) : Host.Outcome State Fault Refusal :=
  onDev s (fun d => mgmtReply p (endpointUp d p) (.eid (pkgSt d p).eid) d)
def execGetEndpointUuid (p : Pkg) (s : State) : Host.Outcome State Fault Refusal :=
  onDev s (fun d => mgmtReply p (endpointUp d p) (.uuid (Config.uuid p)) d)
def execGetMctpVersionSupport (p : Pkg) (s : State) : Host.Outcome State Fault Refusal :=
  onDev s (fun d => mgmtReply p (endpointUp d p) (.versions Config.mctpVersions) d)
/-- Message types: control 0x00, PLDM 0x01, vendor-defined PCI 0x7E. -/
def execGetMessageTypeSupport (p : Pkg) (s : State) : Host.Outcome State Fault Refusal :=
  onDev s (fun d => mgmtReply p (endpointUp d p) (.types [0x00, 0x01, 0x7E]) d)
/-- The Vendor ID of R387. -/
def execGetVendorDefinedMessageSupport (p : Pkg) (s : State) : Host.Outcome State Fault Refusal :=
  onDev s (fun d => mgmtReply p (endpointUp d p) (.vendors [0x1D7A]) d)

/-- A vendor-defined PCI message carries one mailbox command. -/
def vendorMessage (p code seq : Nat) (args : List Word) (d : Dev) : Dev :=
  if endpointServes d p then mbxCommand (flashDie d p) .mctp seq code (args.take 8) d else d

def execVendorDefinedPciMessage (p : Pkg) (code q : BitVec 8) (args : List Word) (s : State) : Host.Outcome State Fault Refusal :=
  onDev s (vendorMessage p code.toNat q.toNat args)

/-! ### PLDM (R430) -/

/-- Command numbers of the PLDM types supported (PRESUMED, DSP0240, DSP0248 and DSP0267, log entry 22). -/
def pldmCommands (t : Nat) : List Nat :=
  if t = 0 then [0x02, 0x03, 0x04, 0x05]
  else if t = 2 then [0x04, 0x0A, 0x11, 0x50, 0x51]
  else if t = 5 then [0x01, 0x02, 0x10, 0x13, 0x14, 0x15, 0x16, 0x17, 0x18, 0x1A, 0x1B, 0x1C, 0x1D]
  else []

def pldmTypes : List Nat := [0, 2, 5]

def execGettid (p : Pkg) (s : State) : Host.Outcome State Fault Refusal :=
  onDev s (fun d => mgmtReply p (endpointServes d p) (.pldm true [Config.pldmTid p]) d)
def execGetpldmversion (p : Pkg) (t : BitVec 8) (s : State) : Host.Outcome State Fault Refusal :=
  onDev s (fun d => mgmtReply p (endpointServes d p)
    (if pldmTypes.contains t.toNat then .pldm true [Config.pldmVersion t.toNat] else .pldm false []) d)
def execGetpldmtypes (p : Pkg) (s : State) : Host.Outcome State Fault Refusal :=
  onDev s (fun d => mgmtReply p (endpointServes d p) (.pldm true pldmTypes) d)
def execGetpldmcommands (p : Pkg) (t : BitVec 8) (s : State) : Host.Outcome State Fault Refusal :=
  onDev s (fun d => mgmtReply p (endpointServes d p) (.pldm (pldmTypes.contains t.toNat) (pldmCommands t.toNat)) d)
/-- One record for each sensor: a junction temperature per die, VIN, its current, VSB, package power, and the package state. -/
def execGetpdrrepositoryinfo (p : Pkg) (s : State) : Host.Outcome State Fault Refusal :=
  onDev s (fun d => mgmtReply p (endpointServes d p) (.pldm true [d.cfg.ndie p + 5]) d)
def execGetpdr (p : Pkg) (h : BitVec 32) (s : State) : Host.Outcome State Fault Refusal :=
  onDev s (fun d => mgmtReply p (endpointServes d p) (.pldm true (Config.pldmPdr p h.toNat)) d)
def execGetsensorreading (p : Pkg) (i : BitVec 16) (s : State) : Host.Outcome State Fault Refusal :=
  onDev s (fun d => mgmtReply p (endpointServes d p)
    (match sensorValue d p i.toNat with | some v => .pldm true [v] | none => .pldm false []) d)

/-- SetEventReceiver: platform events go to an endpoint, or to none. -/
def setReceiver (p : Nat) (e : Option Nat) (d : Dev) : Dev :=
  if endpointServes d p then mgmtAnswer p (.pldm true []) (updPkg p (fun x => { x with evRecv := e }) d) else d

def execSeteventreceiver (p : Pkg) (e : Option (BitVec 8)) (s : State) : Host.Outcome State Fault Refusal :=
  onDev s (setReceiver p (e.map BitVec.toNat))

/-- The end of an update: its state is gone. -/
def updEnd (p : Nat) (ok : Bool) (d : Dev) : Dev := mgmtAnswer p (.pldm ok []) (updPkg p (fun x => { x with upd := none }) d)

/-- A message of the firmware update flow (R424, R430): one update in a package at a time; verified in VerifyComplete; final with
ApplyComplete, which writes the slot that is not running and selects it for the next package reset. -/
def pldmUpdate (p : Nat) (m : PldmFw) (d : Dev) : Dev :=
  let set (u : Nat × List Byte × Nat) (d : Dev) : Dev := mgmtAnswer p (.pldm true []) (updPkg p (fun x => { x with upd := some u }) d)
  let no (d : Dev) : Dev := mgmtAnswer p (.pldm false []) d
  match m, (pkgSt d p).upd with
  | .update t, none => if t.val = 0 || ticketBusy d p 0xC (fun _ => true) then no d else set (t.val, [], 0) d
  | .data b, some (t, l, 0) => if 0x1000200 < (l ++ b).length then no d else set (t, l ++ b, 0) d
  | .transferComplete, some (t, l, 0) => set (t, l, 1) d
  | .verifyComplete, some (t, l, 1) => if imgType l = t && imageOk d p t l then set (t, l, 2) d else updEnd p false d
  | .applyComplete, some (t, l, 2) =>
    let r := imageStage p l d
    if r.2 then updEnd p true (imageActivate p t r.1).1 else updEnd p false r.1
  | .cancel, some _ => updEnd p true d
  | _, _ => no d

def execPldmFirmwareUpdate (p : Pkg) (m : PldmFw) (s : State) : Host.Outcome State Fault Refusal :=
  onDev s (fun d => if endpointUp d p && ((pkgSt d p).eid != 0) then pldmUpdate p m d else d)

/-! ### Legacy bus and I3C (R428, R430) -/

/-- Whether a legacy transfer is addressed to the package and served. -/
def smbusServed (d : Dev) (p a : Nat) : Bool := endpointUp d p && crownRuns d p && a == 0x4C + p

/-- The hottest junction of a package. -/
def hottest (d : Dev) (p : Nat) : Nat := (d.cfg.diesOf p).foldl (fun n D => max n (fld d D Reg.THERM_STATUS Fl.THERM_STATUS_TJ_MAX)) 0

/-- Whether a die of a package is at or above its warning threshold. -/
def thermWarning (d : Dev) (p : Nat) : Bool :=
  (d.cfg.diesOf p).any (fun D => decide (fld d D Reg.THERM_CTL Fl.THERM_CTL_WARN ≤ fld d D Reg.THERM_STATUS Fl.THERM_STATUS_TJ_MAX))

/-- Read Byte: 0x00 the hottest junction, 0x01 status. Other commands are not acknowledged. -/
def smbusByte (p a c : Nat) (d : Dev) : Dev :=
  if !smbusServed d p a then d
  else if c = 0 then mgmtAnswer p (.byte (hottest d p)) d
  else if c = 1 then
    mgmtAnswer p (.byte (b2n (!(pkgSt d p).faults.isEmpty) + 2 * b2n (pkgReserve d p) + 4 * b2n (thermWarning d p))) d
  else d

/-- Read Word: 0x02 package power in W, 0x03 VIN in mV. -/
def smbusWord (p a c : Nat) (d : Dev) : Dev :=
  if !smbusServed d p a then d
  else if c = 2 then mgmtAnswer p (.word (pkgField d p Fl.PKG_STATUS_POWER_W)) d
  else if c = 3 then mgmtAnswer p (.word (fld d (p * 8) Reg.SUPPLY Fl.SUPPLY_VIN)) d
  else d

def execSmbusReadByte (p : Pkg) (a : BitVec 7) (c : BitVec 8) (s : State) : Host.Outcome State Fault Refusal :=
  onDev s (smbusByte p a.toNat c.toNat)
def execSmbusReadWord (p : Pkg) (a : BitVec 7) (c : BitVec 8) (s : State) : Host.Outcome State Fault Refusal :=
  onDev s (smbusWord p a.toNat c.toNat)

/-- The endpoint takes the dynamic address that ENTDAA gives it. -/
def entdaa (p a : Nat) (d : Dev) : Dev :=
  if endpointUp d p then mgmtAnswer p (.address a) (updPkg p (fun x => { x with i3c := a }) d) else d

def execEntdaa (p : Pkg) (a : BitVec 7) (s : State) : Host.Outcome State Fault Refusal := onDev s (entdaa p a.toNat)

end Sys2Proof.Machine
end

