-- ==== Sys2Proof/Machine/Boot.lean ====
section
/-! DEFINITION. Package reset, the boot stages, warm reset and the levels of the lands that they drive (R453 to R471, R476, R479). -/

namespace Sys2Proof.Machine

/-! ### Stages and boot stop (R460, R464) -/

def stage (d : Dev) (p : Nat) : Nat := fld d (crownDie d p) Reg.BOOT_STATUS Fl.BOOT_STATUS_STAGE
def bootFld (p : Nat) (f : Fld) (v : Nat) (d : Dev) : Dev := forAll (d.cfg.diesOf p) (fun D => setFld D Reg.BOOT_STATUS f v) d
def setStage (p n : Nat) (d : Dev) : Dev := bootFld p Fl.BOOT_STATUS_STAGE n d

/-- A package stops boot: STAGE 0xA, the reason, a record of class 3, and ALERT_N with a platform event. -/
def stopOne (p code : Nat) (d : Dev) : Dev :=
  record (crownDie d p) { ErrRec.mk' 3 0x0F 0 0x1F with info0 := code }
    (updPkg p (fun x => { x with alert := true, warm := false }) (setStage p 0xA (bootFld p Fl.BOOT_STATUS_STOP code d)))

/-- A boot stop. One that makes the system's confirmation impossible stops every other package that has not been confirmed with code 6. -/
def bootStop (p code : Nat) (d : Dev) : Dev :=
  let waits (q : Nat) : Bool := q != p && decide (1 ≤ stage d q) && decide (stage d q ≤ 8) && !(pkgSt d q).confirmed
  let d1 := stopOne p code d
  if (pkgSt d p).confirmed then d1 else forAll ((packages d).filter waits) (fun q => stopOne q 6) d1

/-! ### Package reset (R453, R454, R458) -/

/-- The registers that the Crown's record keeps across a package reset: the tile map (R21), remap entries (R288), spare wires in use
(R249). -/
def crownRecord (d : Dev) (p : Nat) : KMap Word :=
  d.regs.filterMap (fun e =>
    let off := e.1 % 0x100000000
    let w : Word :=
      if e.1 / 0x100000000 / 8 ≠ p then 0
      else if inArr (Reg.LCORE 0) 40 off then setB Fl.LCORE_CHECKER false e.2
      else if inArr (Reg.LSLICE 0) 42 off then e.2
      else if inArr (Reg.LNK_STATUS 0) 194 off then e.2 &&& Fld.mask Fl.LNK_STATUS_SPARE_USED
      else if Reg.PORT_CFG 0 ≤ off ∧ off < Reg.PORT_CFG 7 ∧ inArr (Reg.REMAP 0 0 % 0x100000) 256 (off % 0x100000) = true then e.2
      else 0
    if w = 0 then none else some (e.1, w))

/-- The package of a tail window's stop (R229). -/
def stopPkg (stop : Nat) : Nat := if stop < 2000 then stop / 320 else stop % 1000 / 8

/-- A package reset: every unit of the package, its Crowns included, returns to its reset state; DRAM contents and dirty data are lost.
The flash, the fuses, the slots selected for the next reset and the Crown's record stay; the copies of the registers that the whole
system holds equal are reset with the master package (log entry 25). -/
def packageReset (p cause : Nat) (d : Dev) : Dev :=
  if d.cfg.ndie p = 0 then d
  else
    let x := pkgSt d p
    let known := d.regs.any (fun e => e.1 / 0x100000000 / 8 == p && inArr (Reg.LCORE 0) 40 (e.1 % 0x100000000))
    let nv := if known then crownRecord d p else x.nv
    let sys (k : Nat) : Bool := decide (k / 0x100000000 = 0) && decide (0x6040000 ≤ k % 0x100000000) && decide (k % 0x100000000 < 0x6041200)
    let gone (k : Nat) : Bool := if sys k then p == d.cfg.master else k / 0x100000000 / 8 == p
    let perst := (d.cfg.diesOf p).filter (perstOn d)
    let tails (q : QueueSt) : QueueSt := { q with tails := q.tails.filter (fun t => stopPkg t.1 != p) }
    let d1 := netLose p d
    let d2 : Dev := { d1 with
      regs := KMap.drop d1.regs gone
      mem := memDrop d1.mem (p * 2 ^ 40) ((p + 1) * 2 ^ 40)
      chk := KMap.drop d1.chk (fun k => k / 8 * 64 / 2 ^ 40 == p)
      ports := KMap.drop d1.ports (fun k => portDie k / 8 == p)
      homes := KMap.drop d1.homes (fun g => sliceDie g / 8 == p)
      caches := KMap.drop d1.caches (fun c => corePkg c == p)
      cifs := KMap.drop d1.cifs (fun c => corePkg (c / 2) == p)
      cores := KMap.drop d1.cores (fun c => corePkg c == p)
      doms := KMap.drop d1.doms (fun k => k / 128 / 8 == p)
      queues := (KMap.drop d1.queues (fun q => q / 2 ^ 16 == p)).map (fun e => (e.1, e.2.map tails))
      qengs := KMap.drop d1.qengs (fun c => corePkg c == p)
      hsps := KMap.drop d1.hsps (fun D => D / 8 == p)
      lnks := KMap.drop d1.lnks (fun k => k / 256 / 8 == p)
      brgs := KMap.drop d1.brgs (fun k => k / 3 / 8 == p)
      reins := KMap.drop d1.reins (fun D => D / 8 == p)
      crns := KMap.drop d1.crns (fun D => D / 8 == p) }
    let die (y : DieSt) : DieSt :=
      { DieSt.init with badCore := y.badCore, badSlice := y.badSlice, restitched := y.restitched,
                        vinOk := if y.vinOk.isSome then some 0 else none, vinBad := y.vinBad }
    let pkg (y : PkgSt) : PkgSt :=
      { PkgSt.init with vsb := y.vsb, rstn := y.rstn, pwrok := y.pwrok, fuses := y.fuses, flash := y.flash, nv := nv, select := y.select }
    let d3 := updPkg p pkg (forAll (d.cfg.diesOf p) (fun D => updDie D die) d2)
    let d4 := forAll (packages d) (fun q => updPkg q (fun y => { y with warm := false })) d3
    bootFld p Fl.BOOT_STATUS_CAUSE cause (wr (p * 8) Reg.PKG_LIMIT (limitReset (d.cfg.ndie p))
      (forAll perst (fun D => setFlg D Reg.HSP_MODE Fl.HSP_MODE_PERST true) d4))

/-- VSB enters its range: power-on reset (R453, R457). -/
def vsbOn (p : Nat) (d : Dev) : Dev :=
  packageReset p 1 (updPkg p (fun x => { x with vsb := true, rstn := false }) d)

/-- VSB leaves its range (R476). -/
def vsbLoss (p : Nat) (d : Dev) : Dev :=
  packageReset p 1 (updPkg p (fun x => { x with vsb := false, rstn := false }) d)

/-- RESET_N is asserted for a time in nanoseconds (R458): shorter than 9 µs is ignored, 11 µs or longer is a package reset, between
the filter decides (a free value). -/
def resetN (p ns : Nat) (d : Dev) : Dev :=
  let go (d : Dev) : Dev := packageReset p 2 (updPkg p (fun x => { x with rstn := false }) d)
  if (pkgSt d p).vsb = false ∨ ns < 9000 then d
  else if 11000 ≤ ns then go d
  else if Config.freeBool (draw d) then go (drawn d) else drawn d

def execVsbPowerOn (p : Pkg) (s : State) : Host.Outcome State Fault Refusal := .next { s with dev := vsbOn p s.dev }
def execVsbLoss (p : Pkg) (s : State) : Host.Outcome State Fault Refusal := .next { s with dev := vsbLoss p s.dev }
def execResetNAssertion (p : Pkg) (ns : Nat) (s : State) : Host.Outcome State Fault Refusal := .next { s with dev := resetN p ns s.dev }

/-! ### Steps 1 to 4 (R455 to R460) -/

/-- CRN.STRAPS (R456). -/
def strapsWord (n : Nat) (p : Nat) (master : Bool) (src : Nat) (mode : Nat → Nat) : Word :=
  BitVec.ofNat 64 ((List.range n).foldl (fun a k => a + mode k % 4 * 2 ^ (2 * k + 8)) (b2n master + p % 4 * 2 + src % 4 * 8))

/-- RESET_N is deasserted: the straps are sampled and boot starts. A package is numbered by its PKG_ID (log entry 26). -/
def resetRelease (p : Nat) (master : Bool) (src : Nat) (mode : Nat → Nat) (d : Dev) : Dev :=
  let x := pkgSt d p
  if d.cfg.ndie p = 0 ∨ x.vsb = false ∨ x.rstn = true then d
  else
    let w := strapsWord (d.cfg.ndie p) p master src mode
    let die (D : Nat) (d : Dev) : Dev :=
      let m := mode (D % 8) % 4
      setFlg D Reg.ROOT_RST Fl.ROOT_RST_ASSERT (m == 1) (setFld D Reg.HSP_MODE Fl.HSP_MODE_MODE m
        (wr D Reg.SUCC (setB Fl.SUCC_SYS_MASTER master (setF Fl.SUCC_PKG p (rg d D Reg.SUCC))) (wr D Reg.STRAPS w d)))
    let d1 : Dev := if master then { d with cfg := { d.cfg with master := p } } else d
    setStage p 1 (updPkg p (fun y => { y with rstn := true }) (forAll (d1.cfg.diesOf p) die d1))

def execResetNDeassertion (p : Pkg) (master : Bool) (src : Fin 4) (modes : List (Fin 4)) (s : State) :
    Host.Outcome State Fault Refusal :=
  onDev s (resetRelease p master src (fun k => (modes.getD k 3).val))

/-- A Crown runs an accepted image. -/
def crownStart (l : List Byte) (x : CrnSt) : CrnSt := { x with rom := false, pc := imgEntry l, slot := none }

/-- Whether the package has accepted a Crown firmware image. -/
def crownImaged (d : Dev) (p : Nat) : Bool := (KMap.look none (pkgSt d p).fw 1).isSome

/-- The ROM of the flash-driving Crown accepts an image of type 1, or enters recovery (R423). -/
def crownAccept (p : Nat) (d : Dev) : Dev :=
  if stage d p ≠ 1 ∨ crownImaged d p = true then d
  else if fld d (p * 8) Reg.STRAPS Fl.STRAPS_BOOT_SRC = 3 then bootStop p 1 d
  else
    match acceptedImage d p 1 with
    | some (s, l) => updCrn (flashDie d p) (crownStart l) (imageUse p 1 s l d)
    | none => bootStop p 1 d

def execCrownImageAcceptance (p : Pkg) (s : State) : Host.Outcome State Fault Refusal := onDev s (crownAccept p)

/-- The first bytes of an image's payload lie in a Crown's SRAM from 0x1000_0000 on, and FLUSHI has been executed (R431). -/
def sramCopy (l : List Byte) (x : CrnSt) : CrnSt :=
  let b := l.take (192 * 1024)
  let cells : KMap Byte := b.zipIdx.filterMap (fun e => if e.1 = 0#8 then none else some (e.2, e.1))
  { x with sram := cells ++ x.sram.filter (fun e => decide (b.length ≤ e.1)), fbuf := [], btb := [] }

/-- Every Crown runs the accepted image, and the board description is accepted (R423, R460 step 3). `bd` is what it says. -/
def boardAccept (p : Nat) (bd : BoardDesc) (d : Dev) : Dev :=
  if stage d p ≠ 1 ∨ crownImaged d p = false then d
  else
    match acceptedImage d p 3, acceptedImage d p 1 with
    | some (s, b), some (_, l) =>
      let crn (D : Nat) (d : Dev) : Dev :=
        updCrn D (fun x => sramCopy (imgPayload l) (if x.rom then crownStart l x else x)) d
      mbxServeAll p (setStage p 2 (forAll (d.cfg.diesOf p) crn (updPkg p (fun x => { x with board := some bd }) (imageUse p 3 s b d))))
    | _, _ => bootStop p 2 d

def execBoardDescriptionAcceptance (p : Pkg) (bd : BoardDesc) (s : State) : Host.Outcome State Fault Refusal := onDev s (boardAccept p bd)

/-! ### The tile map (R18, R21, R487) -/

/-- Row and column of a physical tile in the mesh of its die (R18). -/
def tilePos (t : Nat) : Nat × Nat :=
  if t < 2 then (0, t + 1)
  else if t < 5 then (0, t + 3)
  else if t < 11 then (1, t - 4)
  else if t < 19 then (2, t - 11)
  else if t < 25 then (3, t - 18)
  else if t < 33 then (4, t - 25)
  else if t < 39 then (5, t - 32)
  else if t < 41 then (6, t - 38)
  else (6, t - 36)

/-- Mesh hops between two tiles. -/
def tileHops (t u : Nat) : Nat := apart (tilePos t).1 (tilePos u).1 + apart (tilePos t).2 (tilePos u).2

/-- The place of an element in a list. -/
def indexIn (l : List Nat) (x : Nat) : Nat := l.idxOf x

/-- The slice tile of least distance, then of least number. -/
def nearest (t : Nat) (l : List Nat) : Option Nat :=
  l.foldl (fun acc u => match acc with
    | none => some u
    | some v => some (if tileHops t u < tileHops t v ∨ (tileHops t u = tileHops t v ∧ u < v) then u else v)) none

/-- The slice tile of each core tile (R487): its own where its slice is active, else the nearest that no core names. The cores without
a slice of their own choose in the order of their numbers. -/
def pairTiles (cores slices : List Nat) : List (Nat × Nat) :=
  let own := (cores.filter slices.contains).map (fun t => (t, t))
  let rest := cores.filter (fun t => !slices.contains t)
  rest.foldl (fun acc t =>
    match nearest t (slices.filter (fun u => !acc.any (fun e => e.2 == u))) with
    | some u => acc ++ [(t, u)]
    | none => acc) own

/-- The assignment of a die that was never restitched (R21, R487). -/
def tileAssign (D : Nat) (d : Dev) : Dev :=
  let cores := ((List.range 44).filter (fun t => !(d.cfg.sparesOf D).1.contains t)).take 40
  let slices := ((List.range 44).filter (fun t => !(d.cfg.sparesOf D).2.contains t)).take 42
  let pairs := pairTiles cores slices
  let tl (t : Nat) : Nat := match pairs.find? (fun e => e.1 == t) with | some e => indexIn slices e.2 | none => 0
  let core (e : Nat × Nat) (d : Dev) : Dev := wr D (Reg.LCORE e.2) (BitVec.ofNat 64 (e.1 + 64 + tl e.1 * 256)) d
  let slice (e : Nat × Nat) (d : Dev) : Dev := wr D (Reg.LSLICE e.2) (BitVec.ofNat 64 (e.1 + 64)) d
  forAll slices.zipIdx slice (forAll cores.zipIdx core d)

/-- The tile map of a die is assigned, or restored from the Crown's record with what else that keeps (R21, R249, R288). -/
def tileUp (D : Nat) (d : Dev) : Dev :=
  let rec' := (pkgSt d (D / 8)).nv.filter (fun e => e.1 / 0x100000000 == D)
  mapChange D (fun d =>
    if rec'.isEmpty then tileAssign D d else forAll rec' (fun e d => wr D (e.1 % 0x100000000) e.2 d) d) d

/-! ### Step 5 (R460) -/

/-- PHASE_STATUS for the phases of a die that work: 32 in service, the others spares (R362). -/
def phaseWord (good : List Nat) : Word :=
  BitVec.ofNat 64 (((good.take 32).foldl (fun a i => a + 2 ^ i) 0) + min 4 (good.length - 32) * 2 ^ 36)

/-- The rail settings of the board description in force on a die (R421). -/
def railsSet (D : Nat) (d : Dev) : Dev :=
  match (pkgSt d (D / 8)).board with
  | some b => forAll b.rails (fun e d => if e.1 < 100 then setFld D (Reg.DOM_CTL e.1) Fl.DOM_CTL_VOLT e.2 d else d) d
  | none => d

/-- A die is up: its rails, domains and bridges; a rein-strapped port trains. -/
def dieBring (D : Nat) (d : Dev) : Dev :=
  let d1 := dieOn D (railsSet D d)
  if hspMode d1 D = 2 ∧ reinState d1 D = 0 then setFld D Reg.REIN_STATUS Fl.REIN_STATUS_STATE 1 d1 else d1

/-- The routes of a package are those of R258, and the reference die is in step with itself (R357). -/
def meshUp (p : Nat) (d : Dev) : Dev :=
  let d1 := forAll (List.range (d.cfg.ndie p)) (fun i d => setFld (p * 8 + i) Reg.ROUTE Fl.ROUTE_DIE_BR (routeTable d p i) d) d
  if p = d.cfg.master then setFlg (p * 8) Reg.TIM_QUALITY Fl.TIM_QUALITY_SYNCED true d1 else d1

/-- Boot step 5. `missing` are the dies that do not answer, `bad` the regulator phases of a die that do not work. -/
def bringUp (p : Nat) (missing : List Nat) (bad : List (Nat × List Nat)) (d : Dev) : Dev :=
  let good (j : Nat) : List Nat :=
    (List.range 36).filter (fun i => !(match bad.find? (fun e => e.1 == j) with | some e => e.2.contains i | none => false))
  let x := pkgSt d p
  if stage d p ≠ 2 ∨ x.pwrok = false ∨ flg d (p * 8) Reg.SUPPLY Fl.SUPPLY_VIN_OOR = true ∨ (dieSt d (p * 8)).vinOk = none then d
  else if (List.range (d.cfg.ndie p)).any missing.contains then bootStop p 3 d
  else if (List.range (d.cfg.ndie p)).any (fun j => decide ((good j).length < 24)) then bootStop p 9 d
  else
    let die (D : Nat) (d : Dev) : Dev := dieBring D (tileUp D (wr D Reg.PHASE_STATUS (phaseWord (good (D % 8))) d))
    setStage p 3 (updPkg p (fun y => { y with stepAt := nowOf d (p * 8) }) (meshUp p (forAll (d.cfg.diesOf p) die d)))

def execDieBringup (p : Pkg) (missing : List (Fin 8)) (bad : List (Fin 8 × List (Fin 36))) (s : State) :
    Host.Outcome State Fault Refusal :=
  onDev s (bringUp p (missing.map (·.val)) (bad.map (fun e => (e.1.val, e.2.map (·.val)))))

/-! ### Step 6 (R262, R264, R462, R463) -/

/-- The packages that sampled MASTER_SEL asserted. -/
def masters (d : Dev) : List Nat := (packages d).filter (fun p => flg d (p * 8) Reg.STRAPS Fl.STRAPS_MASTER_SEL)

/-- Whether a package has passed step 5 and boots on. -/
def booting (d : Dev) (p : Nat) : Bool := decide (3 ≤ stage d p) && decide (stage d p ≤ 7)

/-- Whether a rein of a package was refused for a reason of R261. -/
def refusedFor (d : Dev) (p reason : Nat) : Bool :=
  (d.cfg.diesOf p).any (fun D => reinState d D == 5 && fld d D Reg.REIN_STATUS Fl.REIN_STATUS_REFUSE == reason)

/-- What the master package's Crown must find to confirm it (R462). -/
def confirmable (d : Dev) (m : Nat) : Bool :=
  let pk := packages d
  masters d == [m] && pk.all (booting d) && !refusedFor d m 1 && !refusedFor d m 3
    && (match (pkgSt d m).board with | some b => b.packages == pk.length | none => false)
    && pk.all (fun p => pk.all (fun q => p == q || !(reinsTo d p q).isEmpty))

/-- The master package is confirmed: it becomes the system Crown's, and the confirmation reaches every package. -/
def confirm (d : Dev) : Dev :=
  match masters d with
  | m :: _ =>
    if confirmable d m then
      forAll (packages d) (fun p d => setStage p (max 4 (stage d p)) (updPkg p (fun x => { x with confirmed := true }) d)) d
    else d
  | [] => d

def execMasterConfirmation (s : State) : Host.Outcome State Fault Refusal := onDev s confirm

/-- The wait of step 6 is over without a confirmation (R462 to R464): REIN_WAIT at the master package, 1,000 ms more elsewhere. -/
def reinTimeout (p : Nat) (d : Dev) : Dev :=
  let x := pkgSt d p
  let own := flg d (p * 8) Reg.STRAPS Fl.STRAPS_MASTER_SEL
  let wait := (match x.board with | some b => max 100 (min 10000 b.reinWait) | none => 1000) + (if own then 0 else 1000)
  if booting d p = false ∨ x.confirmed = true ∨ nowOf d (p * 8) < x.stepAt + wait * 1000000 then d
  else bootStop p (if (masters d).length ≠ 1 ∨ refusedFor d p 3 = true then 4 else if refusedFor d p 1 then 5 else 6) d

def execReinWaitTimeout (p : Pkg) (s : State) : Host.Outcome State Fault Refusal := onDev s (reinTimeout p)

/-! ### Steps 7 to 9 (R269, R271, R272, R285, R300, R307) -/

/-- Operating point of a memory port's domain at a data rate (R374). -/
def portOpp (rate : Nat) : Nat := (rate - 20) / 4

/-- The memory map and the code table of the board description are loaded on every die and locked (R272, R300). -/
def mapLoad (p : Nat) (d : Dev) : Dev :=
  match (pkgSt d p).board with
  | none => d
  | some b =>
    let n := d.cfg.ndie p
    let port (k : Nat) (d : Dev) : Dev :=
      let off := Reg.PORT_CFG (portNum k)
      let w := match b.ports.find? (fun e => e.1 == k) with | some e => e.2 | none => 3#64
      wr (portDie k) off ((rg d (portDie k) off &&& ~~~ 0x3F7#64) ||| (w &&& 0x3F7#64)) d
    let d1 := forAll (pkgPorts d p) port d
    let cap := pkgCap d1 p
    let gib := 6 * cap / 2 ^ 30
    let w : Word := BitVec.ofNat 64 (b2n b.dieLocal + 2 + 6 * n * 2 ^ 8 + (if b.dieLocal then gib else 0) * 2 ^ 16
      + (if b.dieLocal then gib * n else 6 * n * cap / 2 ^ 30) * 2 ^ 24)
    let code (e : (Nat × Nat × Bool) × Nat) (d : Dev) : Dev :=
      forAll (d.cfg.diesOf p) (fun D => wr D (Reg.CODE_REG e.2)
        (BitVec.ofNat 64 (e.1.1 % 2 ^ 10 + e.1.2.1 % 2 ^ 10 * 2 ^ 16 + b2n e.1.2.2 * 2 ^ 32 + 2 ^ 33))) d
    forAll (b.codes.take 64).zipIdx code (forAll (d1.cfg.diesOf p) (fun D => wr D Reg.MEMMAP w) d1)

/-- Whether a port is left off: no density or no rate of the set (PORT.CFG). -/
def portUnset (d : Dev) (k : Nat) : Bool :=
  let w := rg d (portDie k) (Reg.PORT_CFG (portNum k))
  getF Fl.PORT_CFG_DENSITY w == 3 || !([20, 24, 28, 32, 36, 40].contains (getF Fl.PORT_CFG_RATE w))

/-- A port completes its initial training at a rate; a rate below the one asked for is recorded (R269). The spare waits in
self-refresh. -/
def portTrained (k rate : Nat) (qual : Bool) (temp : Nat) (d : Dev) : Dev :=
  let D := portDie k
  let n := portNum k
  let spare := (lportOf d k).isNone
  let asked := fld d D (Reg.PORT_CFG n) Fl.PORT_CFG_RATE
  let d1 := setFlg D (Reg.PORT_CFG n) Fl.PORT_CFG_QUAL qual (wr D (Reg.PORT_STATUS n)
    (BitVec.ofNat 64 ((if spare then 7 else 1) + 2 ^ 7 + rate * 2 ^ 8)) d)
  let d2 := oppSet D (88 + n) (portOpp rate) (wr D (Reg.TRAIN_REC n)
    (setF Fl.TRAIN_REC_CAP_TEMP temp (setF Fl.TRAIN_REC_CAP_CURRENT (fld d D Reg.SUPPLY Fl.SUPPLY_IIN) (rg d D (Reg.TRAIN_REC n)))) d1)
  let d3 := if spare then setFlg D Reg.MEMPORT Fl.MEMPORT_SPARE_OK true d2 else d2
  if rate < asked then record D { ErrRec.mk' 0 0x07 n 0x1F with info0 := asked, info1 := rate } d3 else d3

/-- A port that fails, does not match or does not answer is failed, and the spare serves in its place (R271, R292). -/
def portLost (k : Nat) (populated : Bool) (d : Dev) : Dev :=
  let D := portDie k
  let o := portNum k
  let d1 := raisePort k 7 (record D (ErrRec.mk' 2 0x07 o 0x17)
    (setFlg D (Reg.PORT_STATUS o) Fl.PORT_STATUS_POPULATED populated (setFld D (Reg.PORT_STATUS o) Fl.PORT_STATUS_STATE 6 d)))
  match lportOf d k with
  | none => setFlg D Reg.MEMPORT Fl.MEMPORT_SPARE_OK false d1
  | some n =>
    match spareOf d1 D with
    | none => d1
    | some s => setFld D (Reg.PORT_STATUS s) Fl.PORT_STATUS_STATE 1
        (restitchRec D 0x07 o 0x11 s (restitchEnd D 0 (portSwitch D n s false (restitchRec D 0x07 o 0x10 s d1))))

/-- The logical ports of a die whose physical port can serve, by a state. -/
def portsIn (d : Dev) (D st : Nat) : List Nat :=
  ((List.range 6).map (physPort d D)).filter (fun k => portState d k == st)

/-- Boot step 7: initial training of every populated port. A port that `res` does not name trains at the rate asked for. -/
def training (p : Nat) (res : List (Nat × TrainRes)) (d : Dev) : Dev :=
  if stage d p ≠ 3 ∧ stage d p ≠ 4 then d
  else
    let d1 := mapLoad p d
    let of (k : Nat) : TrainRes := match res.find? (fun e => e.1 == k) with
      | some e => e.2
      | none => .trained (BitVec.ofNat 6 (fld d1 (portDie k) (Reg.PORT_CFG (portNum k)) Fl.PORT_CFG_RATE)).toFin false 0
    let good (k : Nat) (d : Dev) : Dev := if portUnset d1 k then d else match of k with
      | .trained r q t => portTrained k r.val q t.toNat d
      | _ => d
    let bad (k : Nat) (d : Dev) : Dev := if portUnset d1 k then d else match of k with
      | .failed => portLost k true d
      | .absent => if (lportOf d k).isNone then d else portLost k false d
      | _ => d
    let d2 := forAll (pkgPorts d p) bad (forAll (pkgPorts d p) good d1)
    if (d.cfg.diesOf p).any (fun D => decide ((portsIn d2 D 1).length < 6)) then bootStop p 7 d2 else setStage p 5 d2

def execInitialTraining (p : Pkg) (res : List (PortId × TrainRes)) (s : State) : Host.Outcome State Fault Refusal :=
  onDev s (training p (res.map (fun e => (e.1, e.2))))

/-- Boot step 8: every row of every active port is written with zeros (R307), check rows and remap targets included, so that no line is
poisoned. -/
def fill (p : Nat) (d : Dev) : Dev :=
  if stage d p ≠ 5 then d
  else
    let port (k : Nat) (d : Dev) : Dev :=
      setFld (portDie k) (Reg.PORT_STATUS (portNum k)) Fl.PORT_STATUS_STATE 2
        (setFlg (portDie k) (Reg.SCRUB_STATUS (portNum k)) Fl.SCRUB_STATUS_FILLED true
          (updPort k (fun x => { x with allPoison := false, written := [], ccache := [], openRow := [] }) d))
    let d1 : Dev := { d with mem := memDrop d.mem (p * 2 ^ 40) ((p + 1) * 2 ^ 40)
                             chk := KMap.drop d.chk (fun k => k / 8 * 64 / 2 ^ 40 == p) }
    setStage p 6 (forAll ((d.cfg.diesOf p).flatMap (fun D => portsIn d D 1)) port d1)

def execFill (p : Pkg) (s : State) : Host.Outcome State Fault Refusal := onDev s (fill p)

/-- Boot step 9: the loaded verify pass (R285). A port that falls back runs at the next lower rate; one that cannot train at 20 Gb/s is
failed, and with the spare in its place the package fills again (log entry 27). -/
def verify (p : Nat) (res : List (Nat × VerifyRes)) (d : Dev) : Dev :=
  if stage d p ≠ 6 then d
  else
    let act := (d.cfg.diesOf p).flatMap (fun D => portsIn d D 2)
    let of (k : Nat) : VerifyRes := match res.find? (fun e => e.1 == k) with | some e => e.2 | none => .passed
    let ready (k : Nat) (d : Dev) : Dev := raisePort k 0 (setFld (portDie k) (Reg.PORT_STATUS (portNum k)) Fl.PORT_STATUS_STATE 3 d)
    let one (k : Nat) (d : Dev) : Dev :=
      let st := Reg.PORT_STATUS (portNum k)
      match of k with
      | .passed => ready k (setFlg (portDie k) st Fl.PORT_STATUS_LOADED_TRAINED true d)
      | .fallback r => ready k (record (portDie k) { ErrRec.mk' 0 0x07 (portNum k) 0x1D with info1 := r.val }
          (oppSet (portDie k) (88 + portNum k) (portOpp r.val) (setFlg (portDie k) st Fl.PORT_STATUS_RATE_DOWN true
            (setFld (portDie k) st Fl.PORT_STATUS_RATE_NOW r.val d))))
      | .failed => portLost k true d
    let again (k : Nat) (d : Dev) : Dev :=
      if portState d k = 2 ∨ portState d k = 3 then setFld (portDie k) (Reg.PORT_STATUS (portNum k)) Fl.PORT_STATUS_STATE 1 d else d
    let d1 := forAll act one d
    if (d.cfg.diesOf p).all (fun D => (portsIn d1 D 3).length == 6) then setStage p 7 d1
    else if (d.cfg.diesOf p).any (fun D => decide ((portsIn d1 D 3).length + (portsIn d1 D 1).length < 6)) then bootStop p 7 d1
    else setStage p 5 (forAll act again d1)

def execLoadedVerify (p : Pkg) (res : List (PortId × VerifyRes)) (s : State) : Host.Outcome State Fault Refusal :=
  onDev s (verify p (res.map (fun e => (e.1, e.2))))

/-! ### Steps 10 and 11 (R460, R461) -/

/-- Put bytes into DRAM from an address on, with valid check bytes. -/
def dramPut (pa : Nat) (l : List Byte) (d : Dev) : Dev :=
  let lines := (List.range ((pa % 64 + l.length + 63) / 64)).map (fun i => pa / 64 * 64 + i * 64)
  let line (la : Nat) (d : Dev) : Dev :=
    storeLine la false ((List.range 64).map (fun i =>
      if pa ≤ la + i ∧ la + i < pa + l.length then l.getD (la + i - pa) 0 else memByte d (la + i))) d
  forAll lines line d

/-- The system Crown verifies the monitor image and copies it to DRAM of the master package; whether it was accepted. -/
def monitorLoad (d : Dev) : Dev × Bool :=
  let m := d.cfg.master
  match acceptedImage d m 2 with
  | some (s, l) => (dramPut (m * 2 ^ 40 + imgLoad l) (imgPayload l) (imageUse m 2 s l d), true)
  | none => (bootStop m 8 d, false)

/-- Boot step 10, once every package has passed steps 6 and 9. -/
def monitorCopy (d : Dev) : Dev :=
  if !(packages d).all (fun p => stage d p == 7 && (pkgSt d p).confirmed) || (packages d).isEmpty then d
  else
    let r := monitorLoad d
    if r.2 then forAll (packages d) (fun p => setStage p 8) r.1 else r.1

def execMonitorCopy (s : State) : Host.Outcome State Fault Refusal := onDev s monitorCopy

/-- Region 0 of every firewall of a die admits partition 0 of the secure world, to all addresses (R328). -/
def firewallsOpen (D : Nat) (d : Dev) : Dev :=
  forAll (List.range 45) (fun f d => wr D (Reg.FW_MASK f 0) 1#64 (setFld D (Reg.FW_LIMIT f 0) Fl.FW_LIMIT_LIMIT 0x7FFFFFF
    (wr D (Reg.FW_CFG f 0) 7#64 d))) d

/-- The queue table of a die, at the top of its package's usable DRAM (place DESIGN CHOICE, log entry 21). -/
def tableUp (D : Nat) (d : Dev) : Dev :=
  let p := D / 8
  let base := p * 2 ^ 40 + usableLen d p - (d.cfg.ndie p - D % 8) * 2 ^ 19
  wr D Reg.QTAB (setF Fl.QTAB_BASE (base / 2 ^ 19) 1#64) d

/-- The descriptor of a log queue (R439): packed, not framed, of the secure world, with NOTIFY_EN, owner and consumer 0. -/
def logQueue (d : Dev) (p place : Nat) : QueueSt :=
  let base := (p * 2 ^ 40 + usableLen d p) / 2 ^ 22 * 2 ^ 22 - 2 ^ 22 - place * 2 ^ 16
  { imageQueue 0 with packed := true, notify := true, ringLg := 10, ringBase := base, pushMask := 1#64, popMask := 1#64 }

/-- The error-log queue and the Crown event-log queue of a package exist, and its error banks push to the first. -/
def logsUp (p : Nat) (d : Dev) : Dev :=
  let mk (q place : Nat) (d : Dev) : Dev := if (queueAt d q).isSome then d else qCreate q (logQueue d p place) d
  let d1 := mk (evtQueue p) 2 (mk (errQueue p) 1 d)
  forAll (d.cfg.diesOf p) (fun D => wr D Reg.LOG_CTL (BitVec.ofNat 64 (errQueue p + 2 ^ 18))) d1

/-- A follower is stepped forward to the system reference (R357). -/
def timeStep (D : Nat) (d : Dev) : Dev :=
  let d1 := if nowOf d D < nowOf d (refDie d) then wr D Reg.TIM_NOW (rg d (refDie d) Reg.TIM_NOW) d else d
  setFlg D Reg.TIM_QUALITY Fl.TIM_QUALITY_SYNCED true (updDie D (fun x => { x with slew := 0 }) d1)

/-- An accepted image with COMMIT_SVN raises the fused count of its type after a complete boot (R423). -/
def fuseSvn (p typ : Nat) (d : Dev) : Dev :=
  match KMap.look none (pkgSt d p).fw typ, acceptedImage d p typ with
  | some _, some (_, l) =>
    if imgCommits l then updPkg p (fun x => { x with fuses := KMap.put 0 x.fuses typ (max (KMap.look 0 x.fuses typ) (imgSvn l)) }) d else d
  | _, _ => d

/-- Whether every active port of a package may serve the released monitor (R461). -/
def portsFit (d : Dev) (p : Nat) : Bool :=
  (d.cfg.diesOf p).all (fun D => ((List.range 6).map (physPort d D)).all (fun k =>
    flg d (portDie k) (Reg.SCRUB_STATUS (portNum k)) Fl.SCRUB_STATUS_FILLED
      && (flg d (portDie k) (Reg.PORT_STATUS (portNum k)) Fl.PORT_STATUS_LOADED_TRAINED
        || flg d (portDie k) (Reg.PORT_STATUS (portNum k)) Fl.PORT_STATUS_RATE_DOWN)))

/-- The system Crown releases the monitor (R461): what R461 demands of the map, firewalls, tables, logs and time bases comes about, and
logical core 0 of the master die of the master package starts at the image's ENTRY. -/
def releaseAll (d : Dev) : Dev :=
  let m := d.cfg.master
  let one (p : Nat) (d : Dev) : Dev :=
    let d1 := forAll (d.cfg.diesOf p) (fun D d => tableUp D (firewallsOpen D (timeStep D d))) d
    let d2 := forAll [1, 2, 3] (fuseSvn p) (logsUp p d1)
    let shut (D : Nat) (d : Dev) : Dev := forAll ((List.range 66).drop 1) (flrEnd D) d
    forAll (d.cfg.diesOf p) shut (updPkg p (fun x => { x with releaseAt := nowOf d2 (crownDie d2 p), warm := false })
      (bootFld p Fl.BOOT_STATUS_RELEASED 1 (setStage p 9 d2)))
  let entry := match acceptedImage d m 2 with | some (_, l) => m * 2 ^ 40 + imgEntry l | none => 0
  let d1 := forAll (packages d) one d
  let c := monitorCore d1
  startCore c (setFld (coreDie c) (Reg.PWR_ENTRY (coreLog c)) Fl.PWR_ENTRY_ADDR (entry / 4) d1)

/-- Boot step 11. -/
def release (d : Dev) : Dev :=
  if (packages d).all (fun p => stage d p == 8 && portsFit d p && (d.cfg.diesOf p).all (mapLocked d)) && !(packages d).isEmpty
  then releaseAll d else d

def execRelease (s : State) : Host.Outcome State Fault Refusal := onDev s release

/-! ### PWROK (R459) -/

/-- The domains of a die but the Crown's are off, and what step 5 and later steps set up is gone. -/
def dieDark (D : Nat) (d : Dev) : Dev :=
  let d1 := forAll (List.range 100) (fun i => domSet D i 2) (linkSet D false d)
  let br (b : Nat) (d : Dev) : Dev := wr D (Reg.BRG_STATUS b) 0 (updBrg D b (fun _ => BrgSt.init) d)
  let pt (n : Nat) (d : Dev) : Dev :=
    updPort (D * 7 + n) (fun _ => PortSt.init) (setFlg D (Reg.SCRUB_STATUS n) Fl.SCRUB_STATUS_FILLED false (wr D (Reg.PORT_STATUS n) 0 d))
  wr D Reg.MEMPORT (regReset Reg.MEMPORT) (wr D Reg.REIN_STATUS 0 (wr D Reg.ROUTE 0
    (forAll (List.range 7) pt (forAll (List.range 3) br d1))))

/-- PWROK has been deasserted for 20 µs: Reserve mode after release, a return to stage 0x2 between stage 0x3 and release. A boot stop
stays. -/
def pwrokLost (p : Nat) (d0 : Dev) : Dev :=
  let d := updPkg p (fun x => { x with pwrok := false }) d0
  let st := stage d p
  if st = 9 ∨ st = 0xB then reserveAll p 1 d
  else if 3 ≤ st ∧ st ≤ 8 then
    setStage p 2 (updPkg p (fun x => { x with confirmed := false }) (forAll (d.cfg.diesOf p) dieDark (netLose p d)))
  else d

def execPwrokAssert (p : Pkg) (s : State) : Host.Outcome State Fault Refusal :=
  onDev s (updPkg p (fun x => { x with pwrok := true }))
def execPwrokDeassert (p : Pkg) (s : State) : Host.Outcome State Fault Refusal := onDev s (pwrokLost p)

/-! ### Warm reset (R465, R466, R468, R469) -/

/-- The registers of a die that a warm reset keeps, by offset and with the bits kept: the table of R465, what the sampled straps and
the Crown's firmware hold, the settings that the kept DRAM contents depend on, and the reins' assignment (log entry 28). -/
def warmKeeps (off : Nat) (w : Word) : Word :=
  let o := off % 0x100000
  if off < 0x100000 ∨ off = Reg.MEMMAP ∨ off = Reg.MEMPORT ∨ off = Reg.CODE_CONV ∨ off = Reg.TIM_NOW ∨ off = Reg.TIM_QUALITY
      ∨ off = Reg.TILEMAP_GEN ∨ off = Reg.SUCC ∨ off = Reg.PHASE_STATUS ∨ off = Reg.HSP_MODE ∨ off = Reg.ROUTE ∨ off = Reg.REIN_STATUS
      ∨ off = Reg.KPR_STATUS ∨ off = Reg.RAS_RESTITCH ∨ off = Reg.RAS_HOLD ∨ off = Reg.LOG_CTL ∨ off = Reg.DBG_STATUS
      ∨ off = Reg.FN_STATUS 0 ∨ inArr (Reg.CODE_REG 0) 64 off = true ∨ inArr (Reg.LSLICE 0) 42 off = true then w
  else if inArr (Reg.LCORE 0) 40 off then setB Fl.LCORE_CHECKER false w
  else if inArr (Reg.LNK_STATUS 0) 194 off then w &&& Fld.mask Fl.LNK_STATUS_SPARE_USED
  else if 0x1000000 ≤ off ∧ off < 0x1700000 ∧ (o < 0x40 ∨ o = 0xC8 ∨ o = 0xD0 ∨ inArr 0x1000 256 o = true) then w
  else regReset off

/-- Part 2 of a warm reset: the registers of a package. -/
def warmRegs (p : Nat) (d : Dev) : Dev :=
  forAll (d.regs.filter (fun e => e.1 / 0x100000000 / 8 == p)) (fun e d =>
    let D := e.1 / 0x100000000
    let off := e.1 % 0x100000000
    let v := warmKeeps off e.2
    wr D off (if v = regReset off then regInit D off else v) d) d

/-- PF1 and every VF of an endpoint are shut down as by an FLR, PF0 and the link stay; a root port asserts PERST_N. -/
def warmHsp (D : Nat) (d : Dev) : Dev :=
  if hspRoot d D then rootRst D true d
  else if hspEnd d D then
    let d1 := hspReset D (fun f => f != 0) d
    let busy (f : Nat) (d : Dev) : Dev := setFnFlg D f Fl.FN_STATUS_FLR_BUSY true d
    updHsp D (fun x => { x with live := [], commits := [] }) (forAll ((List.range 66).drop 1) busy d1)
  else d

/-- Part 2 of a warm reset: the units of a package. -/
def warmUnits (p : Nat) (d : Dev) : Dev :=
  let log (q : Nat) : Bool := q == errQueue p
  let die (y : DieSt) : DieSt :=
    { DieSt.init with nowFrac := y.nowFrac, slew := y.slew, slewAge := y.slewAge, hold := y.hold, holdDropped := y.holdDropped,
                      vinBad := y.vinBad, hbAt := y.hbAt, vinOk := y.vinOk, badCore := y.badCore, badSlice := y.badSlice,
                      restitched := y.restitched, crownDown := y.crownDown }
  let d1 : Dev := { d with
    homes := KMap.drop d.homes (fun g => sliceDie g / 8 == p)
    caches := KMap.drop d.caches (fun c => corePkg c == p)
    cifs := KMap.drop d.cifs (fun c => corePkg (c / 2) == p)
    cores := KMap.drop d.cores (fun c => corePkg c == p)
    doms := KMap.drop d.doms (fun k => k / 128 / 8 == p)
    queues := KMap.drop d.queues (fun q => q / 2 ^ 16 == p && !log q)
    qengs := KMap.drop d.qengs (fun c => corePkg c == p)
    lnks := KMap.drop d.lnks (fun k => k / 256 / 8 == p)
    brgs := KMap.drop d.brgs (fun k => k / 3 / 8 == p)
    reins := KMap.drop d.reins (fun D => D / 8 == p) }
  forAll (pkgPorts d p) (fun k => updPort k (fun x => { PortSt.init with allPoison := x.allPoison, written := x.written }))
    (forAll (d.cfg.diesOf p) (fun D => updDie D die) d1)

/-- A package carries out parts 1 and 2 of a warm reset; `cause` 3 where it was requested, 4 elsewhere. -/
def warmStart (p cause : Nat) (d : Dev) : Dev :=
  let d1 := forAll (pkgPorts d p) portRest (pkgFlush p true (coresStop p (capWrite p 64 d)))
  let d2 := warmUnits p (warmRegs p (forAll (d.cfg.diesOf p) warmHsp d1))
  let d3 := wr (p * 8) Reg.PKG_LIMIT (limitReset (d.cfg.ndie p)) d2
  bootFld p Fl.BOOT_STATUS_RELEASED 0 (bootFld p Fl.BOOT_STATUS_CAUSE cause (setStage p 0xB (updPkg p (fun x => { x with warm := true }) d3)))

/-- Whether a warm reset may start (R466). -/
def warmOk (d : Dev) : Bool :=
  (packages d).all (fun p => stage d p == 9 && !pkgReserve d p && (pkgSt d p).resv.isNone
    && !flg d (p * 8) Reg.RAS_RESERVE Fl.RAS_RESERVE_EXITING)

/-- A write of 1 to CRN.RESET_CTL.WARM: requests during a warm reset merge into it; one during boot, a boot stop or Reserve mode is
refused. -/
def warm (D : Nat) (d : Dev) : Dev :=
  if !d.cfg.present D || (pkgSt d (D / 8)).warm then d
  else if warmOk d then
    let sysw (d : Dev) : Dev :=
      { d with regs := KMap.drop d.regs (fun k => decide (k / 0x100000000 = 0) && decide (0x6040000 ≤ k % 0x100000000)
          && decide (k % 0x100000000 < 0x6041200) && !(k % 0x100000000 == Reg.DBG_STATUS)) }
    sysw (forAll (packages d) (fun p => warmStart p (if p = D / 8 then 3 else 4)) d)
  else setFlg D Reg.BOOT_STATUS Fl.BOOT_STATUS_WARM_REFUSED true d

def execWarm (D : Die) (s : State) : Host.Outcome State Fault Refusal := onDev s (warm D)

/-- Part 3 of a warm reset: steps 5, 6, 7, 9, 10 and 11 of the boot, with no fill. -/
def warmDone (d : Dev) : Dev :=
  if !(packages d).all (fun p => (pkgSt d p).warm) || (packages d).isEmpty then d
  else
    let up (p : Nat) (d : Dev) : Dev := meshUp p (forAll (d.cfg.diesOf p) (fun D d => portsUp D (dieBring D d)) d)
    let r := monitorLoad (forAll (packages d) up d)
    if r.2 then releaseAll r.1 else r.1

def execWarmResetComplete (s : State) : Host.Outcome State Fault Refusal := onDev s warmDone

/-! ### The RTC source and the held event 500 (R479, R433) -/

/-- The Crown decides at VSB power-up which source drives the RTC counter: without an edge within 1 s, the internal oscillator. -/
def rtcDecide (p : Nat) (edge : Bool) (d : Dev) : Dev :=
  if (pkgSt d p).vsb = false then d else forAll (d.cfg.diesOf p) (fun D => setFlg D Reg.RTC_CFG Fl.RTC_CFG_RC (!edge)) d

def execRtc32kSourceDecision (p : Pkg) (edge : Bool) (s : State) : Host.Outcome State Fault Refusal := onDev s (rtcDecide p edge)

/-- The 1 ms limit on event 500 ends: a held event is sent with its MSI-X (R433). -/
def heldEvent (p : Nat) (d : Dev) : Dev :=
  match (pkgSt d p).ev500At with
  | some t => if (pkgSt d p).ev500Held && decide (t + 1000000 ≤ nowOf d (crownDie d p)) then genRaise p d else d
  | none => d

def execCasebackGenerationChanged (p : Pkg) (s : State) : Host.Outcome State Fault Refusal := onDev s (heldEvent p)

/-! ### Lands (R470) -/

/-- The level at a land: high-impedance or released, driven low, driven high. -/
inductive Land where
  | hiZ | low | high
  deriving DecidableEq, Repr

/-- XSPI_CS_N of a die: driven high from step 1 on the flash-driving die; no command of this model leaves a transfer in progress. -/
def landXspiCsN (d : Dev) (D : Nat) : Land := if stage d (D / 8) = 0 ∨ D ≠ flashDie d (D / 8) then .hiZ else .high

/-- MEM_RESET_N of a port: low from step 5, high from the start of its training. -/
def landMemResetN (d : Dev) (k : Nat) : Land :=
  let D := portDie k
  if domState d D 99 = 2 ∧ portState d k = 0 then .hiZ else if portState d k = 0 then .low else .high

/-- PERST_N of a root port: low from the end of step 5 while ASSERT is 1. -/
def landPerstN (d : Dev) (D : Nat) : Land :=
  if !hspRoot d D || decide (stage d (D / 8) < 3) then .hiZ else if flg d D Reg.ROOT_RST Fl.ROOT_RST_ASSERT then .low else .high

/-- The open-drain lands of a package: THERMTRIP_N, FAULT_N, ALERT_N, WAKE_N. -/
def landThermtripN (d : Dev) (p : Nat) : Land := if (pkgSt d p).thermtrip then .low else .hiZ
def landFaultN (d : Dev) (p : Nat) : Land := if faultN d p then .low else .hiZ
def landAlertN (d : Dev) (p : Nat) : Land := if (pkgSt d p).alert then .low else .hiZ
def landWakeN (d : Dev) (p : Nat) : Land := if (d.cfg.diesOf p).any (fun D => (hspSt d D).wakeN) then .low else .hiZ

end Sys2Proof.Machine
end

