-- ==== Sys2Proof/Machine/RegAccess.lean ====
section
/-! DEFINITION. Reads and writes of register space (R11 to R15, R26, R29): which requester a register admits (R329 and the exceptions of
R253, R355, R356, R377, R384, R410), what a read returns, and what a write does, the registers with an effect of their own
among them. A chapter that does not say who may access its registers is read as R329 (log entry 29). -/

namespace Sys2Proof.Machine

/-- What a read of register space gives: a value, an access fault, or poisoned data (the Crown SRAM's firewall, R326). -/
inductive RegRes where
  | val (v : Word)
  | fault
  | poison
  deriving DecidableEq, Repr

/-- The index of an array's element that an offset names. -/
def arrIx (base stride n off : Nat) : Option Nat :=
  if base ≤ off ∧ (off - base) % stride = 0 ∧ (off - base) / stride < n then some ((off - base) / stride) else none

/-! ### Who may access a register -/

/-- The function whose partition also admits an access to a register of the HSP block (R410). -/
def hspPartner (d : Dev) (D off : Nat) (write : Bool) : Option Nat :=
  if 0x620000 ≤ off ∧ off ≤ 0x620208 then some 1
  else if write = true ∧ (arrIx (Reg.FN_MSIX_SEND 0) 0x20 66 off).isSome then arrIx (Reg.FN_MSIX_SEND 0) 0x20 66 off
  else match (if write then arrIx (Reg.DB_MAP 0) 8 1280 off else none) with
    | some n => some (if n < 256 then 1 else 2 + (n - 256) / 16)
    | none =>
      match arrIx (Reg.DMA_CTL 0) 0x80 16 off, arrIx (Reg.DMA_STATUS 0) 0x80 16 off with
      | some c, _ => some (fld d D (Reg.DMA_CFG c) Fl.DMA_CFG_FN)
      | _, some c => some (fld d D (Reg.DMA_CFG c) Fl.DMA_CFG_FN)
      | none, none => none

/-- Whether a function's partition, in its world, is the requester (R410). -/
def fnIs (d : Dev) (D f : Nat) (who : Who) : Bool :=
  decide (f < 66) && fnFld' d D f Fl.FN_CFG_PART == who.part.toNat && (fnFld' d D f Fl.FN_CFG_NS == 1) == who.ns
where
  /-- A field of HSP.FN_CFG. -/
  fnFld' (d : Dev) (D f : Nat) (x : Fld) : Nat := fld d D (Reg.FN_CFG f) x

/-- Whether a register admits a requester (R329 and its exceptions). -/
def regAdmits (d : Dev) (D off : Nat) (write : Bool) (who : Who) : Bool :=
  let nsReq := who.ns && fld d D Reg.HYP_PART Fl.HYP_PART_NS_HYP == who.part.toNat
  if off = Reg.NS_DOMREQ ∨ off = Reg.NS_DOMRES then nsReq || (!write && who == Who.platform)
  else if who = Who.platform then true
  else if off = Reg.TIM_NOW ∨ off = Reg.TIM_QUALITY ∨ (0x401000 ≤ off ∧ off ≤ Reg.TILEMAP_GEN) then !write
  else match arrIx (Reg.RUNCTL 0) 0x10 40 off with
    | some c => runParty d (D * 40 + c) who
    | none => match hspPartner d D off write with
      | some f => fnIs d D f who
      | none => false

/-! ### Fields that follow the machine -/

/-- ROLE of TIL.CORE_STATUS: 0 active, 1 spare, 2 retired, 3 checker of a pair. -/
def coreRole (d : Dev) (D t : Nat) : Nat :=
  if (dieSt d D).badCore.contains t then 2
  else match tileCore d D t with
    | some c => if flg d D (Reg.LCORE (coreLog c)) Fl.LCORE_CHECKER then 3 else 0
    | none => 1

/-- TIL.CORE_STATUS (R161). -/
def coreStatusWord (d : Dev) (D t : Nat) : Word :=
  match tileCore d D t with
  | some c =>
    let p := (partId d c).toNat
    BitVec.ofNat 64 (coreRole d D t + b2n (coreSt d c).run * 4 + b2n (isSealed d p) * 8 + p * 16)
  | none => BitVec.ofNat 64 (coreRole d D t)

/-- SLICE.STATUS (R189): ROLE, LOGICAL and PWR beside what the register stores. -/
def sliceStatusWord (d : Dev) (D t : Nat) : Word :=
  let role := if (dieSt d D).badSlice.contains t then 2 else if (tileSlice d D t).isSome then 0 else 1
  let log := match tileSlice d D t with | some g => sliceLog g | none => 0
  let pwr := match domState d D (44 + t) with | 1 => 1 | 2 => 2 | 6 => 2 | 5 => 3 | _ => 0
  setF Fl.SLICE_STATUS_PWR pwr (setF Fl.SLICE_STATUS_LOGICAL log (setF Fl.SLICE_STATUS_ROLE role (rg d D (Reg.SLICE_STATUS t))))

/-- QENG.STATUS (R243): the slots in use, those in use as head engine, whether a queue instruction of the tile waits, and whether it
waits for a slot. -/
def qengStatusWord (d : Dev) (D t : Nat) : Word :=
  match tileCore d D t with
  | none => 0
  | some c =>
    let l := (qEng d c).slots
    let head (q : Nat) : Bool := match queueAt d q with | some s => headCore q s == c | none => false
    let w := (coreSt d c).qwait
    BitVec.ofNat 64 (min l.length 63 + min (l.filter head).length 63 * 64 + b2n w.isSome * 2 ^ 12
      + b2n (match w with | some x => x.slot | none => false) * 2 ^ 13)

/-- EVC.PEND: the PENDING bits of local events 64j to 64j + 63 (R355). -/
def pendWord (d : Dev) (D j : Nat) : Word :=
  (List.range 64).foldl (fun w i =>
    if 64 * j + i < 511 ∧ flg d D (Reg.EVC_ROUTE (64 * j + i)) Fl.EVC_ROUTE_PENDING = true then w ||| BitVec.ofNat 64 (2 ^ i) else w) 0#64

/-- A register's current value, before the bits that do not read are cleared. -/
def regView (d : Dev) (D off : Nat) : Word :=
  let w := rg d D off
  match arrIx (Reg.EVC_PEND 0) 8 8 off with
  | some j => pendWord d D j
  | none => match arrIx (Reg.RUNCTL 0) 0x10 40 off with
  | some c => setB ⟨2, 2⟩ (coreSt d (D * 40 + c)).run (setB ⟨3, 3⟩ (coreSt d (D * 40 + c)).kept w)
  | none => match arrIx (Reg.DOM_STATUS 0) 8 101 off with
  | some i => setF Fl.DOM_STATUS_VNOW (voltNow d D i) (setB Fl.DOM_STATUS_HELD (domSt d D i).held.isSome w)
  | none => match arrIx (Reg.CORE_STATUS 0) 0x40000 44 off with
  | some t => coreStatusWord d D t
  | none => match arrIx (Reg.SLICE_STATUS 0) 0x40000 44 off with
  | some t => sliceStatusWord d D t
  | none => match arrIx (Reg.QENG_STATUS 0) 0x40000 44 off with
  | some t => qengStatusWord d D t
  | none => match arrIx (Reg.COH_STATUS 0) 0x40000 44 off with
  | some _ => setB Fl.COH_STATUS_COMPAT_EFF (flg d D Reg.COH_CTL Fl.COH_CTL_COMPAT) w
  | none => match arrIx (Reg.PORT_STATUS 0) 0x100000 7 off with
  | some n => setF Fl.PORT_STATUS_SLOTS (min (portSt d (D * 7 + n)).slots.length 1023) w
  | none => match arrIx (Reg.RD_STAT 0) 0x100000 7 off with
  | some n => setF Fl.RD_STAT_ACTIVE (min (portSt d (D * 7 + n)).throttles.length 31) w
  | none => match arrIx (Reg.TRACK_STAT 0) 0x100000 7 off with
  | some n => setF Fl.TRACK_STAT_IN_USE (min (portSt d (D * 7 + n)).track.length 511) w
  | none =>
    if off = Reg.RAS_HOLD then setF Fl.RAS_HOLD_HELD (dieSt d D).hold.length w
    else if Reg.FW_CFG 0 0 ≤ off ∧ off < Reg.FW_CFG 45 0 ∧ off % 0x1000 < 0x400 ∧ off % 0x20 = 0 then
      setB Fl.FW_CFG_LOCKED (regionLocked d D ((off - Reg.FW_CFG 0 0) / 0x1000) (off % 0x1000 / 0x20)) w
    else w

/-! ### Reads -/

/-- Whether an access by a core to an offset is to the core's own self windows (R355): the core and the group. -/
def selfWindow (src : Option Nat) (D off : Nat) : Option (Nat × Bool) :=
  match src with
  | some c => if coreDie c = D then (if off / 0x1000 = 0x10F then some (c, true) else if off / 0x1000 = 0x10E then some (c, false) else none)
      else none
  | none => none

/-- A read of a core interface register. -/
def cifRead (c : Nat) (ns : Bool) (off : Nat) (d : Dev) : Dev × Word :=
  match off with
  | 0x00 => (cifTake c ns d, cifTakeValue d c ns)
  | 0x10 => (d, cifState d c ns)
  | 0x20 => (d, (cifSt d c ns).tcmp)
  | 0x28 => (d, (cifSt d c ns).cfg)
  | _ => (d, 0#64)

/-- A write of a core interface register. -/
def cifWrite (c : Nat) (ns : Bool) (off : Nat) (v : Word) (d : Dev) : Dev :=
  match off with
  | 0x08 => cifFinish c ns v d
  | 0x10 => cifStateWrite c ns v d
  | 0x18 => coreRaise c ns v d
  | 0x20 => cifTcmp c ns v d
  | 0x28 => cifCfg c ns v d
  | _ => d

/-- Registers of the CRN mailbox and the last CASEBACK record (R425, R432), as they read. -/
def crnMbxRead (d : Dev) (D off : Nat) : Word :=
  let x := mbxSt d D .crn
  if off = 8 then x.status
  else if 0x40 ≤ off ∧ off < 0x80 then KMap.look 0 x.args ((off - 0x40) / 8)
  else if 0x80 ≤ off ∧ off < 0xC0 then KMap.look 0 x.resp ((off - 0x80) / 8)
  else if 0x1000 ≤ off ∧ off < 0x2000 then BitVec.ofNat 64 (ofBytes ((x.buf.drop (off - 0x1000)).take 8))
  else 0

/-- Whether an offset is in the mesh's view of the Crown's SRAM (R413). -/
def crownSramAt (off : Nat) : Bool := decide (0x80000 ≤ off) && decide (off < 0xC0000)

/-- The physical address of an offset of a die's register space (R23). -/
def regPa (D off : Nat) : Nat := 0xF00000000000 + D / 8 * 2 ^ 36 + D % 8 * 2 ^ 32 + off

/-- A read of the 64-bit word at an aligned offset of a die's register space, by core `src` if a core makes it. -/
def regRead (src : Option Nat) (D off : Nat) (who : Who) (d : Dev) : Dev × RegRes :=
  if !d.cfg.present D || !blockAt off then (d, .fault)
  else if off / 0x1000 = 0x10E ∨ off / 0x1000 = 0x10F then
    match selfWindow src D off with
    | some (c, ns) =>
      if !ns && who.ns then (d, .fault) else let r := cifRead c ns (off % 0x1000) d; (r.1, .val r.2)
    | none => (d, .fault)
  else if crownSramAt off then
    if fwAdmits d D 43 who .r (regPa D off) then
      (d, .val (BitVec.ofNat 64 (ofBytes ((List.range 8).map (fun i => KMap.look 0 (crnSt d D).sram (off - 0x80000 + i))))))
    else (fwRefuse D 43 who false (if src.isSome then .core else .other) (regPa D off) 507 d, .poison)
  else if !regAdmits d D off false who then (d, .fault)
  else if off < 0x2000 then (d, .val (crnMbxRead d D off))
  else match regRow? off with
    | some r => (d, .val (regView d D off &&& r.maskOf (fun a => a != .wo && a != .rsvd)))
    | none => (d, if 0x6000000 ≤ off ∧ off < 0x7000000 then .fault else .val 0)

/-! ### Writes -/

/-- The value of a register after a write of `v` over `old` where the access codes alone decide (R12, R13, R15). -/
def accWrite (r : RegRow) (old v : Word) : Word :=
  let rw := r.maskOf (fun a => a == .rw || a == .rwl)
  let c := r.maskOf (· == .w1c)
  let s := r.maskOf (· == .w1s)
  ((old &&& ~~~ rw) ||| (v &&& rw)) &&& ~~~ (v &&& c) ||| (v &&& s)

/-- A write with no effect beside its fields. -/
def plainWrite (D off : Nat) (v : Word) (d : Dev) : Dev :=
  match regRow? off with
  | some r => wr D off (accWrite r (rg d D off) v) d
  | none => d

/-- A write that leaves a field as it is. -/
def writeBut (f : Fld) (D off : Nat) (v : Word) (d : Dev) : Dev := plainWrite D off (setF f (fld d D off f) v) d

/-- A register of PART and EN that a sealed partition locks (R338): MSH.HOME_REG, ISO.CORE_OWN, ISO.SLICE_OWN. -/
def ownWrite (D off : Nat) (v : Word) (d : Dev) : Dev :=
  let w := rg d D off
  if bitOf w 6 && isSealed d (bitsOf w 5 0) then d else plainWrite D off v d

/-- A write of PWR.PACE_CTL: FLOOR is locked on a core that a sealed partition owns (R338). -/
def paceWrite (D t : Nat) (v : Word) (d : Dev) : Dev :=
  let locked := match tileCore d D t with | some c => coreSealed d c | none => false
  if locked then writeBut Fl.PACE_CTL_FLOOR D (Reg.PACE_CTL t) v d else plainWrite D (Reg.PACE_CTL t) v d

/-- A write of PORT.CFG: with the map locked only INT_CLASS (R272). -/
def portCfgWrite (D n : Nat) (v : Word) (d : Dev) : Dev :=
  if mapLocked d D then setFld D (Reg.PORT_CFG n) Fl.PORT_CFG_INT_CLASS (getF Fl.PORT_CFG_INT_CLASS v) d
  else plainWrite D (Reg.PORT_CFG n) v d

/-- A write of HSP.FN_CFG (R388, R403): EN reads 0 for PF0; PME_REQ requests a PME. -/
def fnCfgWrite (D f : Nat) (v : Word) (d : Dev) : Dev :=
  let d1 := plainWrite D (Reg.FN_CFG f) (if f = 0 then setF Fl.FN_CFG_EN 0 v else v) d
  if getB Fl.FN_CFG_PME_REQ v then pmeReq D f d1 else d1

/-- A write of HSP.DMA_CFG: no effect while the channel is RUNNING or PAUSED (R410). -/
def dmaCfgWrite (D ch : Nat) (v : Word) (d : Dev) : Dev :=
  let st := fld d D (Reg.DMA_STATUS ch) Fl.DMA_STATUS_STATE
  if st = 1 ∨ st = 2 then d else plainWrite D (Reg.DMA_CFG ch) v d

/-- A write of a slice register with an effect, for a tile whose array serves a logical slice; on another tile only the fields. -/
def onSlice (D t off : Nat) (f : Nat → Word → Dev → Dev) (v : Word) (d : Dev) : Dev :=
  match tileSlice d D t with | some g => f g v d | none => plainWrite D off v d

/-- Registers of the MSH block and below. -/
def writeLow (D off : Nat) (v : Word) (who : Who) (d : Dev) : Dev :=
  if off < 0x1000 then mbxRegWrite D .crn off 8 v.toNat d
  else if off = Reg.RESET_CTL then (if getB Fl.RESET_CTL_WARM v then warm D d else d)
  else if off = Reg.TIM_ADJ then adjWrite D v d
  else if off = Reg.REF_CFG then incrWrite D v d
  else if off = Reg.THERM_CTL then thermCtl D v d
  else if off = Reg.NS_DOMREQ then domNormal D (getF Fl.NS_DOMREQ_DOM v) (getF Fl.NS_DOMREQ_REQ v) d
  else if off = Reg.MEMMAP then (if mapLocked d D then d else plainWrite D off v d)
  else if off = Reg.ARBREC_CTL then
    arbWrite D (if getF Fl.ARBREC_CTL_MODE v = 3 then 0 else getF Fl.ARBREC_CTL_MODE v) v d
  else match arrIx (Reg.EVC_ROUTE 0) 8 511 off with
  | some n => routeWriteWake D n v d
  | none => match arrIx (Reg.DOM_CTL 0) 8 101 off with
  | some i => domCtlWrite D i v d
  | none => match arrIx (Reg.RUNCTL 0) 0x10 40 off with
  | some c => runCtl D c (getF Fl.RUNCTL_CMD v) (getB Fl.RUNCTL_WAKE_EV v) who d
  | none => match arrIx (Reg.PACE_CTL 0) 0x10 44 off with
  | some t => paceWrite D t v d
  | none => match arrIx (Reg.BWRES 0) 8 64 off with
  | some p => bwresWrite D p v d
  | none => match arrIx (Reg.CODE_REG 0) 8 64 off with
  | some _ => if mapLocked d D then d else plainWrite D off v d
  | none => match arrIx (Reg.HOME_REG 0) 8 64 off with
  | some _ => ownWrite D off v d
  | none => plainWrite D off v d

/-- Registers of the HSP block. -/
def writeHsp (D off : Nat) (v : Word) (d : Dev) : Dev :=
  if off = Reg.ROOT_RST then rootRst D (getB Fl.ROOT_RST_ASSERT v) d
  else if off = Reg.WIN_COMMIT then (if getB Fl.WIN_COMMIT_GO v then winGo D d else d)
  else match arrIx (Reg.FN_CFG 0) 0x20 66 off with
  | some f => fnCfgWrite D f v d
  | none => match arrIx (Reg.FN_MSIX_SEND 0) 0x20 66 off with
  | some f => msixReq D f (getF Fl.FN_MSIX_SEND_VEC v) d
  | none => match arrIx (Reg.DMA_CFG 0) 0x80 16 off with
  | some c => dmaCfgWrite D c v d
  | none => match arrIx (Reg.DMA_CTL 0) 0x80 16 off with
  | some c => dmaCtl D c v d
  | none => plainWrite D off v d

/-- Registers of the MCP and TIL blocks. -/
def writeUnit (D off : Nat) (v : Word) (d : Dev) : Dev :=
  match arrIx (Reg.PORT_CFG 0) 0x100000 7 off with
  | some n => portCfgWrite D n v d
  | none =>
    let o := off % 0x100000
    let n := (off - 0x1000000) / 0x100000
    if off < 0x1700000 ∧ 0x10 ≤ o ∧ o < 0x20 ∧ o % 8 = 0 then maskWrite D n ((o - 0x10) / 8) v d
    else if off < 0x1700000 ∧ 0x20 ≤ o ∧ o < 0x40 ∧ o % 8 = 0 then maskWrite D n (2 + (o - 0x20) / 8) v d
    else if off < 0x1700000 ∧ 0x60 ≤ o ∧ o < 0x80 ∧ o % 8 = 0 then resvWrite D n ((o - 0x60) / 8) v d
    else match arrIx (Reg.PAIR_CTL 0) 0x40000 44 off with
    | some t => pairCtl D t v d
    | none => match arrIx (Reg.SPAD_CTL 0) 0x40000 44 off with
    | some t => onSlice D t off spadCtl v d
    | none => match arrIx (Reg.LOCK_CTL 0) 0x40000 44 off with
    | some t => onSlice D t off lockCtl v d
    | none => match arrIx (Reg.SLICE_MAINT 0) 0x40000 44 off with
    | some t => onSlice D t off maintWrite v d
    | none => plainWrite D off v d

/-- Registers of the ISO and RAS blocks. -/
def writeHigh (D off : Nat) (v : Word) (d : Dev) : Dev :=
  if off = Reg.RAS_INJECT then injectWrite D v d
  else if off < Reg.FW_CFG 45 0 ∧ off % 0x1000 < 0x400 ∧ off % 0x20 < 0x18 then
    firewallWrite D ((off - Reg.FW_CFG 0 0) / 0x1000) (off % 0x1000 / 0x20) (off % 0x20 / 8) v d
  else match arrIx (Reg.PART 0) 8 64 off with
  | some p => partCommand p (getF Fl.PART_CMD v) d
  | none => if (arrIx (Reg.CORE_OWN 0) 8 40 off).isSome ∨ (arrIx (Reg.SLICE_OWN 0) 8 42 off).isSome then ownWrite D off v d
    else plainWrite D off v d

/-- A write of the 64-bit word at an aligned offset of a die's register space; whether it takes an access fault. -/
def regWrite (src : Option Nat) (D off : Nat) (v : Word) (who : Who) (d : Dev) : Dev × Bool :=
  if !d.cfg.present D || !blockAt off then (d, true)
  else if off / 0x1000 = 0x10E ∨ off / 0x1000 = 0x10F then
    match selfWindow src D off with
    | some (c, ns) => if !ns && who.ns then (d, true) else (cifWrite c ns (off % 0x1000) v d, false)
    | none => (d, true)
  else if crownSramAt off then
    if fwAdmits d D 43 who .w (regPa D off) then
      (updCrn D (fun x => { x with sram := (List.range 8).foldl (fun m i => KMap.put 0 m (off - 0x80000 + i) (byteOf v.toNat i)) x.sram }) d, false)
    else (fwRefuse D 43 who true (if src.isSome then .core else .other) (regPa D off) 507 d, false)
  else if !regAdmits d D off true who then (d, true)
  else if 0x6000000 ≤ off ∧ off < 0x7000000 ∧ (regRow? off).isNone then (d, true)
  else if off < 0x500000 then (writeLow D off v who d, false)
  else if off < 0x600000 then (plainWrite D off v d, false)
  else if off < 0x700000 then (writeHsp D off v d, false)
  else if off < 0x6000000 then (writeUnit D off v d, false)
  else (writeHigh D off v d, false)

/-- A write of a device register by a requester that is not a core in its own windows (R13, R329): its writable fields change
together; a write to an offset that is not 8-byte aligned is not performed (R11). -/
def registerWrite (D off : Nat) (v : Word) (who : Who) (d : Dev) : Dev :=
  if off % 8 ≠ 0 then d else (regWrite none D off v who d).1

def execRegisterWrite (D : Die) (off : BitVec 32) (v : Word) (by' : Who) (s : State) : Host.Outcome State Fault Refusal :=
  onDev s (registerWrite D off.toNat v by')

end Sys2Proof.Machine
end

