-- ==== Sys2Proof/Machine/Access.lean ====
section
/-! DEFINITION. What a core does with memory at a physical address: loads with store-buffer forwarding, stores through the
store buffer, atomics, and the checks of the address map, of memory types and of the firewalls (R11, R24 to R27, R63 to
R73, R141 to R146, R325, R326). -/

namespace Sys2Proof.Machine

/-- A translated address (R90 to R93): physical address, memory type in force (0 normal cacheable, 1 normal non-cacheable,
2 device), tile-local homing, and the address world. -/
structure Xl where
  pa : Nat
  mt : Nat
  tl : Bool
  ns : Bool
  deriving DecidableEq, Repr

/-- World and partition of a core's access (R311). -/
def xlWho (d : Dev) (c : Nat) (x : Xl) : Who := ⟨accPart d c, x.ns⟩

/-! ### The line of a core's access -/

/-- Ask for something and take the answer; wait while it has not come (R146: accesses to one line share one entry). -/
def coreCall (c : Nat) (m : Msg) : Act Msg := fun d =>
  let k := lineKey m.addr m.who.ns
  match takeResult c k m.op d with
  | some (d1, r) => (d1, .ok r)
  | none =>
    let d1 := run (coreAsk c m d)
    match takeResult c k m.op d1 with
    | some (d2, r) => (d2, .ok r)
    | none => (d1, .wait)

/-- Data and granule poison of a cacheable line, read through L2 into an L1 cache, which `fill` names (R144); a refused or lost read is
wholly poisoned. -/
def coreLineBy (fill : Nat → Nat → Dev → Dev) (c pa : Nat) (who : Who) (tl : Bool) : Act (LineData × BitVec 8) := fun d =>
  let k := lineKey pa who.ns
  match l2Line d c k with
  | some l => (fill c k d, .ok (l.data, l.poison))
  | none =>
    let d1 := run (coreAsk c (Msg.mk' .rdShared (.core c) (coreHomeAgent d c pa tl) 0 (pa / 64 * 64) who) d)
    match l2Line d1 c k with
    | some l => (fill c k d1, .ok (l.data, l.poison))
    | none =>
      match takeResult c k .rdShared d1 with
      | some (d2, r) => (d2, .ok (r.line, if r.poison then 0xFF#8 else 0#8))
      | none => (d1, .wait)

/-- A cacheable line read by a load, through L1D and L2. -/
def coreLine (c pa : Nat) (who : Who) (tl : Bool) : Act (LineData × BitVec 8) := coreLineBy l1dFill c pa who tl

/-! ### Waiting for the store buffer -/

/-- Wait until every entry has left the store buffer (R68, R142). -/
def drainAll (c : Nat) : Act Unit := fun d =>
  let d1 := sbDrainN c (2 * (cacheSt d c).sb.length) d
  if (cacheSt d1 c).sb.isEmpty then (d1, .ok ()) else (d1, .wait)

/-- Whether a store-buffer entry overlaps `n` bytes at a physical address. -/
def SbEnt.overlaps (e : SbEnt) (pa n : Nat) (ns : Bool) : Bool :=
  e.who.ns == ns && decide (e.pa < pa + n) && decide (pa < e.pa + e.size)

/-- Drain until no entry overlaps the bytes, or wait (R141). -/
def drainOver (c pa n : Nat) (ns : Bool) : Act Unit := fun d =>
  if (cacheSt d c).sb.any (fun e => e.overlaps pa n ns) then
    let d1 := sbDrainN c (2 * (cacheSt d c).sb.length) d
    if (cacheSt d1 c).sb.any (fun e => e.overlaps pa n ns) then (d1, .wait) else (d1, .ok ())
  else (d, .ok ())

/-- The value that the store buffer forwards for `n` bytes (R141): of the youngest overlapping entry, if it covers them. -/
def sbForward (d : Dev) (c pa n : Nat) (ns : Bool) : Option Nat :=
  match (cacheSt d c).sb.reverse.find? (fun e => e.overlaps pa n ns) with
  | some e => if e.pa ≤ pa ∧ pa + n ≤ e.pa + e.size then some ((e.data >>> (8 * (pa - e.pa))) % 2 ^ (8 * n)) else none
  | none => none

/-- A retired store enters the store buffer, and its line is asked for (R142); with 128 entries in use it waits. -/
def sbPush (c : Nat) (e : SbEnt) : Act Unit := fun d =>
  let d0 := if (cacheSt d c).sb.length < 128 then d else sbDrainN c 256 d
  if (cacheSt d0 c).sb.length < 128 then
    let hold := b2n (isLeader d0 c)
    let d1 := updCache c (fun x => { x with sb := x.sb ++ [e], sbHeld := x.sbHeld + hold }) d0
    (if e.nc || hold == 1 then d1 else askOwn c e.pa e.who e.tl d1, .ok ())
  else (d0, .wait)

/-! ### Checks -/

/-- Whether `n` bytes at an address are naturally aligned. -/
def aligned (a n : Nat) : Bool := a % n == 0

/-- The checks of the address map and of the memory type that an access of `n` bytes meets, in the order of R89: alignment on
device pages (R64), then access faults (R11, R26, R27). `ea` is the effective address and `va` that of this half. -/
def accessCheck (d : Dev) (x : Xl) (n : Nat) (write : Bool) (ea va : Word) : Option Exn :=
  let code := if write then 0x0C else 0x0B
  let w := b2n write * 2 ^ 12
  let bad : Option Exn := some ⟨code, va, w, none, false⟩
  let badZero : Option Exn := some ⟨code, va, w, none, true⟩
  match regionOf x.pa with
  | .reg D off =>
    if !d.cfg.present D || !blockAt off then badZero
    else if x.mt ≠ 2 then bad
    else if (n ≠ 8 ∨ x.pa % 8 ≠ 0) ∧ write = false then badZero
    else none
  | r =>
    if x.mt = 2 ∧ aligned x.pa n = false then some ⟨0x0D, ea, w, none, false⟩
    else match r with
      | .dram _ _ => if x.mt = 2 then bad else none
      | .spad D _ _ => if !d.cfg.present D then badZero else if x.mt ≠ 1 then bad else none
      | .portWin D _ => if !d.cfg.present D then badZero else if x.mt = 0 then bad else none
      | _ => badZero

/-- A core's own firewall check found a refusal (R325, R326): recorded in firewall 0 of the core's die, event k = 6. -/
def coreRefuse (c pa : Nat) (who : Who) (write : Bool) (d : Dev) : Dev :=
  fwRefuse (coreDie c) 0 who write .core pa (8 * coreLog c + 6) d

/-- The exception of poisoned data (R87). -/
def exPoison (va : Word) : Exn := Exn.of 0x10 va

/-! ### Loads and stores of at most one line -/

/-- Load `n` bytes that lie in one line, after the checks. `fwd` is whether the store buffer may forward (R127: not to vector
loads). -/
def loadPart (c : Nat) (x : Xl) (n : Nat) (va : Word) (fwd : Bool) : Act Nat := fun d =>
  let who := xlWho d c x
  let pa := x.pa
  match regionOf pa with
  | .dram _ _ =>
    if !dramAdmits d who .r pa then (coreRefuse c pa who false d, .exn (exPoison va))
    else
      match (if fwd then sbForward d c pa n x.ns else none) with
      | some v => (d, .ok v)
      | none => (drainOver c pa n x.ns).bnd (fun _ =>
          if x.mt = 0 then
            (coreLine c pa who x.tl).bnd fun l =>
              if poisonRead l.2 (pa % 64) n then Act.raise (exPoison va) else Act.ret (lineGet l.1 (pa % 64) n)
          else fun d =>
            let v := lineValue d (pa / 64 * 64)
            (dramRead (pa / 64 * 64) who d, if v.2 then .exn (exPoison va) else .ok (lineGet v.1 (pa % 64) n))) d
  | .spad D s off =>
    (drainOver c pa n x.ns).bnd (fun _ => fun d =>
      if spadAdmits d D s off n who .r pa then
        let l := spadLine d (sliceArray d (D * 42 + s)) (off / 64)
        (d, if l.2 then .exn (exPoison va) else .ok (lineGet l.1 (off % 64) n))
      else (spadRefuse D s who false .core pa d, .exn (exPoison va))) d
  | .reg D off =>
    match regRead (some c) D off who d with
    | (d1, .val v) => (d1, .ok v.toNat)
    | (d1, .fault) => (d1, .exn ⟨0x0B, va, 0, none, true⟩)
    | (d1, .poison) => (d1, .exn (exPoison va))
  | .portWin D off =>
    match winRead c D off n d with
    | (d1, some (some (v, false))) => (d1, .ok v)
    | (d1, some (some (_, true))) => (d1, .exn (exPoison va))
    | (d1, some none) => (d1, .exn ⟨0x0B, va, 0, none, decide (2 ≤ hspMode d D)⟩)
    | (d1, none) => (d1, .wait)
  | .unmapped => (d, .exn ⟨0x0B, va, 0, none, true⟩)

/-- Store `n` bytes that lie in one line, after the checks; a refused store has no effect (R326). -/
def storePart (c : Nat) (x : Xl) (n v : Nat) (va : Word) : Act Unit := fun d =>
  let who := xlWho d c x
  let pa := x.pa
  match regionOf pa with
  | .dram _ _ =>
    if !dramAdmits d who .rw pa then (coreRefuse c pa who true d, .ok ())
    else sbPush c ⟨pa, n, v, who, x.tl, x.mt != 0, false⟩ d
  | .spad _ _ _ => sbPush c ⟨pa, n, v, who, false, true, false⟩ d
  | .reg D off =>
    -- of another size or alignment: no effect (R11)
    if n ≠ 8 ∨ pa % 8 ≠ 0 then (d, .ok ()) else
    let r := regWrite (some c) D off (BitVec.ofNat 64 v) who d
    (r.1, if r.2 then .exn ⟨0x0C, va, 2 ^ 12, none, false⟩ else .ok ())
  | .portWin D off =>
    if 2 ≤ hspMode d D then (d, .exn ⟨0x0C, va, 2 ^ 12, none, false⟩)
    else
      let r := winWrite D off n v d
      (r.1, if r.2 then .wait else .ok ())
  | .unmapped => (d, .exn ⟨0x0C, va, 2 ^ 12, none, false⟩)

/-! ### Atomics (R72, R73) -/

/-- An atomic performed in the core on a line that L2 holds in M or E; its old value. -/
def atomicHere (c k off : Nat) (a : Atom) (va : Word) : Act Nat := fun d =>
  match l2Line d c k with
  | some l =>
    if !l.st.writable then (d, .wait)
    else if poisonRead l.poison off a.size then (d, .exn (exPoison va))
    else
      let old := lineGet l.data off a.size
      (l2Put c k (some (l.store off a.size (a.apply old))) d, .ok old)
  | none => (d, .wait)

/-- The old value in a reply to an atomic; poison is consumed (R73, R280). -/
def atomicOld (va : Word) (r : Msg) : Act Nat := if r.poison then Act.raise (exPoison va) else Act.ret r.line.toNat

/-- Perform an atomic at a translated address with placement `place` (R73): 0 unsuffixed, 1 NEAR, 2 HOME, 3 MEM. Stores of
this core to the bytes leave the store buffer first. -/
def atomicAt (c : Nat) (x : Xl) (place : Nat) (a : Atom) (va : Word) : Act Nat := fun d =>
  let who := xlWho d c x
  let pa := x.pa
  match regionOf pa with
  | .dram _ _ =>
    if !dramAdmits d who .rw pa then (coreRefuse c pa who true d, .exn (exPoison va))
    else (drainOver c (pa / 64 * 64) 64 x.ns).bnd (fun _ => fun d =>
      let k := lineKey pa x.ns
      let msg (op : COp) (dst : Agent) : Msg := { Msg.mk' op (.core c) dst 0 pa who with atom := some a }
      if x.mt ≠ 0 then
        ((coreCall c (msg .atomicMem (.port (portOf d pa).1))).bnd (atomicOld va)) d
      else
        let held := match l2Line d c k with | some l => l.st.writable | none => false
        if place = 1 ∨ (place = 0 ∧ held = true) then
          let d1 := if held then d else askOwn c pa who x.tl d
          atomicHere c k (pa % 64) a va d1
        else ((coreCall c (msg .atomicHome (coreHomeAgent d c pa x.tl))).bnd (atomicOld va)) d) d
  | .spad D s _ =>
    (drainOver c (pa / 64 * 64) 64 x.ns).bnd (fun _ =>
      (coreCall c { Msg.mk' .atomicHome (.core c) (.home (D * 42 + s)) 0 pa who with atom := some a }).bnd (atomicOld va)) d
  | _ => (d, .exn ⟨0x0C, va, 2 ^ 12, none, false⟩)

end Sys2Proof.Machine
end

