-- ==== Sys2Proof/Machine/Translate.lean ====
section
/-! DEFINITION. Address translation (R90 to R94): base registers, the four-level walk in two stages, permissions, the A and D
bits, the TLB with its tags, and what TLBI removes. -/

namespace Sys2Proof.Machine

/-- What an access is for. -/
inductive Kind where
  | fetch | load | store
  deriving DecidableEq, Repr

/-- Cause codes of translation, permission and access faults (R87). -/
def Kind.trans : Kind → Nat | .fetch => 4 | .load => 7 | .store => 8
def Kind.perm : Kind → Nat | .fetch => 5 | .load => 9 | .store => 0xA
def Kind.acc : Kind → Nat | .fetch => 6 | .load => 0xB | .store => 0xC
/-- The WRITE bit of SYS.ECAUSE. -/
def Kind.bits : Kind → Nat | .store => 2 ^ 12 | _ => 0

/-- An exception of an access by its code. -/
def Kind.exn (k : Kind) (code : Nat) (va : Word) : Exn := ⟨code, va, k.bits, none, false⟩

/-- A stage-2 fault (R87): S2WALK on a read of a stage-1 table. -/
def Kind.s2exn (k : Kind) (code : Nat) (va : Word) (ipa : Nat) (table : Bool) : Exn :=
  ⟨code, va, k.bits + b2n table * 2 ^ 11, some (BitVec.ofNat 64 ipa), false⟩

/-- Whether bits 63 to 47 of an address are all equal (R90). -/
def canonical (va : Word) : Bool := bitsOf va 63 47 == 0 || bitsOf va 63 47 == 0x1FFFF

/-- The level group of a core (R94): 0 for PL0 and PL1, 1 for PL2, 2 for PL3. -/
def lvlGroup (d : Dev) (c : Nat) : Nat := plOf d c - 1

/-- The base register that translates an address, if one covers it (R90). -/
def baseReg (d : Dev) (c : Nat) (va : Word) : Option Nat :=
  let upper := bitOf va 47
  match plOf d c with
  | 3 => if upper then none else some Sr.MTTB
  | 2 => if upper then none else some Sr.HTTB
  | _ => if upper then some Sr.TTB1 else some Sr.TTB0

/-- Whether stage 2 applies (R93). -/
def s2On (d : Dev) (c : Nat) : Bool := decide (plOf d c ≤ 1) && bitOf (sr d c Sr.S2TTB) 0

/-- Table address of a base register or of an entry: bits 47 to 12. -/
def tableOf (w : Word) : Nat := bitsOf w 47 12 * 4096

/-- Memory type of a range under an identity mapping (R91). -/
def identMt (pa : Nat) : Nat := match regionOf pa with | .dram _ _ => 0 | .spad _ _ _ => 1 | _ => 2

/-! ### Walks -/

/-- Read a table entry at a physical address (R90): outside usable DRAM the access fault of the access, refused or poisoned
code 0x10. -/
def readPte (c : Nat) (k : Kind) (va : Word) (pa : Nat) : Act Word := fun d =>
  let who : Who := ⟨accPart d c, nsOf d c⟩
  if !(decide (pa < 0x040000000000) && decide (pa % 2 ^ 40 < usableLen d (pa / 2 ^ 40)) && decide (0 < d.cfg.ndie (pa / 2 ^ 40))) then
    (d, .exn (k.exn k.acc va))
  else if !dramAdmits d who .r pa then (coreRefuse c pa who false d, .exn (exPoison va))
  else
    ((coreLine c pa who false).bnd fun l =>
      if poisonRead l.2 (pa % 64) 8 then Act.raise (exPoison va)
      else Act.ret (BitVec.ofNat 64 (lineGet l.1 (pa % 64) 8))) d

/-- Set A or D bits of a table entry by a home-placed atomic (R92). -/
def setAD (c pa bits : Nat) : Act Unit := fun d =>
  let who : Who := ⟨accPart d c, nsOf d c⟩
  ((coreCall c { Msg.mk' .atomicHome (.core c) (coreHomeAgent d c pa false) 0 pa who with
      atom := some ⟨.or, 8, false, none, bits, 0⟩ }).bnd fun _ => Act.ret ()) d

/-- Whether an entry has a reserved bit set (R91, R92). -/
def pteReserved (e : Word) : Bool := bitOf e 11 || bitsOf e 58 52 != 0

/-- Walk `n` levels from a table on (R90, R92): the leaf, the physical address of its entry, and log2 of its page size. `rd`
reads an entry and answers it with its physical address. -/
def walkLvls (rd : Nat → Act (Word × Nat)) (flt : Exn) (va : Nat) : Nat → Nat → Act (Word × Nat × Nat)
  | 0, _ => Act.raise flt
  | n + 1, base =>
    let shift := 12 + 9 * n
    (rd (base + va / 2 ^ shift % 512 * 8)).bnd fun r =>
      let e := r.1
      if !bitOf e 0 then Act.raise flt
      else if bitOf e 1 then
        if n = 0 ∨ pteReserved e = true then Act.raise flt else walkLvls rd flt va n (tableOf e)
      else if n = 3 ∨ pteReserved e = true ∨ tableOf e % 2 ^ shift ≠ 0 ∨ (bitOf e 3 = true ∧ bitOf e 2 = false)
          ∨ bitsOf e 49 48 = 3 then Act.raise flt
      else Act.ret (e, r.2, shift)

/-- Permission bits 2 to 6 of a leaf: R, W, XU, XP, U. -/
def permOf (e : Word) : Nat := bitsOf e 6 2

/-- Whether stage-1 permissions admit an access at a level (R91, R92). -/
def perm1Ok (p pl : Nat) (k : Kind) : Bool :=
  match k with
  | .fetch => if pl = 0 then p.testBit 2 else p.testBit 3
  | .load => p.testBit 0 && (pl != 0 || p.testBit 4)
  | .store => p.testBit 1 && (pl != 0 || p.testBit 4)

/-- Whether stage-2 permissions admit an access (R93). -/
def perm2Ok (p : Nat) (k : Kind) : Bool :=
  match k with | .fetch => p.testBit 3 | .load => p.testBit 0 | .store => p.testBit 1

/-- Set the A bit of a leaf, and its D bit for a write, if they are not set (R92). -/
def touchLeaf (c : Nat) (e : Word) (pa : Nat) (write : Bool) : Act Unit :=
  let want := 0x80 + b2n write * 0x100
  if (e.toNat &&& want) = want then Act.ret () else setAD c pa want

/-- Stage-2 walk of an intermediate physical address (R93): its leaf and page size. `k` is the access made at stage 2. -/
def walk2 (c : Nat) (k0 k : Kind) (va : Word) (ipa : Nat) (table : Bool) : Act (Word × Nat) :=
  (Act.get (fun d => tableOf (sr d c Sr.S2TTB))).bnd fun base =>
  (walkLvls (fun a => (readPte c k0 va a).bnd fun e => Act.ret (e, a)) (k0.s2exn 0x0E va ipa table) ipa 4 base).bnd fun r =>
  (Act.need (perm2Ok (permOf r.1) k) (k0.s2exn 0x0F va ipa table)).bnd fun _ =>
  (touchLeaf c r.1 r.2.1 (k == Kind.store)).bnd fun _ =>
  Act.ret (r.1, r.2.2)

/-- Physical address that a leaf of page size 2^`lg` gives an address. -/
def leafAddr (e : Word) (lg a : Nat) : Nat := tableOf e / 2 ^ lg * 2 ^ lg + a % 2 ^ lg

/-- Read a stage-1 table entry, through stage 2 when it applies. -/
def readPte1 (c : Nat) (k : Kind) (va : Word) (s2 : Bool) (ipa : Nat) : Act (Word × Nat) :=
  if s2 then
    (walk2 c k .load va ipa true).bnd fun r =>
    (readPte c k va (leafAddr r.1 r.2 ipa)).bnd fun e => Act.ret (e, leafAddr r.1 r.2 ipa)
  else (readPte c k va ipa).bnd fun e => Act.ret (e, ipa)

/-- The more restrictive of two memory types (R93). -/
def mtMeet (a b : Nat) : Nat := max a b

/-! ### The TLB -/

/-- Whether an entry matches an access (R94). -/
def TlbEnt.hits (e : TlbEnt) (d : Dev) (c : Nat) (va : Word) (asid : Nat) : Bool :=
  decide (e.va ≤ va.toNat) && decide (va.toNat < e.va + 2 ^ e.lg) && e.part == (sr d c Sr.PARTID).toNat && e.ns == nsOf d c
    && e.grp == lvlGroup d c && e.s2 == s2On d c && (match e.asid with | none => true | some a => a == asid)

/-- Add an entry; 4,096 are held, and which one a full TLB gives up is open (R131). -/
def tlbAdd (c : Nat) (e : TlbEnt) (d : Dev) : Dev :=
  let t := (coreSt d c).tlb
  if t.length < 4096 then updCore c (fun x => { x with tlb := e :: t }) d
  else match freeChoice t (draw d) with
    | some v => updCore c (fun x => { x with tlb := e :: t.erase v }) (drawn d)
    | none => d

/-- The translation that an entry gives. -/
def TlbEnt.xl (e : TlbEnt) (ns : Bool) (va : Word) : Xl := ⟨e.pa + (va.toNat - e.va), e.mt, e.tl, ns || e.nso⟩

/-- Check an entry's permissions (R91 to R93). -/
def TlbEnt.check (e : TlbEnt) (pl : Nat) (k : Kind) (va : Word) : Option Exn :=
  if !perm1Ok e.perm1 pl k then some (k.exn k.perm va)
  else if e.s2 && !perm2Ok e.perm2 k then some (k.s2exn 0x0F va (e.ipa + (va.toNat - e.va)) false)
  else none

/-- Stage 1 of a walk: the leaf, the physical address of its entry and the page size; under an identity mapping of 4 KiB
pages, no entry. -/
def walk1 (c : Nat) (k : Kind) (va : Word) (s2 : Bool) (base : Word) : Act (Word × Option Nat × Nat) :=
  if bitOf base 0 then
    (walkLvls (readPte1 c k va s2) (k.exn k.trans va) (va.toNat % 2 ^ 48) 4 (tableOf base)).bnd fun r =>
      Act.ret (r.1, some r.2.1, r.2.2)
  else
    let a := va.toNat % 2 ^ 48
    Act.ret (BitVec.ofNat 64 (a / 4096 * 4096 + 0x1FF), none, 12)

/-- A walk of both stages, which fills the TLB (R90 to R94, R148). -/
def walk (c : Nat) (k : Kind) (va : Word) (baseNo : Nat) : Act Xl :=
  (Act.get (fun d => (sr d c baseNo, s2On d c, plOf d c, nsOf d c))).bnd fun q =>
  let base := q.1
  let s2 := q.2.1
  (walk1 c k va s2 base).bnd fun l1 =>
  let e1 := l1.1
  let ipa := leafAddr e1 l1.2.2 (va.toNat % 2 ^ 48)
  (Act.need (perm1Ok (permOf e1) q.2.2.1 k) (k.exn k.perm va)).bnd fun _ =>
  (if s2 then walk2 c k k va ipa false else Act.ret (BitVec.ofNat 64 (ipa / 4096 * 4096 + 0x1FF), 48)).bnd fun l2 =>
  (match l1.2.1 with | some a => touchLeaf c e1 a (k == Kind.store) | none => Act.ret ()).bnd fun _ =>
  let lg := if s2 then min l1.2.2 l2.2 else l1.2.2
  let pa := if s2 then leafAddr l2.1 l2.2 ipa else ipa
  let mt1 := if l1.2.1.isSome then bitsOf e1 49 48 else identMt ipa
  let mt := if s2 then mtMeet mt1 (bitsOf l2.1 49 48) else mt1
  let tl := bitOf e1 50 && (!s2 || bitOf l2.1 50) && mt == 0
  let nso := !q.2.2.2 && l1.2.1.isSome && bitOf e1 51
  (Act.upd (fun d => tlbAdd c
    { va := va.toNat / 2 ^ lg * 2 ^ lg, lg := lg,
      asid := if bitOf e1 9 || decide (1 < q.2.2.1) then none else some (bitsOf base 63 48),
      part := (sr d c Sr.PARTID).toNat, ns := q.2.2.2, grp := lvlGroup d c, s2 := s2,
      ipa := ipa / 2 ^ lg * 2 ^ lg, pa := pa / 2 ^ lg * 2 ^ lg, perm1 := permOf e1, perm2 := permOf l2.1,
      d1 := bitOf e1 8 || k == Kind.store, d2 := bitOf l2.1 8 || k == Kind.store, mt := mt, tl := tl, nso := nso } d)).bnd fun _ =>
  Act.ret ⟨pa, mt, tl, q.2.2.2 || nso⟩

/-- Translate a virtual address for an access of a core (R90 to R94). -/
def translate (c : Nat) (va : Word) (k : Kind) : Act Xl := fun d =>
  if !canonical va then (d, .exn (k.exn k.trans va))
  else match baseReg d c va with
    | none => (d, .exn (k.exn k.trans va))
    | some b =>
      if !bitOf (sr d c b) 0 && !s2On d c then
        let pa := va.toNat % 2 ^ 48
        (d, .ok ⟨pa, identMt pa, false, nsOf d c⟩)
      else
        match (coreSt d c).tlb.find? (fun e => e.hits d c va (bitsOf (sr d c b) 63 48) && (k != Kind.store || (e.d1 && e.d2))) with
        | some e =>
          match e.check (plOf d c) k va with
          | some x => (d, .exn x)
          | none => (d, .ok (e.xl (nsOf d c) va))
        | none => walk c k va b d

/-! ### TLB invalidation (R94) -/

/-- Remove the entries that satisfy `p` from the TLB of every core, among those tagged with a partition and a world. -/
def tlbRemove (part : Nat) (ns : Bool) (p : TlbEnt → Bool) (d : Dev) : Dev :=
  { d with cores := d.cores.map (fun e => (e.1, { e.2 with tlb := e.2.tlb.filter (fun t =>
      !(t.part == part && t.ns == ns && p t)) })) }

end Sys2Proof.Machine
end

