-- ==== Sys2Proof/Machine/Ops.lean ====
section
/-! DEFINITION. What every instruction of a core does around its own effect: waiting, events, pace tokens, fetch, retirement,
single step (R37, R54, R80 to R89, R135, R155). -/

namespace Sys2Proof.Machine

/-! ### The instruction around its effect -/

/-- How an instruction retires: where the program counter goes (none: the next instruction), the counter events beside
INST_RETIRED, its micro-ops, and whether its effect has left the core (an atomic or queue operation of a pair's leader). -/
structure Ret where
  npc : Option Word
  evs : List (Nat × Nat)
  uops : Nat
  sync : Bool

/-- An ordinary instruction of one micro-op. -/
def Ret.plain : Ret := ⟨none, [], 1, false⟩

/-- A mispredicted branch is resolved: history as before it with the actual direction, the return stack pointer restored
(R135, R137). -/
def resolveMisp (c : Nat) (d : Dev) : Dev :=
  match (coreSt d c).misp with
  | none => d
  | some (gh, ras, taken) =>
    updCore c (fun x => { x with misp := none, pred := { x.pred with gh := (gh <<< 1) ||| BitVec.ofNat 64 (b2n taken), ras := ras } }) d

/-- The line of an instruction in cacheable DRAM, through L1I and L2 (R144): a line that L1I holds is not read again, and one with a
poisoned granule stays in L2 only. Whether the instruction's granule is poisoned (R486). -/
def fetchCached (c pa : Nat) (who : Who) (tl : Bool) : Act Bool := fun d =>
  let k := lineKey pa who.ns
  if (cacheSt d c).l1i.contains k then (d, .ok false)
  else (coreLineBy (fun _ _ d => d) c pa who tl).bnd (fun l => fun d =>
    (if l.2 = 0 then l1iFill c k d else d, .ok (poisonRead l.2 (pa % 64) 4))) d

/-- The fetch of an instruction (R89, R90): translation, then whether memory that may hold instructions lies there, and its line. A
refused or poisoned fetch reads poison (R87, R324, R326). The instruction itself is the command's operand. -/
def fetch (c : Nat) : Act Unit := fun d =>
  let pc := pcOf d c
  ((translate c pc .fetch).bnd fun x => fun d =>
    match regionOf x.pa with
    | .dram _ _ =>
      if x.mt = 2 then (d, .exn (Exn.of 6 pc))
      else if dramAdmits d (xlWho d c x) .r x.pa = false then (coreRefuse c x.pa (xlWho d c x) false d, .exn (exPoison pc))
      else if x.mt = 0 then
        (fetchCached c x.pa (xlWho d c x) x.tl).bnd (fun bad => if bad then Act.raise (exPoison pc) else Act.ret ()) d
      else
        let v := lineValue d (x.pa / 64 * 64)
        (dramRead (x.pa / 64 * 64) (xlWho d c x) d, if v.2 then .exn (exPoison pc) else .ok ())
    | .spad D s off =>
      if x.mt ≠ 1 ∨ d.cfg.present D = false then (d, .exn (Exn.of 6 pc))
      else if spadAdmits d D s off 4 (xlWho d c x) .r x.pa then
        (d, if (spadLine d (sliceArray d (D * 42 + s)) (off / 64)).2 then .exn (exPoison pc) else .ok ())
      else (spadRefuse D s (xlWho d c x) false .core x.pa d, .exn (exPoison pc))
    | _ => (d, .exn (Exn.of 6 pc))) d

/-- Retirement: the program counter, counters, tokens, the pair's group, and the single step that PSTATE.SS asked for when
the instruction began (R55, R132, R155, R158). -/
def retire (c tokens : Nat) (single : Bool) (r : Ret) (d : Dev) : Dev :=
  let d1 := setPc c (r.npc.getD (pcOf d c + 4)) (paceTake c tokens d)
  let d2 := pmcCount c ((1, 1) :: (2, r.uops) :: r.evs) d1
  let d3 := if isLeader d2 c then
      updCore c (fun x => if r.sync then { x with grp := 0, snap := some x.arch } else { x with grp := x.grp + 1 }) d2
    else d2
  if single then takeExn c (Exn.of 0x18 0) d3 else d3

/-- The results of port-window loads belong to the instruction that ends (R397). -/
def winClear (c : Nat) (d : Dev) : Dev := updCore c (fun x => { x with win := [] }) d

/-- An instruction of a core (R37, R82, R85, R89): nothing while the core does not run or waits; an eligible event is taken
first; without a pace token it waits; then its fetch, its effect, and its retirement, the exception it meets, or its wait. -/
def instr (c : Nat) (tokens : Dev → Nat) (body : Act Ret) (d : Dev) : Dev :=
  if !coreRuns d c || !wfeOver d c then d
  else
    let d0 := updCore c (fun x => { x with wfe := none, qwait := none }) d
    match eligibleEv d0 c with
    | some e => takeEvent c e d0
    | none =>
      if !paceOk d0 c then paceStarved c d0
      else
        match fetch c (resolveMisp c d0) with
        | (d1, .exn e) => takeExn c e d1
        | (d1, .wait) => d1
        | (d1, .ok _) =>
          match body d1 with
          | (d2, .ok r) => retire c (tokens d1) (getB Ps.SS (pstate d1 c)) r (winClear c d2)
          | (d2, .exn e) => takeExn c e (winClear c d2)
          | (d2, .wait) => d2

/-- Whether a core is ready for an instruction: it runs, does not wait, has no event to take, has a pace token, and its fetch
meets no exception. -/
def coreReady (d : Dev) (c : Nat) : Bool :=
  coreRuns d c && wfeOver d c && (eligibleEv (updCore c (fun x => { x with wfe := none, qwait := none }) d) c).isNone
    && paceOk (updCore c (fun x => { x with wfe := none, qwait := none }) d) c
    && (match fetch c (resolveMisp c (updCore c (fun x => { x with wfe := none, qwait := none }) d)) with | (_, .ok _) => true | _ => false)

/-- The device at which a ready core's instruction begins its effect. -/
def begun (d : Dev) (c : Nat) : Dev := (fetch c (resolveMisp c (updCore c (fun x => { x with wfe := none, qwait := none }) d))).1

/-- The illegal-instruction exception of a word (R57, R87). -/
def exIll (word : Nat) : Exn := Exn.of 0x01 (BitVec.ofNat 64 word)
/-- The privileged-instruction exception of a word (R80, R87). -/
def exPriv (word : Nat) : Exn := Exn.of 0x02 (BitVec.ofNat 64 word)

/-- An effect that is a change of the device, retiring as an ordinary instruction. -/
def Act.done (f : Dev → Dev) : Act Ret := fun d => (f d, .ok Ret.plain)

/-- An atomic or queue operation of a pair's leader waits until every earlier group has matched (R155). -/
def pairGate (c : Nat) : Act Unit := fun d =>
  if isLeader d c && (coreSt d c).grp != 0 then (d, .wait) else (d, .ok ())

end Sys2Proof.Machine
end

