-- ==== Sys2Proof/Machine/Operands.lean ====
section
/-! DEFINITION. Instruction words from their fields (R56), immediates, effective addresses, even register pairs, and the
boxed floating-point operands (R61, R62). -/

namespace Sys2Proof

/-- The word of a format A instruction (R56). -/
def FmtA.word (op : Nat) (a : FmtA) : Nat :=
  op * 2 ^ 26 + a.rd.toNat * 2 ^ 21 + a.rs1.toNat * 2 ^ 16 + a.rs2.toNat * 2 ^ 11 + a.func.toNat
/-- The word of a format I instruction. -/
def FmtI.word (op : Nat) (a : FmtI) : Nat :=
  op * 2 ^ 26 + a.rd.toNat * 2 ^ 21 + a.rs1.toNat * 2 ^ 16 + a.func.toNat * 2 ^ 14 + a.imm.toNat
/-- The word of a format M instruction. -/
def FmtM.word (op : Nat) (a : FmtM) : Nat :=
  op * 2 ^ 26 + a.rd.toNat * 2 ^ 21 + a.rs1.toNat * 2 ^ 16 + b2n a.u * 2 ^ 15 + a.size.toNat * 2 ^ 12 + a.off.toNat
/-- The word of a format M instruction whose bit 15 is `u`. -/
def OpM.word (op : Nat) (u : Bool) (a : OpM) : Nat := FmtM.word op ⟨a.rd, a.rs1, u, a.size, a.off⟩
/-- The word of a CMO instruction with SIZE `s`. -/
def OpC.word (s : Nat) (a : OpC) : Nat := FmtM.word 0x0D ⟨a.rd, a.rs1, a.u, BitVec.ofNat 3 s, a.off⟩
/-- The word of a format B instruction. -/
def FmtB.word (op : Nat) (a : FmtB) : Nat :=
  op * 2 ^ 26 + a.rs.toNat * 2 ^ 21 + a.h.toNat * 2 ^ 19 + a.off.toNat
/-- The word of a format V instruction. -/
def FmtV.word (op : Nat) (a : FmtV) : Nat :=
  op * 2 ^ 26 + a.vd.toNat * 2 ^ 21 + a.vs1.toNat * 2 ^ 16 + a.vs2.toNat * 2 ^ 11 + a.mask.toNat * 2 ^ 8 + a.vfunc.toNat
/-- A format V instruction by its operands and its VFUNC. -/
def OpV.fmt (vfunc : Nat) (a : OpV) : FmtV := ⟨a.vd, a.vs1, a.vs2, a.mask, BitVec.ofNat 8 vfunc⟩
/-- The word of a format Q instruction. -/
def OpQ.word (qfunc : Nat) (a : OpQ) : Nat :=
  0x28 * 2 ^ 26 + a.rd.toNat * 2 ^ 21 + a.rq.toNat * 2 ^ 16 + a.rs.toNat * 2 ^ 11 + qfunc * 2 ^ 7 + a.z.toNat
/-- The word of a format S instruction. -/
def OpS.word (sfunc : Nat) (a : OpS) : Nat :=
  0x30 * 2 ^ 26 + a.rd.toNat * 2 ^ 21 + a.rs1.toNat * 2 ^ 16 + sfunc * 2 ^ 12 + a.imm.toNat

namespace Machine

/-- Effective address of an M-format access (R62): rs1 + sign-extended OFFSET12. -/
def effAddr (d : Dev) (c : Nat) (rs1 : BitVec 5) (off : BitVec 12) : Word := gReg d c rs1.toNat + sext 12 off.toNat

/-- Bytes that a SIZE code selects (R62). -/
def sizeBytes (s : BitVec 3) : Nat := 2 ^ s.toNat

/-- The data that a store of `n` bytes writes: a register, or an even pair (R62). -/
def storeData (d : Dev) (c rs n : Nat) : Nat :=
  if n = 16 then (gReg d c rs).toNat + (gReg d c (rs + 1)).toNat * 2 ^ 64 else (gReg d c rs).toNat % 2 ^ (8 * n)

/-- Write what a load of `n` bytes read: zero- or sign-extended, or an even pair (R62). -/
def loadWrite (c rd n : Nat) (uns : Bool) (v : Nat) (d : Dev) : Dev :=
  if n = 16 then setG c (rd + 1) (BitVec.ofNat 64 (v / 2 ^ 64)) (setG c rd (BitVec.ofNat 64 (v % 2 ^ 64)) d)
  else setG c rd (if uns then BitVec.ofNat 64 v else sext (8 * n) v) d

/-- A load that ends with a zeroed destination (R11, R26, R329). -/
def loadZero (c rd n : Nat) (d : Dev) : Dev := loadWrite c rd n true 0 d

/-! ### Floating-point operands -/

/-- The format that an FMT field names (R60). -/
def fmtOf (n : Nat) : Option SF.Fmt :=
  match n with | 0 => some SF.b64 | 1 => some SF.b32 | 2 => some SF.b16 | _ => none

/-- A value in an f register read in a format (R61): without its high ones it is the canonical NaN. -/
def unbox (f : SF.Fmt) (w : Word) : Nat :=
  let n := f.width
  if w.toNat / 2 ^ n = 2 ^ (64 - n) - 1 then w.toNat % 2 ^ n else f.nan

/-- A value set up for an f register (R61). -/
def box (f : SF.Fmt) (v : Nat) : Word :=
  let n := f.width
  BitVec.ofNat 64 (v % 2 ^ n + (2 ^ 64 - 2 ^ n))

/-- An f register read in a format. -/
def fVal (d : Dev) (c : Nat) (f : SF.Fmt) (r : BitVec 5) : Nat := unbox f (fReg d c r.toNat)

end Machine
end Sys2Proof
end

