-- ==== Sys2Proof/Machine/Flags.lean ====
section
/-! DEFINITION. The floating-point flags, traps and rounding mode of SYS.FCSR (R61, R102). -/

namespace Sys2Proof.Machine

/-- Rounding mode (R61). -/
def fcsrRm (d : Dev) (c : Nat) : Nat := bitsOf (sr d c Sr.FCSR) 2 0

/-- OR flags into the sticky flags; `fl` in the order NX, UF, OF, DZ, NV (R61). -/
def orFlags (c fl : Nat) (d : Dev) : Dev := setSr c Sr.FCSR (sr d c Sr.FCSR ||| BitVec.ofNat 64 (fl % 32 * 8)) d

/-- Finish a scalar operation that raises `fl` (R61): a flag whose trap is enabled takes the floating-point trap with nothing
written; else the flags are set and `w` writes the result. -/
def fpDone (c fl : Nat) (w : Dev → Dev) : Act Ret := fun d =>
  if (fl &&& bitsOf (sr d c Sr.FCSR) 12 8) ≠ 0 then (d, .exn (Exn.of 0x11 (BitVec.ofNat 64 fl)))
  else (w (orFlags c fl d), .ok Ret.plain)

end Sys2Proof.Machine
end

