-- ==== Sys2Proof/Machine/Integer.lean ====
section
/-! DEFINITION. The integer groups INT, MULDIV, ADDI, LOGI, SHIFTI, CMPI and ORHI (R58, R59). -/

namespace Sys2Proof.Machine

/-- A 32-bit result sign-extended to 64 bits (R59). -/
def sext32 (w : Word) : Word := (w.truncate 32 : BitVec 32).signExtend 64

/-- Leading zeros of an `n`-bit number (R59). -/
def clz (n v : Nat) : Nat := n - SF.blen v
/-- Trailing zeros of an `n`-bit number (R59). -/
def ctz (n v : Nat) : Nat := ((List.range n).find? (fun i => v.testBit i)).getD n
/-- Set bits of an `n`-bit number. -/
def popc (n v : Nat) : Nat := (List.range n).foldl (fun a i => a + b2n (v.testBit i)) 0

/-- The operation of the INT group by number, for 64 bits (R58, R59). -/
def intOp (op : Nat) (a b : Word) : Option Word :=
  let sh := b.toNat % 64
  match op with
  | 0 => some (a + b)
  | 1 => some (a - b)
  | 2 => some (a &&& b)
  | 3 => some (a ||| b)
  | 4 => some (a ^^^ b)
  | 5 => some (a <<< sh)
  | 6 => some (a >>> sh)
  | 7 => some (a.sshiftRight sh)
  | 8 => some (a.rotateRight sh)
  | 9 => some (if a.slt b then 1 else 0)
  | 10 => some (if a.ult b then 1 else 0)
  | 11 => some (if a = b then 1 else 0)
  | 12 => some (if a.slt b then a else b)
  | 13 => some (if a.slt b then b else a)
  | 14 => some (if a.ult b then a else b)
  | 15 => some (if a.ult b then b else a)
  | 16 => some (BitVec.ofNat 64 (clz 64 a.toNat))
  | 17 => some (BitVec.ofNat 64 (ctz 64 a.toNat))
  | 18 => some (BitVec.ofNat 64 (popc 64 a.toNat))
  | 19 => some (BitVec.ofNat 64 (ofBytes (toBytes 8 a.toNat).reverse))
  | _ => none

/-- The W form of the INT group: 0, 1, 5 to 8 and 16 to 18 (R58, R59). -/
def intOpW (op : Nat) (a b : Word) : Option Word :=
  let x : BitVec 32 := a.truncate 32
  let y : BitVec 32 := b.truncate 32
  let sh := b.toNat % 32
  match op with
  | 0 => some ((x + y).signExtend 64)
  | 1 => some ((x - y).signExtend 64)
  | 5 => some ((x <<< sh).signExtend 64)
  | 6 => some ((x >>> sh).signExtend 64)
  | 7 => some ((x.sshiftRight sh).signExtend 64)
  | 8 => some ((x.rotateRight sh).signExtend 64)
  | 16 => some (BitVec.ofNat 64 (clz 32 x.toNat))
  | 17 => some (BitVec.ofNat 64 (ctz 32 x.toNat))
  | 18 => some (BitVec.ofNat 64 (popc 32 x.toNat))
  | _ => none

/-- Whether an operation of the INT group has one source, so that rs2 must be g0 (R58). -/
def intUnary (op : Nat) : Bool := decide (16 ≤ op)

/-- The result of an INT word's FUNC, none where it is illegal (R58). -/
def intResult (f : BitVec 11) (rs2 : BitVec 5) (a b : Word) : Option Word :=
  let op := f.toNat / 64
  if f.toNat % 32 ≠ 0 ∨ (intUnary op = true ∧ rs2 ≠ 0) then none
  else if f.toNat / 32 % 2 = 1 then intOpW op a b else intOp op a b

/-- Quotient and remainder truncated toward zero, with the results for a zero divisor (R59). -/
def divS (w : Nat) (a b : BitVec w) : BitVec w := if b = 0 then BitVec.allOnes w else a.sdiv b
def remS (w : Nat) (a b : BitVec w) : BitVec w := if b = 0 then a else a.srem b
def divU (w : Nat) (a b : BitVec w) : BitVec w := if b = 0 then BitVec.allOnes w else a.udiv b
def remU (w : Nat) (a b : BitVec w) : BitVec w := if b = 0 then a else a.umod b

/-- The upper half of a product of two integers. -/
def mulHigh (a b : Int) : Word := BitVec.ofInt 64 (a * b / 2 ^ 64)

/-- The operation of the MULDIV group (R58, R59). -/
def mulOp (op : Nat) (a b : Word) : Option Word :=
  match op with
  | 0 => some (a * b)
  | 1 => some (mulHigh a.toInt b.toInt)
  | 2 => some (mulHigh a.toNat b.toNat)
  | 3 => some (mulHigh a.toInt b.toNat)
  | 4 => some (divS 64 a b)
  | 5 => some (divU 64 a b)
  | 6 => some (remS 64 a b)
  | 7 => some (remU 64 a b)
  | _ => none

/-- The W form of the MULDIV group: 0 and 4 to 7. -/
def mulOpW (op : Nat) (a b : Word) : Option Word :=
  let x : BitVec 32 := a.truncate 32
  let y : BitVec 32 := b.truncate 32
  match op with
  | 0 => some ((x * y).signExtend 64)
  | 4 => some ((divS 32 x y).signExtend 64)
  | 5 => some ((divU 32 x y).signExtend 64)
  | 6 => some ((remS 32 x y).signExtend 64)
  | 7 => some ((remU 32 x y).signExtend 64)
  | _ => none

/-- The result of a MULDIV word's FUNC. -/
def mulResult (f : BitVec 11) (a b : Word) : Option Word :=
  if f.toNat % 32 ≠ 0 then none
  else if f.toNat / 32 % 2 = 1 then mulOpW (f.toNat / 64) a b else mulOp (f.toNat / 64) a b

/-- The result of an ADDI word. -/
def addiResult (f : BitVec 2) (a : Word) (imm : BitVec 14) : Option Word :=
  match f.toNat with
  | 0 => some (a + sext 14 imm.toNat)
  | 1 => some (sext32 (a + sext 14 imm.toNat))
  | _ => none

/-- The result of a LOGI word. -/
def logiResult (f : BitVec 2) (a : Word) (imm : BitVec 14) : Option Word :=
  let i : Word := imm.zeroExtend 64
  match f.toNat with
  | 0 => some (a &&& i)
  | 1 => some (a ||| i)
  | 2 => some (a ^^^ i)
  | _ => none

/-- The result of a SHIFTI word: IMM14[5:0] amount, IMM14[6] W, IMM14[13:7] zero; with W, IMM14[5] zero (R58). -/
def shiftiResult (f : BitVec 2) (a : Word) (imm : BitVec 14) : Option Word :=
  let w := imm.toNat / 64 % 2 = 1
  let amt : Word := BitVec.ofNat 64 (imm.toNat % 64)
  if imm.toNat / 128 ≠ 0 ∨ (w ∧ imm.toNat / 32 % 2 = 1) then none
  else if w then intOpW (5 + f.toNat) a amt else intOp (5 + f.toNat) a amt

/-- The result of a CMPI word. -/
def cmpiResult (f : BitVec 2) (a : Word) (imm : BitVec 14) : Option Word :=
  let i := sext 14 imm.toNat
  match f.toNat with
  | 0 => some (if a.slt i then 1 else 0)
  | 1 => some (if a.ult i then 1 else 0)
  | 2 => some (if a = i then 1 else 0)
  | _ => none

/-- The result of an ORHI word: with k = 3, IMM14[13:8] must be zero (R58). -/
def orhiResult (f : BitVec 2) (a : Word) (imm : BitVec 14) : Option Word :=
  if f.toNat = 3 ∧ imm.toNat / 256 ≠ 0 then none
  else some (a ||| BitVec.ofNat 64 (imm.toNat * 2 ^ (14 * (f.toNat + 1))))

/-- Write a result to rd, or take the illegal-instruction exception where there is none (R57, R59). -/
def writeOrIllegal (c : Nat) (rd : BitVec 5) (word : Nat) (v : Option Word) : Act Ret :=
  match v with
  | some w => Act.done (setG c rd.toNat w)
  | none => Act.raise (exIll word)

/-- An instruction that dispatches as one micro-op (R132). -/
def instr1 (c : Nat) (body : Act Ret) (d : Dev) : Dev := instr c (fun _ => 1) body d

def execInt (c : CoreId) (a : FmtA) (s : State) : Host.Outcome State Fault Refusal :=
  onDev s (instr1 c (fun d => writeOrIllegal c a.rd (a.word 0x01)
    (intResult a.func a.rs2 (gReg d c a.rs1.toNat) (gReg d c a.rs2.toNat)) d))

def execMuldiv (c : CoreId) (a : FmtA) (s : State) : Host.Outcome State Fault Refusal :=
  onDev s (instr1 c (fun d => writeOrIllegal c a.rd (a.word 0x02)
    (mulResult a.func (gReg d c a.rs1.toNat) (gReg d c a.rs2.toNat)) d))

def execAddi (c : CoreId) (a : FmtI) (s : State) : Host.Outcome State Fault Refusal :=
  onDev s (instr1 c (fun d => writeOrIllegal c a.rd (a.word 0x03) (addiResult a.func (gReg d c a.rs1.toNat) a.imm) d))

def execLogi (c : CoreId) (a : FmtI) (s : State) : Host.Outcome State Fault Refusal :=
  onDev s (instr1 c (fun d => writeOrIllegal c a.rd (a.word 0x04) (logiResult a.func (gReg d c a.rs1.toNat) a.imm) d))

def execShifti (c : CoreId) (a : FmtI) (s : State) : Host.Outcome State Fault Refusal :=
  onDev s (instr1 c (fun d => writeOrIllegal c a.rd (a.word 0x05) (shiftiResult a.func (gReg d c a.rs1.toNat) a.imm) d))

def execCmpi (c : CoreId) (a : FmtI) (s : State) : Host.Outcome State Fault Refusal :=
  onDev s (instr1 c (fun d => writeOrIllegal c a.rd (a.word 0x06) (cmpiResult a.func (gReg d c a.rs1.toNat) a.imm) d))

def execOrhi (c : CoreId) (a : FmtI) (s : State) : Host.Outcome State Fault Refusal :=
  onDev s (instr1 c (fun d => writeOrIllegal c a.rd (a.word 0x07) (orhiResult a.func (gReg d c a.rs1.toNat) a.imm) d))

end Sys2Proof.Machine
end

