-- ==== Sys2Proof/Machine/Fp.lean ====
section
/-! DEFINITION. The scalar floating-point groups FP, FMA, FCVT and FCMP (R60, R61). -/

namespace Sys2Proof.Machine

/-- Whether the rounding mode makes an instruction that rounds illegal (R61). -/
def rmBad (d : Dev) (c : Nat) : Bool := decide (5 ≤ fcsrRm d c)

/-- Replace the sign of a value: 7 that of the other, 8 its inverse, 9 the exclusive or (R60). -/
def fpSign (f : SF.Fmt) (op a b : Nat) : Nat :=
  let h := 2 ^ (f.eb + f.fb)
  let sb := b / h % 2 == 1
  let s := match op with | 7 => sb | 8 => !sb | _ => sb != (a / h % 2 == 1)
  a % h + b2n s * h

/-- Result and flags of an operation of the FP group on values of a format (R60, R61). -/
def fpOp (f : SF.Fmt) (rm op a b : Nat) : Option (Nat × Nat) :=
  match op with
  | 0 => some (SF.add f rm a b)
  | 1 => some (SF.sub f rm a b)
  | 2 => some (SF.mul f rm a b)
  | 3 => some (SF.div f rm a b)
  | 4 => some (SF.sqrt f rm a)
  | 5 => some (SF.minMax f false a b)
  | 6 => some (SF.minMax f true a b)
  | 7 | 8 | 9 => some (fpSign f op a b, 0)
  | _ => none

/-- Whether an operation of the FP group rounds. -/
def fpRounds (op : Nat) : Bool := decide (op ≤ 4)

def fpBody (c : Nat) (a : FmtA) : Act Ret := fun d =>
  let ill : Act Ret := Act.raise (exIll (a.word 0x18))
  let op := a.func.toNat / 64
  match fmtOf (a.func.toNat / 16 % 4) with
  | none => ill d
  | some f =>
    if a.func.toNat % 16 ≠ 0 ∨ (op = 4 ∧ a.rs2 ≠ 0) ∨ (fpRounds op = true ∧ rmBad d c = true) then ill d
    else match fpOp f (fcsrRm d c) op (fVal d c f a.rs1) (fVal d c f a.rs2) with
      | some r => fpDone c r.2 (setFR c a.rd.toNat (box f r.1)) d
      | none => ill d

def fmaBody (c : Nat) (a : FmtA) : Act Ret := fun d =>
  let ill : Act Ret := Act.raise (exIll (a.word 0x19))
  let op := a.func.toNat / 4 % 4
  match fmtOf (a.func.toNat / 16 % 4) with
  | none => ill d
  | some f =>
    if a.func.toNat % 4 ≠ 0 ∨ rmBad d c = true then ill d
    else
      let rs3 := BitVec.ofNat 5 (a.func.toNat / 64)
      -- the naming of R107: FMSUB negates the addend, FNMADD the product, FNMSUB both
      let r := SF.fma f (fcsrRm d c) (decide (2 ≤ op)) (op % 2 == 1) (fVal d c f a.rs1) (fVal d c f a.rs2) (fVal d c f rs3)
      fpDone c r.2 (setFR c a.rd.toNat (box f r.1)) d

/-- Width and signedness of the integer side of a conversion, by the low two bits of the operation (R60). -/
def cvtInt (n : Nat) : Nat × Bool := (if n % 4 < 2 then 32 else 64, n % 2 == 0)

def fcvtBody (c : Nat) (a : FmtA) : Act Ret := fun d =>
  let ill : Act Ret := Act.raise (exIll (a.word 0x1A))
  let op := a.func.toNat / 64
  let rm := fcsrRm d c
  let rd := a.rd.toNat
  match fmtOf (a.func.toNat / 16 % 4), fmtOf (a.func.toNat / 4 % 4) with
  | some fd, some fs =>
    if a.func.toNat % 4 ≠ 0 then ill d
    else if (op = 0 ∨ (4 ≤ op ∧ op ≤ 11)) ∧ rmBad d c = true then ill d
    else if op = 0 then
      let r := SF.cvt fs fd rm none (fVal d c fs a.rs1)
      fpDone c r.2 (setFR c rd (box fd r.1)) d
    else if 4 ≤ op ∧ op ≤ 7 then
      let i := cvtInt op
      let r := SF.toIntBits fs rm i.2 i.1 (fVal d c fs a.rs1)
      fpDone c r.2 (setG c rd (if i.2 then sext i.1 r.1 else BitVec.ofNat 64 r.1)) d
    else if 8 ≤ op ∧ op ≤ 11 then
      let i := cvtInt op
      let v := (gReg d c a.rs1.toNat).toNat
      let r := SF.ofInt fd rm (if i.2 then signedOf i.1 v else ((v % 2 ^ i.1 : Nat) : Int))
      fpDone c r.2 (setFR c rd (box fd r.1)) d
    else match op with
      | 12 => Act.done (setG c rd (fReg d c a.rs1.toNat)) d
      | 13 => Act.done (setFR c rd (gReg d c a.rs1.toNat)) d
      | 14 => Act.done (setG c rd (BitVec.ofNat 64 (2 ^ (Config.classBit (SF.classOf fs (fVal d c fs a.rs1)) % 10)))) d
      | _ => ill d
  | _, _ => ill d

def fcmpBody (c : Nat) (a : FmtA) : Act Ret := fun d =>
  let ill : Act Ret := Act.raise (exIll (a.word 0x1B))
  let op := a.func.toNat / 64
  match fmtOf (a.func.toNat / 16 % 4) with
  | none => ill d
  | some f =>
    if a.func.toNat % 16 ≠ 0 ∨ 3 ≤ op then ill d
    else
      let r := SF.cmp f op (fVal d c f a.rs1) (fVal d c f a.rs2)
      fpDone c r.2 (setG c a.rd.toNat (BitVec.ofNat 64 (b2n r.1))) d

def execFp (c : CoreId) (a : FmtA) (s : State) : Host.Outcome State Fault Refusal := onDev s (instr1 c (fpBody c a))
def execFma (c : CoreId) (a : FmtA) (s : State) : Host.Outcome State Fault Refusal := onDev s (instr1 c (fmaBody c a))
def execFcvt (c : CoreId) (a : FmtA) (s : State) : Host.Outcome State Fault Refusal := onDev s (instr1 c (fcvtBody c a))
def execFcmp (c : CoreId) (a : FmtA) (s : State) : Host.Outcome State Fault Refusal := onDev s (instr1 c (fcmpBody c a))

end Sys2Proof.Machine
end

