-- ==== Sys2Proof/Machine/LoadStore.lean ====
section
/-! DEFINITION. Scalar loads and stores, with the split of unaligned accesses, acquire and release forms, and AMO (R62 to
R73, R141 to R143). -/

namespace Sys2Proof.Machine

/-- The halves of an access of `n` bytes (R65): one, or two split at a line boundary, as (virtual address, bytes). -/
def halves (va : Word) (n : Nat) : List (Word × Nat) :=
  let o := va.toNat % 64
  if o + n ≤ 64 then [(va, n)] else [(va, 64 - o), (va + BitVec.ofNat 64 (64 - o), n - (64 - o))]

/-- Translate the halves of an access in order and check them against the address map (R65, R89). -/
def xlHalves (c : Nat) (k : Kind) (ea : Word) : List (Word × Nat) → Act (List (Xl × Word × Nat))
  | [] => Act.ret []
  | h :: r =>
    (translate c h.1 k).bnd fun x =>
    (Act.of fun d => Act.check (accessCheck d x h.2 (k == Kind.store) ea h.1)).bnd fun _ =>
    (xlHalves c k ea r).bnd fun l => Act.ret ((x, h.1, h.2) :: l)

/-- The value that loads of consecutive pieces give, lowest piece first. -/
def loadPieces (c : Nat) (fwd : Bool) : List (Xl × Word × Nat) → Act Nat
  | [] => Act.ret 0
  | p :: r =>
    (loadPart c p.1 p.2.2 p.2.1 fwd).bnd fun v =>
    (loadPieces c fwd r).bnd fun w => Act.ret (v + w * 2 ^ (8 * p.2.2))

/-- Stores of consecutive pieces of a value. -/
def storePieces (c : Nat) : List (Xl × Word × Nat) → Nat → Act Unit
  | [], _ => Act.ret ()
  | p :: r, v =>
    (storePart c p.1 p.2.2 (v % 2 ^ (8 * p.2.2)) p.2.1).bnd fun _ => storePieces c r (v / 2 ^ (8 * p.2.2))

/-- The alignment of an access that may lie unaligned only in normal memory is left to the checks of its pages; a register
access of 8 aligned bytes is never split. -/
def loadVal (c : Nat) (va : Word) (n : Nat) : Act Nat :=
  (xlHalves c .load va (halves va n)).bnd fun l => loadPieces c true l

/-- Micro-ops of an access (R132): two for 16 bytes, and for an unaligned access split under R65. -/
def accUops (va : Word) (n : Nat) : Nat := if n = 16 ∨ va.toNat % 64 + n > 64 then 2 else 1

/-- A load whose exception zeroes its destination writes it before the exception is taken (R11, R26, R329). -/
def loadInto (x : Act Nat) (zero put : Nat → Dev → Dev) (r : Ret) : Act Ret := fun d =>
  match x d with
  | (d1, .ok v) => (put v d1, .ok r)
  | (d1, .exn e) => (if e.zero then zero 0 d1 else d1, .exn e)
  | (d1, .wait) => (d1, .wait)

/-- A store that has enough room in the store buffer for its pieces. -/
def storeVal (c : Nat) (va : Word) (n v : Nat) : Act Unit :=
  (xlHalves c .store va (halves va n)).bnd fun l =>
  (Act.of fun d => if (cacheSt d c).sb.length + 2 ≤ 128 then Act.ret () else drainAll c).bnd fun _ =>
  storePieces c l v

/-- Whether the fields of an M-format load or store are legal (R62): SIZE at most 4, an even register pair at SIZE 4. -/
def mLegal (size : BitVec 3) (rd : BitVec 5) : Bool := decide (size.toNat ≤ 4) && (size.toNat != 4 || rd.toNat % 2 == 0)

def ldBody (c : Nat) (a : FmtM) : Act Ret := fun d =>
  if !mLegal a.size a.rd || (a.u && decide (3 ≤ a.size.toNat)) then (d, .exn (exIll (a.word 0x08)))
  else
    let n := sizeBytes a.size
    let va := effAddr d c a.rs1 a.off
    loadInto (loadVal c va n) (fun _ => loadZero c a.rd.toNat n) (loadWrite c a.rd.toNat n a.u) ⟨none, [(7, 1)], accUops va n, false⟩ d

def stBody (c : Nat) (a : FmtM) : Act Ret := fun d =>
  if !mLegal a.size a.rd || a.u then (d, .exn (exIll (a.word 0x09)))
  else
    let n := sizeBytes a.size
    let va := effAddr d c a.rs1 a.off
    ((storeVal c va n (storeData d c a.rd.toNat n)).bnd fun _ => Act.ret ⟨none, [(8, 1)], accUops va n, false⟩) d

/-- The alignment check of LDAQ, STREL, atomics and vector elements (R64, R116). -/
def needAligned (k : Kind) (va : Word) (n : Nat) : Act Unit := Act.need (aligned va.toNat n) (k.exn 0x0D va)

def ldaqBody (c : Nat) (a : OpM) : Act Ret := fun d =>
  if !mLegal a.size a.rd then (d, .exn (exIll (a.word 0x0A false)))
  else
    let n := sizeBytes a.size
    let va := effAddr d c a.rs1 a.off
    ((needAligned .load va n).bnd fun _ => loadInto (loadVal c va n) (fun _ => loadZero c a.rd.toNat n) (loadWrite c a.rd.toNat n false)
      ⟨none, [(7, 1)], accUops va n, false⟩) d

/-- STREL is written only after every older entry of the store buffer (R68, R142). -/
def strelBody (c : Nat) (a : OpM) : Act Ret := fun d =>
  if !mLegal a.size a.rd then (d, .exn (exIll (a.word 0x0A true)))
  else
    let n := sizeBytes a.size
    let va := effAddr d c a.rs1 a.off
    ((needAligned .store va n).bnd fun _ =>
     (xlHalves c .store va (halves va n)).bnd fun l =>
     (drainAll c).bnd fun _ =>
     (storePieces c l (storeData d c a.rd.toNat n)).bnd fun _ => Act.ret ⟨none, [(8, 1)], accUops va n, false⟩) d

/-- Format that an FLD or FST moves (R62): SIZE 1 binary16, 2 binary32, 3 binary64. -/
def fldFmt (size : BitVec 3) : Option SF.Fmt :=
  match size.toNat with | 1 => some SF.b16 | 2 => some SF.b32 | 3 => some SF.b64 | _ => none

def fldBody (c : Nat) (a : OpM) : Act Ret := fun d =>
  match fldFmt a.size with
  | none => (d, .exn (exIll (a.word 0x0B false)))
  | some f =>
    let n := sizeBytes a.size
    let va := effAddr d c a.rs1 a.off
    loadInto (loadVal c va n) (fun _ => setFR c a.rd.toNat 0) (fun v => setFR c a.rd.toNat (box f v)) ⟨none, [(7, 1)], accUops va n, false⟩ d

def fstBody (c : Nat) (a : OpM) : Act Ret := fun d =>
  match fldFmt a.size with
  | none => (d, .exn (exIll (a.word 0x0B true)))
  | some _ =>
    let n := sizeBytes a.size
    let va := effAddr d c a.rs1 a.off
    ((storeVal c va n ((fReg d c a.rd.toNat).toNat % 2 ^ (8 * n))).bnd fun _ => Act.ret ⟨none, [(8, 1)], accUops va n, false⟩) d

def execLd (c : CoreId) (a : FmtM) (s : State) : Host.Outcome State Fault Refusal := onDev s (instr c (fun d => accUops (effAddr d c a.rs1 a.off) (sizeBytes a.size)) (ldBody c a))
def execSt (c : CoreId) (a : FmtM) (s : State) : Host.Outcome State Fault Refusal := onDev s (instr c (fun d => accUops (effAddr d c a.rs1 a.off) (sizeBytes a.size)) (stBody c a))
def execLdaq (c : CoreId) (a : OpM) (s : State) : Host.Outcome State Fault Refusal := onDev s (instr c (fun d => accUops (effAddr d c a.rs1 a.off) (sizeBytes a.size)) (ldaqBody c a))
def execStrel (c : CoreId) (a : OpM) (s : State) : Host.Outcome State Fault Refusal := onDev s (instr c (fun d => accUops (effAddr d c a.rs1 a.off) (sizeBytes a.size)) (strelBody c a))
def execFld (c : CoreId) (a : OpM) (s : State) : Host.Outcome State Fault Refusal := onDev s (instr c (fun d => accUops (effAddr d c a.rs1 a.off) (sizeBytes a.size)) (fldBody c a))
def execFst (c : CoreId) (a : OpM) (s : State) : Host.Outcome State Fault Refusal := onDev s (instr c (fun d => accUops (effAddr d c a.rs1 a.off) (sizeBytes a.size)) (fstBody c a))

/-! ### AMO (R72, R73) -/

/-- The operation and the fields of an AMO's FUNC (R72): operation, size in bytes, placement, whether U is set; none where
illegal. -/
def amoFields (f : BitVec 11) (rd rs2 : BitVec 5) : Option (AmoOp × Nat × Nat × Bool) :=
  let op := f.toNat / 256
  let size := f.toNat / 16 % 4
  let uns := f.toNat / 2 % 2 == 1
  let o : Option AmoOp := match op with
    | 0 => some .add | 1 => some .swap | 2 => some .cas | 3 => some .min | 4 => some .max | 5 => some .and | 6 => some .or
    | _ => none
  let n : Option Nat := match size with | 1 => some 16 | 2 => some 4 | 3 => some 8 | _ => none
  match o, n with
  | some o, some n =>
    if f.toNat % 2 = 1 ∨ (uns = true ∧ ¬ (op = 3 ∨ op = 4)) ∨ (n = 16 ∧ (op ≠ 2 ∨ rd.toNat % 2 = 1 ∨ rs2.toNat % 2 = 1)) then none
    else some (o, n, f.toNat / 64 % 4, uns)
  | _, _ => none

/-- The value of a register or an even pair. -/
def pairVal (d : Dev) (c r n : Nat) : Nat :=
  if n = 16 then (gReg d c r).toNat + (gReg d c (r + 1)).toNat * 2 ^ 64 else (gReg d c r).toNat

/-- AMO (R72): RL orders it after every earlier access. A 4-byte old value is sign-extended. -/
def amoBody (c : Nat) (a : FmtA) : Act Ret := fun d =>
  match amoFields a.func a.rd a.rs2 with
  | none => (d, .exn (exIll (a.word 0x0C)))
  | some (op, n, place, uns) =>
    let va := gReg d c a.rs1.toNat
    let at' : Atom := ⟨op, n, uns, none, pairVal d c a.rs2.toNat n, pairVal d c a.rd.toNat n⟩
    ((needAligned .store va n).bnd fun _ =>
     (translate c va .store).bnd fun x =>
     (Act.of fun d => Act.check (match regionOf x.pa with
        | .dram _ _ | .spad _ _ _ => accessCheck d x n true va va
        | .reg _ _ | .portWin _ _ | .unmapped => some ⟨0x0C, va, 2 ^ 12, none, false⟩)).bnd fun _ =>
     (pairGate c).bnd fun _ =>
     (if a.func.toNat / 4 % 2 = 1 then drainAll c else Act.ret ()).bnd fun _ =>
     (atomicAt c x place at' va).bnd fun old =>
     (Act.upd (loadWrite c a.rd.toNat n false old)).bnd fun _ => Act.ret ⟨none, [], if n = 16 then 2 else 1, true⟩) d

def execAmo (c : CoreId) (a : FmtA) (s : State) : Host.Outcome State Fault Refusal :=
  onDev s (instr c (fun _ => if a.func.toNat / 16 % 4 = 1 then 2 else 1) (amoBody c a))

end Sys2Proof.Machine
end

