-- ==== Sys2Proof/Machine/Cmo.lean ====
section
/-! DEFINITION. Cache maintenance by address, by range and by set and way (R74 to R76). -/

namespace Sys2Proof.Machine

/-- The maintenance operations: 0 clean, 1 invalidate, 2 flush (R74). -/
def cmoOp (o : Nat) : COp := match o with | 0 => .cmoClean | 1 => .cmoInv | _ => .cmoFlush

/-- The operation performed: at PL0 and PL1 an invalidation is a flush (R74). -/
def cmoEff (d : Dev) (c o : Nat) : Nat := if o = 1 ∧ plOf d c ≤ 1 then 2 else o

/-- How a maintenance operation is translated: as a load, except an invalidation at PL2 or PL3 as a store (R74). -/
def cmoKind (eff : Nat) : Kind := if eff = 1 then .store else .load

/-- Perform a maintenance operation on the line of a translated address (R74, R485): a refused one has no effect (R326);
scratchpad, port windows and register space are left alone; this core's stores to the line go first. -/
def cmoLine (c eff : Nat) (x : Xl) (va : Word) : Act Unit := fun d =>
  let k := cmoKind eff
  match regionOf x.pa with
  | .dram _ _ =>
    let who := xlWho d c x
    if x.mt = 2 then (d, .exn (k.exn k.acc va))
    else if !dramAdmits d who (if eff = 1 then .rw else .r) x.pa then (coreRefuse c x.pa who (eff == 1) d, .ok ())
    else ((drainOver c (x.pa / 64 * 64) 64 x.ns).bnd fun _ => Act.of fun d =>
      (coreCall c (Msg.mk' (cmoOp eff) (.core c) (coreHomeAgent d c x.pa x.tl) 0 (x.pa / 64 * 64) who)).bnd fun _ => Act.ret ()) d
  | .unmapped => (d, .exn (k.exn k.acc va))
  | _ => (d, .ok ())

def cmoBody (o : Nat) (c : Nat) (a : OpC) : Act Ret := fun d =>
  if a.u || a.rd != 0 then (d, .exn (exIll (a.word o)))
  else
    let va := effAddr d c a.rs1 a.off
    let eff := cmoEff d c o
    ((translate c va (cmoKind eff)).bnd fun x => (cmoLine c eff x va).bnd fun _ => Act.ret Ret.plain) d

def execCmoClean (c : CoreId) (a : OpC) (s : State) : Host.Outcome State Fault Refusal := onDev s (instr1 c (cmoBody 0 c a))
def execCmoInv (c : CoreId) (a : OpC) (s : State) : Host.Outcome State Fault Refusal := onDev s (instr1 c (cmoBody 1 c a))
def execCmoFlush (c : CoreId) (a : OpC) (s : State) : Host.Outcome State Fault Refusal := onDev s (instr1 c (cmoBody 2 c a))

/-! ### CMO.RANGE (R75) -/

/-- The lines of `n` bytes from an address on, in one page, as offsets of line starts from the address's line. -/
def rangeLines (va n : Nat) : List Nat := (List.range ((va % 64 + n + 63) / 64)).map (fun i => va / 64 * 64 + i * 64)

/-- The part of a range that lies in one page: scratchpad, port-window and device pages are skipped; then rs1 and rs2 move on. -/
def cmoPage (c eff : Nat) (rs1 rs2 : Nat) : Act Unit := Act.of fun d =>
  let va := gReg d c rs1
  let len := (gReg d c rs2).toNat
  let n := min len (4096 - va.toNat % 4096)
  (translate c va (cmoKind eff)).bnd fun x =>
  (match regionOf x.pa with
    | .dram _ _ =>
      if x.mt = 2 then Act.ret ()
      else Act.each (fun l => cmoLine c eff { x with pa := x.pa / 4096 * 4096 + l % 4096 } va) (rangeLines va.toNat n)
    | .unmapped => Act.raise ((cmoKind eff).exn (cmoKind eff).acc va)
    | _ => Act.ret ()).bnd fun _ =>
  Act.upd (fun d => setG c rs2 (BitVec.ofNat 64 (len - n)) (setG c rs1 (va + BitVec.ofNat 64 n) d))

/-- The pages of a range in order; an event may be taken between pages (R75). -/
def cmoPages (c eff : Nat) (rs1 rs2 : Nat) : Nat → Nat → Act Ret
  | 0, n => Act.ret ⟨none, [], n, false⟩
  | f + 1, n => Act.of fun d =>
    if gReg d c rs2 = 0 then Act.ret ⟨none, [], n, false⟩
    else if n ≠ 0 ∧ (eligibleEv d c).isSome then Act.hold
    else (cmoPage c eff rs1 rs2).bnd fun _ => cmoPages c eff rs1 rs2 f (n + 1)

/-- Pages that a range touches. -/
def rangePages (va len : Nat) : Nat := if len = 0 then 0 else (va % 4096 + len + 4095) / 4096

def cmoRangeBody (c : Nat) (a : FmtA) : Act Ret := fun d =>
  if a.func.toNat / 4 ≠ 0 ∨ a.func.toNat = 3 ∨ a.rd ≠ 0 ∨ a.rs1 = 0 ∨ a.rs2 = 0 ∨ a.rs1 = a.rs2 then (d, .exn (exIll (a.word 0x0E)))
  else cmoPages c (cmoEff d c a.func.toNat) a.rs1.toNat a.rs2.toNat
    (rangePages (gReg d c a.rs1.toNat).toNat (gReg d c a.rs2.toNat).toNat) 0 d

def execCmoRange (c : CoreId) (a : FmtA) (s : State) : Host.Outcome State Fault Refusal :=
  onDev s (instr c (fun d => rangePages (gReg d c a.rs1.toNat).toNat (gReg d c a.rs2.toNat).toNat) (cmoRangeBody c a))

/-! ### CMO.SW (R76) -/

/-- The logical slice whose array lies in a core's tile, if one is active there. -/
def coreTileSlice (d : Dev) (c : Nat) : Option Nat :=
  ((List.range 42).find? (fun s => flg d (coreDie c) (Reg.LSLICE s) Fl.LSLICE_VALID
      && !flg d (coreDie c) (Reg.LSLICE s) Fl.LSLICE_REDIRECTED
      && fld d (coreDie c) (Reg.LSLICE s) Fl.LSLICE_PTILE == coreTile d c)).map (coreDie c * 42 + ·)

/-- Lines of an L1D set. -/
def l1dSetLines (d : Dev) (c set : Nat) : List Nat := (cacheSt d c).l1d.filter (fun k => Config.l1dSet k % 128 == set)

/-- A maintenance operation on one way of the slice (R76, R178). -/
def swSlice (a set way op : Nat) (d : Dev) : Dev :=
  match (llcSetLines d a set).find? (fun e => e.2.way == way) with
  | none => d
  | some e =>
    if op = 0 then llcClean a e.1 d
    else if op = 1 ∧ e.2.lock = none then llcDrop a e.1 d
    else llcRemove a e.1 (llcClean a e.1 d)

/-- A maintenance operation on one way of L2 (R76): a clean is performed by the line's home; an invalidation discards the
line and tells the home as a clean eviction does; a flush is an eviction. -/
def swL2 (c set way op : Nat) (d : Dev) : Dev :=
  match (l2SetLines d c set).find? (fun e => e.2.way == way) with
  | none => d
  | some e =>
    if op = 0 then
      if e.2.st.dirty then run (coreAsk c (Msg.mk' .cmoClean (.core c) e.2.home 0 (keyAddr e.1) ⟨0, keyNs e.1⟩) d) else d
    else if op = 1 then run (l2Evict c e.1 (l2Put c e.1 (some { e.2 with st := .S }) d))
    else run (l2Evict c e.1 d)

def cmoSwBody (c : Nat) (a : OpS) : Act Ret := fun d =>
  let w := gReg d c a.rs1.toNat
  let cache := bitsOf w 21 20
  let way := bitsOf w 3 0
  let set := bitsOf w 19 4
  let op := a.imm.toNat
  if a.rd ≠ 0 ∨ 3 ≤ op ∨ cache = 3 then (d, .exn (exIll (a.word 0x9)))
  else if plOf d c ≠ 3 then (d, .exn (exPriv (a.word 0x9)))
  else match cache with
    | 0 => Act.done (fun d => if op = 0 then d else match (l1dSetLines d c set)[way]? with
        | some k => updCache c (fun x => { x with l1d := x.l1d.erase k }) d
        | none => d) d
    | 1 => Act.done (swL2 c set way op) d
    | _ => Act.done (fun d => match coreTileSlice d c with | some a => swSlice a set way op d | none => d) d

def execCmoSw (c : CoreId) (a : OpS) (s : State) : Host.Outcome State Fault Refusal := onDev s (instr1 c (cmoSwBody c a))

/-! ### The store buffer (R142) -/

/-- A retired entry leaves the store buffer; entries of different lines may leave in any order, so the command names the entry. -/
def execStoreBufferDrain (c : CoreId) (i : Fin 128) (s : State) : Host.Outcome State Fault Refusal := onDev s (sbDrain c i)

end Sys2Proof.Machine
end

