-- ==== Sys2Proof/Machine/Branch.lean ====
section
/-! DEFINITION. Branches and jumps, with the predictor's tables (R77 to R79, R133 to R137). -/

namespace Sys2Proof.Machine

/-- Index of the direction predictor (R133): branch address bits 17 to 2 with the folded history. -/
def bpIndex (pc gh : Word) : Nat :=
  (bitsOf pc 17 2) ^^^ (bitsOf gh 15 0 ^^^ bitsOf gh 31 16 ^^^ bitsOf gh 47 32 ^^^ bitsOf gh 63 48)

/-- Counter of an index; 3 after a flush (R138). -/
def bpCtr (p : Pred) (i : Nat) : Nat := KMap.look 3 p.ctr i

/-- Whether a hint decides in place of the counter (R134). -/
def hintDecides (ctr : Nat) (hint : Nat) (hintEn : Bool) : Bool := hintEn && (ctr == 3 || ctr == 4) && (hint == 1 || hint == 2)

/-- The predicted direction (R133). -/
def predict (p : Pred) (pc : Word) (hint : Nat) (hintEn : Bool) : Bool :=
  let c := bpCtr p (bpIndex pc p.gh)
  if hintDecides c hint hintEn then hint == 1 else decide (4 ≤ c)

/-- A counter after training (R135). -/
def trainCtr (c : Nat) (taken : Bool) : Nat := if taken then min 7 (c + 1) else c - 1

/-- Set of a branch-target buffer entry (R136): 2,048 sets of 4 ways; index and tag bits are this model's (log entry 9). -/
def btbSet (pc : Word) : Nat := bitsOf pc 12 2

/-- Whether two branch addresses share an entry: the same set and 10-bit tag. -/
def btbSame (a b : Word) : Bool := bitsOf a 22 2 == bitsOf b 22 2

/-- Write the entry of a taken branch (R136); the oldest of a full set goes. -/
def btbPut (pc target : Word) (l : List (Word × Word)) : List (Word × Word) :=
  let rest := l.filter (fun e => !btbSame e.1 pc)
  let mine := rest.filter (fun e => btbSet e.1 == btbSet pc)
  (pc, target) :: (match mine.getLast? with
    | some v => if 4 ≤ mine.length then rest.erase v else rest
    | none => rest)

/-- Push onto the return stack of 32 entries (R137). -/
def rasPush (a : Word) (l : List Word) : List Word := (a :: l).take 32

def setPred (c : Nat) (f : Pred → Pred) (d : Dev) : Dev := updCore c (fun x => { x with pred := f x.pred }) d

/-- What a conditional branch does to the predictor (R133, R135, R136): its prediction enters the history, the counter it used
is trained, a taken branch enters the branch-target buffer, and a wrong prediction stays to be resolved. -/
def branchPredict (c : Nat) (pc target : Word) (hint : Nat) (taken : Bool) (d : Dev) : Dev :=
  let p := (coreSt d c).pred
  let i := bpIndex pc p.gh
  let pr := predict p pc hint (bitOf (sr d c Sr.BPCTL) 2)
  let p' : Pred := { p with ctr := KMap.put 3 p.ctr i (trainCtr (bpCtr p i) taken),
                            gh := (p.gh <<< 1) ||| BitVec.ofNat 64 (b2n pr),
                            btb := if taken then btbPut pc target p.btb else p.btb }
  updCore c (fun x => { x with pred := p', misp := if pr == taken then none else some (p.gh, p.ras, taken) }) d

/-- The conditions of BEQZ, BNEZ, BLTZ, BGEZ, BLEZ and BGTZ (R77). -/
def branchTaken (cond : Nat) (v : Word) : Bool :=
  match cond with
  | 0 => v == 0
  | 1 => v != 0
  | 2 => v.slt 0
  | 3 => !v.slt 0
  | 4 => v.slt 0 || v == 0
  | _ => !(v.slt 0 || v == 0)

/-- PC-relative target: PC + 4 × OFFSET19 (R77). -/
def branchTarget (pc : Word) (off : BitVec 19) : Word := pc + 4 * sext 19 off.toNat

def branchBody (c cond : Nat) (a : FmtB) : Act Ret := fun d =>
  let pc := pcOf d c
  let t := branchTarget pc a.off
  let taken := branchTaken cond (gReg d c a.rs.toNat)
  let p := (coreSt d c).pred
  let en := bitOf (sr d c Sr.BPCTL) 2
  let wrong := predict p pc a.h.toNat en != taken
  let hinted := hintDecides (bpCtr p (bpIndex pc p.gh)) a.h.toNat en
  (branchPredict c pc t a.h.toNat taken d,
    .ok ⟨some (if taken then t else pc + 4), [(3, 1), (4, b2n wrong), (5, b2n hinted)], 1, false⟩)

def execConditionalBranch (c : CoreId) (cond : Fin 6) (a : FmtB) (s : State) : Host.Outcome State Fault Refusal :=
  onDev s (instr1 c (branchBody c cond a))

def jalBody (c : Nat) (a : FmtB) : Act Ret := fun d =>
  if a.h ≠ 0 then (d, .exn (exIll (a.word 0x16)))
  else
    let pc := pcOf d c
    let t := branchTarget pc a.off
    let p (p : Pred) : Pred := { p with btb := btbPut pc t p.btb, ras := if a.rs = 1 then rasPush (pc + 4) p.ras else p.ras }
    (setG c a.rs.toNat (pc + 4) (setPred c p d), .ok ⟨some t, [], 1, false⟩)

def execJal (c : CoreId) (a : FmtB) (s : State) : Host.Outcome State Fault Refusal := onDev s (instr1 c (jalBody c a))

def jalrBody (c : Nat) (a : FmtI) : Act Ret := fun d =>
  if a.func ≠ 0 then (d, .exn (exIll (a.word 0x17)))
  else
    let pc := pcOf d c
    let t := gReg d c a.rs1.toNat + sext 14 a.imm.toNat
    if bitsOf t 1 0 ≠ 0 then (d, .exn (Exn.of 0x03 t))
    else
      let ras (l : List Word) : List Word :=
        if a.rd = 1 then rasPush (pc + 4) l else if a.rd = 0 ∧ a.rs1 = 1 then l.drop 1 else l
      (setG c a.rd.toNat (pc + 4) (setPred c (fun p => { p with btb := btbPut pc t p.btb, ras := ras p.ras }) d),
        .ok ⟨some t, [], 1, false⟩)

def execJalr (c : CoreId) (a : FmtI) (s : State) : Host.Outcome State Fault Refusal := onDev s (instr1 c (jalrBody c a))

/-- A branch that went against its prediction is resolved (R135): the history is as before it with its actual direction, the
return stack pointer is restored, and fetch goes on at the program counter that the branch left. -/
def execMisprediction (c : CoreId) (s : State) : Host.Outcome State Fault Refusal := onDev s (resolveMisp c)

end Sys2Proof.Machine
end

