-- ==== Sys2Proof/Machine/Crown.lean ====
section
/-! DEFINITION. The Crown core's instruction set (R413 to R420): address space, fetch buffer, delay slots, reservation stations, control
registers, traps and events. A command of this file is the instruction that a die's Crown executes next, at its program counter;
while the Crown sleeps, has failed, or a register of the instruction is pending, it waits, and nothing changes. -/

namespace Sys2Proof.Machine

/-! ### Registers -/

/-- A register of a Crown: c0 reads as zero (R413). -/
def crnReg (x : CrnSt) (n : Nat) : BitVec 32 := if n = 0 then 0 else KMap.look 0 x.c n

/-- Write a register: a write to c0 is discarded. -/
def crnSet (n : Nat) (v : BitVec 32) (x : CrnSt) : CrnSt := if n = 0 then x else { x with c := KMap.put 0 x.c n v }

/-- Write the even pair `n`, `n` + 1 with a 64-bit value. -/
def crnPair (n : Nat) (v : Word) (x : CrnSt) : CrnSt :=
  crnSet (n + 1) (BitVec.ofNat 32 (v.toNat / 2 ^ 32)) (crnSet n (BitVec.ofNat 32 v.toNat) x)

/-- The destination registers of a long operation, which are pending until it completes (R416): the pair of an MRD, rd of a crypto or
mailbox operation (log entry 30). -/
def Station.dests (s : Station) : List Nat :=
  match s.op with
  | .mrd => [s.rd, s.rd + 1]
  | .crypt | .mbx => [s.rd]
  | _ => []

/-- Whether a register is pending (R416). -/
def crnPending (x : CrnSt) (n : Nat) : Bool :=
  n != 0 && (List.range 4).any (fun t => match KMap.look none x.stations t with
    | some s => s.done.isNone && s.dests.contains n
    | none => false)

/-! ### Address space (R413) -/

/-- A place in a Crown's address space. -/
inductive CrnPlace where
  | rom (o : Nat)
  | sram (o : Nat)
  | flash (o : Nat)
  | dev (o : Nat)
  | none'
  deriving DecidableEq, Repr

/-- The place that `n` bytes from an address on lie in. -/
def crnPlace (a n : Nat) : CrnPlace :=
  if a + n ≤ 0x8000 then .rom a
  else if 0x10000000 ≤ a ∧ a + n ≤ 0x10040000 then .sram (a - 0x10000000)
  else if 0x20000000 ≤ a ∧ a + n ≤ 0x24000000 then .flash (a - 0x20000000)
  else if 0x30000000 ≤ a ∧ a + n ≤ 0x30010000 then .dev (a - 0x30000000)
  else .none'

/-- Whether instructions are fetched from an address. -/
def crnFetches (a : Nat) : Bool :=
  match crnPlace a 2 with
  | .rom _ | .sram _ | .flash _ => true
  | _ => false

/-- Put an element first in a list of at most `n`, least recently used last. -/
def touch {α : Type} [DecidableEq α] (n : Nat) (a : α) (l : List α) : List α := (a :: l.erase a).take n

/-- The line of an address enters the fetch buffer, and on a miss the next line after it (R418). -/
def fetchLine (a : Nat) (x : CrnSt) : CrnSt :=
  if x.fbuf.contains (a / 32) then { x with fbuf := touch 8 (a / 32) x.fbuf }
  else { x with fbuf := touch 8 (a / 32 + 1) (touch 8 (a / 32) x.fbuf) }

/-- The fetch of an instruction of `len` bytes at the program counter, and of the line of its recorded target (R418). -/
def crnFetch (len : Nat) (x : CrnSt) : CrnSt :=
  let y := fetchLine (x.pc + len - 1) (fetchLine x.pc x)
  match y.btb.find? (fun e => e.1 == x.pc) with
  | some e => fetchLine e.2 y
  | none => y

/-! ### Traps, events and the instruction step -/

/-- What an instruction comes to: the next one, a branch or jump with its slot, a direct change of the program counter, a trap, or it
waits. -/
inductive CrnRes where
  | next
  | branch (taken : Bool) (target : Nat) (annul : Bool)
  | goto (target : Nat)
  | trap (cause : Nat)
  | wait
  deriving DecidableEq, Repr

/-- Vector to SRAM with a cause (R415, R417): EPC is the instruction, or the branch whose slot it is, with DS; IE is cleared. -/
def crnTrap (cause : Nat) (x : CrnSt) : CrnSt :=
  let y := match x.slot with
    | some s => { x with epc := s.br, ds := true }
    | none => { x with epc := x.pc, ds := false }
  { y with ecause := cause, ie := false, pc := 0x10000000, slot := none }

/-- The program counter moves past an instruction of `len` bytes: to the target after a taken branch's slot. -/
def crnPast (len : Nat) (x : CrnSt) : CrnSt :=
  match x.slot with
  | some ⟨_, some t, _⟩ => { x with pc := t, slot := none }
  | _ => { x with pc := (x.pc + len) % 2 ^ 32, slot := none }

/-- A branch at the program counter: its slot comes next; a taken one enters the branch-target buffer (R418). -/
def crnBranchTo (len : Nat) (taken : Bool) (t : Nat) (annul : Bool) (x : CrnSt) : CrnSt :=
  { x with pc := (x.pc + len) % 2 ^ 32, slot := some ⟨x.pc, if taken then some t else none, annul && !taken⟩,
           btb := if taken then ((x.pc, t) :: x.btb.filter (fun e => e.1 != x.pc)).take 64 else x.btb }

/-- The end of an instruction. -/
def crnEnd (D len : Nat) (r : Dev × CrnRes) (d0 : Dev) : Dev :=
  match r.2 with
  | .next => updCrn D (crnPast len) r.1
  | .branch taken t a => updCrn D (crnBranchTo len taken t a) r.1
  | .goto t => updCrn D (fun x => { x with pc := t, slot := none }) r.1
  | .trap c => updCrn D (crnTrap c) d0
  | .wait => d0

/-- Whether a die's Crown executes instructions: it is there, has not failed and does not sleep. -/
def crnRuns (d : Dev) (D : Nat) : Bool := d.cfg.present D && !(dieSt d D).crownDown && !(crnSt d D).asleep

/-- One instruction of a Crown: `ctl` marks those that may not stand in a slot (R415), `regs` the registers it reads or writes. -/
def crnStep (D len : Nat) (ctl : Bool) (regs : List Nat) (body : Dev → Dev × CrnRes) (d : Dev) : Dev :=
  let x := crnSt d D
  let annulled := match x.slot with | some s => s.annul | none => false
  if !crnRuns d D then d
  else if annulled then updCrn D (crnPast len) d
  else if x.pc % 2 ≠ 0 then updCrn D (crnTrap 3) d
  else if !crnFetches x.pc then updCrn D (crnTrap 2) d
  else if regs.any (crnPending x) then d
  else
    let d1 := updCrn D (crnFetch len) d
    if ctl && x.slot.isSome then updCrn D (crnTrap 1) d1 else crnEnd D len (body d1) d1

/-- An instruction that only writes one register. -/
def crnAlu (D len rd : Nat) (srcs : List Nat) (f : CrnSt → BitVec 32) : Dev → Dev :=
  crnStep D len false (rd :: srcs) (fun d => (updCrn D (fun x => crnSet rd (f x) x) d, .next))

/-! ### Arithmetic (R414) -/

/-- A shift amount: the low five bits (PRESUMED, log entry 30). -/
def crnSh (b : BitVec 32) : Nat := b.toNat % 32

/-- A comparison as a register value. -/
def crnBool (b : Bool) : BitVec 32 := if b then 1 else 0

/-- The operations of C16R with OP 0. -/
def c16rOp (func : Nat) (a b : BitVec 32) : BitVec 32 :=
  match func with
  | 0 => b
  | 1 => a + b
  | 2 => a - b
  | 3 => a &&& b
  | 4 => a ||| b
  | 5 => a ^^^ b
  | 6 => a <<< crnSh b
  | _ => a >>> crnSh b

/-- C.MV to C.SRL; the halfword 0x0000 traps with cause ILLEGAL. -/
def crn16r (D func rd rs : Nat) : Dev → Dev :=
  if func = 0 ∧ rd = 0 ∧ rs = 0 then crnStep D 2 false [] (fun d => (d, .trap 1))
  else crnAlu D 2 rd [rd, rs] (fun x => c16rOp func (crnReg x rd) (crnReg x rs))

def execC16rAlu (D : Die) (func : BitVec 3) (rd rs : CReg) (s : State) : Host.Outcome State Fault Refusal :=
  onDev s (crn16r D func.toNat rd.toNat rs.toNat)
def execCAddi (D : Die) (rd : CReg) (imm : BitVec 7) (s : State) : Host.Outcome State Fault Refusal :=
  onDev s (crnAlu D 2 rd.toNat [rd.toNat] (fun x => crnReg x rd.toNat + imm.signExtend 32))
def execCLi (D : Die) (rd : CReg) (imm : BitVec 7) (s : State) : Host.Outcome State Fault Refusal :=
  onDev s (crnAlu D 2 rd.toNat [] (fun _ => imm.signExtend 32))

/-- The operations of C32R with OP 0x00; none for a FUNC that the table does not assign. -/
def c32rOp (func : Nat) (a b : BitVec 32) : Option (BitVec 32) :=
  match func with
  | 0 => some (a + b)
  | 1 => some (a - b)
  | 2 => some (a &&& b)
  | 3 => some (a ||| b)
  | 4 => some (a ^^^ b)
  | 5 => some (a <<< crnSh b)
  | 6 => some (a >>> crnSh b)
  | 7 => some (a.sshiftRight (crnSh b))
  | 8 => some (crnBool (a.slt b))
  | 9 => some (crnBool (a.ult b))
  | 10 => some (a * b)
  | 11 => some (BitVec.ofNat 32 (a.toNat * b.toNat / 2 ^ 32))
  | _ => none

def crn32r (D func rd rs1 rs2 : Nat) : Dev → Dev :=
  if 12 ≤ func then crnStep D 4 false [] (fun d => (d, .trap 1))
  else crnAlu D 4 rd [rs1, rs2] (fun x => (c32rOp func (crnReg x rs1) (crnReg x rs2)).getD 0)

def execC32rAlu (D : Die) (func : BitVec 13) (rd rs1 rs2 : CReg) (s : State) : Host.Outcome State Fault Refusal :=
  onDev s (crn32r D func.toNat rd.toNat rs1.toNat rs2.toNat)

/-- The immediate operations: IMM17 is sign-extended, and zero-extended for the logic group; LUI shifts it left by 15. -/
def c32iOp (op : CrnImm) (a : BitVec 32) (imm : BitVec 17) : BitVec 32 :=
  match op with
  | .addi => a + imm.signExtend 32
  | .andi => a &&& imm.zeroExtend 32
  | .ori => a ||| imm.zeroExtend 32
  | .xori => a ^^^ imm.zeroExtend 32
  | .slti => crnBool (a.slt (imm.signExtend 32))
  | .lui => imm.zeroExtend 32 <<< 15

def execC32iImmediate (D : Die) (op : CrnImm) (rd rs1 : CReg) (imm : BitVec 17) (s : State) : Host.Outcome State Fault Refusal :=
  onDev s (crnAlu D 4 rd.toNat [rs1.toNat] (fun x => c32iOp op (crnReg x rs1.toNat) imm))

/-! ### Loads and stores (R413, R420) -/

/-- The little-endian value of `n` bytes of a Crown's SRAM. -/
def crnSramRead (x : CrnSt) (o n : Nat) : Nat := ofBytes ((List.range n).map (fun i => KMap.look 0#8 x.sram (o + i)))

/-- Put bytes into a Crown's SRAM. -/
def crnSramPut (o : Nat) (l : List Byte) (x : CrnSt) : CrnSt :=
  { x with sram := (l.zipIdx).foldl (fun m e => KMap.put 0#8 m (o + e.2) e.1) x.sram }

/-- Whether an access of `n` bytes is misaligned: peripherals are 4-byte aligned (R413); natural alignment elsewhere (DEDUCED from cause
ALIGN, log entry 30). -/
def crnMisaligned (a n : Nat) : Bool := a % n != 0 || (match crnPlace a n with | .dev _ => a % 4 != 0 | _ => false)

/-- A load of `n` bytes. What a peripheral's register holds the spec does not say: a free value. -/
def crnLoad (D a n : Nat) (d : Dev) : Dev × Except Nat Nat :=
  if crnMisaligned a n then (d, .error 3)
  else match crnPlace a n with
    | .rom o => (d, .ok (ofBytes ((List.range n).map (fun i => Config.romByte (o + i)))))
    | .sram o => (d, .ok (crnSramRead (crnSt d D) o n))
    | .flash o => (updCrn D (fun x => { x with dcache := touch 256 (a / 32) x.dcache }) d, .ok (ofBytes (flashRead d (D / 8) o n)))
    | .dev _ => (drawn d, .ok ((Config.freeWord (draw d)).toNat % 2 ^ (8 * n)))
    | .none' => (d, .error 2)

/-- A store of `n` bytes; a peripheral's own effect is not in the spec. -/
def crnStore (D a n v : Nat) (d : Dev) : Dev × Option Nat :=
  if crnMisaligned a n then (d, some 3)
  else match crnPlace a n with
    | .sram o => (updCrn D (crnSramPut o (toBytes n v)) d, none)
    | .dev _ => (d, none)
    | _ => (d, some 2)

/-- A load of 2^lg bytes, zero-extended; 8 bytes go to an even pair. -/
def crnLd (D len lg rd base : Nat) (off : BitVec 32) : Dev → Dev :=
  if lg = 3 ∧ rd % 2 = 1 then crnStep D len false [] (fun d => (d, .trap 1))
  else crnStep D len false (if lg = 3 then [rd, rd + 1, base] else [rd, base]) (fun d =>
    match crnLoad D (crnReg (crnSt d D) base + off).toNat (2 ^ lg) d with
    | (d1, .ok v) => (updCrn D (if lg = 3 then crnPair rd (BitVec.ofNat 64 v) else crnSet rd (BitVec.ofNat 32 v)) d1, .next)
    | (d1, .error c) => (d1, .trap c))

/-- A store of 2^lg bytes; 8 bytes come from an even pair. -/
def crnSt' (D len lg rs base : Nat) (off : BitVec 32) : Dev → Dev :=
  if lg = 3 ∧ rs % 2 = 1 then crnStep D len false [] (fun d => (d, .trap 1))
  else crnStep D len false (if lg = 3 then [rs, rs + 1, base] else [rs, base]) (fun d =>
    let x := crnSt d D
    let v := (crnReg x rs).toNat + (if lg = 3 then (crnReg x (rs + 1)).toNat * 2 ^ 32 else 0)
    match crnStore D (crnReg x base + off).toNat (2 ^ lg) v d with
    | (d1, none) => (d1, .next)
    | (d1, some c) => (d1, .trap c))

def execCLw (D : Die) (rd : CReg) (imm : BitVec 7) (s : State) : Host.Outcome State Fault Refusal :=
  onDev s (crnLd D 2 2 rd.toNat 14 (BitVec.ofNat 32 (4 * imm.toNat)))
def execCSw (D : Die) (rs : CReg) (imm : BitVec 7) (s : State) : Host.Outcome State Fault Refusal :=
  onDev s (crnSt' D 2 2 rs.toNat 14 (BitVec.ofNat 32 (4 * imm.toNat)))
def execCrownLd (D : Die) (lg : Fin 4) (rd rs1 : CReg) (off : BitVec 15) (s : State) : Host.Outcome State Fault Refusal :=
  onDev s (crnLd D 4 lg rd.toNat rs1.toNat (off.signExtend 32))
def execCrownSt (D : Die) (lg : Fin 4) (rs rs1 : CReg) (off : BitVec 15) (s : State) : Host.Outcome State Fault Refusal :=
  onDev s (crnSt' D 4 lg rs.toNat rs1.toNat (off.signExtend 32))

/-! ### Branches and jumps (R415) -/

/-- The target of a branch at an address: `off` halfwords from it. -/
def crnTarget (pc : Nat) (off : Int) : Nat := (((pc : Int) + 2 * off) % 2 ^ 32).toNat

/-- A conditional branch. -/
def crnCond (D len : Nat) (regs : List Nat) (test : CrnSt → Bool) (a : Bool) (off : Int) : Dev → Dev :=
  crnStep D len true regs (fun d =>
    let x := crnSt d D
    (d, .branch (test x) (crnTarget x.pc off) a))

/-- The comparisons of C32B. -/
def crnTest (c : CrnCond) (a b : BitVec 32) : Bool :=
  match c with
  | .beq => a == b
  | .bne => a != b
  | .blt => a.slt b
  | .bge => !a.slt b
  | .bltu => a.ult b
  | .bgeu => !a.ult b

/-- A jump to an address, with a register that takes the address after the slot. -/
def crnJump (D len : Nat) (regs : List Nat) (target : CrnSt → Nat) (link : Option Nat) (slot32 : Bool) : Dev → Dev :=
  crnStep D len true regs (fun d =>
    let x := crnSt d D
    let after := BitVec.ofNat 32 (x.pc + len + (if slot32 then 4 else 2))
    ((match link with | some r => updCrn D (crnSet r after) d | none => d), .branch true (target x) false))

def execCBeqz (D : Die) (rs : CReg) (a : Bool) (off : BitVec 6) (s : State) : Host.Outcome State Fault Refusal :=
  onDev s (crnCond D 2 [rs.toNat] (fun x => crnReg x rs.toNat == 0) a off.toInt)
def execCBnez (D : Die) (rs : CReg) (a : Bool) (off : BitVec 6) (s : State) : Host.Outcome State Fault Refusal :=
  onDev s (crnCond D 2 [rs.toNat] (fun x => crnReg x rs.toNat != 0) a off.toInt)
def execCrownBranch (D : Die) (cond : CrnCond) (a : Bool) (rs1 rs2 : CReg) (off : BitVec 16) (s : State) :
    Host.Outcome State Fault Refusal :=
  onDev s (crnCond D 4 [rs1.toNat, rs2.toNat] (fun x => crnTest cond (crnReg x rs1.toNat) (crnReg x rs2.toNat)) a off.toInt)
/-- C.JR is FUNC 0; no other FUNC is assigned. -/
def crnJr (D func rs : Nat) : Dev → Dev :=
  if func = 0 then crnJump D 2 [rs] (fun x => (crnReg x rs).toNat) none false
  else crnStep D 2 false [] (fun d => (d, .trap 1))
def execCJr (D : Die) (func : BitVec 3) (rs : CReg) (s : State) : Host.Outcome State Fault Refusal :=
  onDev s (crnJr D func.toNat rs.toNat)
def execJ (D : Die) (off : BitVec 24) (s : State) : Host.Outcome State Fault Refusal :=
  onDev s (crnJump D 4 [] (fun x => crnTarget x.pc off.toInt) none false)
def execCall (D : Die) (off : BitVec 24) (slot32 : Bool) (s : State) : Host.Outcome State Fault Refusal :=
  onDev s (crnJump D 4 [15] (fun x => crnTarget x.pc off.toInt) (some 15) slot32)
def execCrownJalr (D : Die) (rd rs1 : CReg) (slot32 : Bool) (s : State) : Host.Outcome State Fault Refusal :=
  onDev s (crnJump D 4 [rd.toNat, rs1.toNat] (fun x => (crnReg x rs1.toNat).toNat) (some rd.toNat) slot32)

/-! ### Long operations (R416, R417) -/

/-- Place a long operation in a station, which reads its source registers at once; it waits while the station is in use. `act` is a
mesh access, performed as it is issued: the value read, and whether it was performed. -/
def crnLong (D : Nat) (op : CrnLong) (pair : Bool) (rd rs1 tag imm : Nat) (act : CrnSt → Dev → Dev × Word × Bool) : Dev → Dev :=
  if pair = true ∧ rd % 2 = 1 then crnStep D 4 false [] (fun d => (d, .trap 1))
  else crnStep D 4 false (if pair then [rd, rd + 1, rs1] else [rd, rs1]) (fun d =>
    let x := crnSt d D
    if (KMap.look none x.stations tag).isSome then (d, .wait)
    else
      let r := act x d
      let st : Station := ⟨op, rd, (crnReg x rs1).toNat, (crnReg x rd).toNat, imm, r.2.1, r.2.2, none⟩
      (updCrn D (fun y => { y with stations := KMap.put none y.stations tag (some st) }) r.1, .next))

/-- No access. -/
def crnNoAct (_ : CrnSt) (d : Dev) : Dev × Word × Bool := (d, 0, true)

/-- The die that CR.MSEG selects, and the offset that a mesh access names. -/
def crnMeshDie (x : CrnSt) : Nat := x.mseg % 4 * 8 + x.mseg / 4 % 8
def crnMeshOff (x : CrnSt) (rs1 imm : Nat) : Nat := ((crnReg x rs1).toNat + 8 * imm) % 2 ^ 32

/-- MRD's access (R417): partition 0 and address world 0. -/
def crnMrd (rs1 imm : Nat) (x : CrnSt) (d : Dev) : Dev × Word × Bool :=
  let o := crnMeshOff x rs1 imm
  if o % 8 ≠ 0 then (d, 0, false)
  else match regRead none (crnMeshDie x) o Who.platform d with
    | (d1, .val v) => (d1, v, true)
    | (d1, _) => (d1, 0, false)

/-- MWR's access. -/
def crnMwr (rd rs1 imm : Nat) (x : CrnSt) (d : Dev) : Dev × Word × Bool :=
  let o := crnMeshOff x rs1 imm
  let v : Word := BitVec.ofNat 64 ((crnReg x rd).toNat + (crnReg x (rd + 1)).toNat * 2 ^ 32)
  if o % 8 ≠ 0 then (d, 0, false) else let r := regWrite none (crnMeshDie x) o v Who.platform d; (r.1, 0, !r.2)

def execFread (D : Die) (rd rs1 : CReg) (tag : Fin 4) (imm : BitVec 15) (s : State) : Host.Outcome State Fault Refusal :=
  onDev s (crnLong D .fread false rd.toNat rs1.toNat tag imm.toNat crnNoAct)
def execMrd (D : Die) (rd rs1 : CReg) (tag : Fin 4) (imm : BitVec 15) (s : State) : Host.Outcome State Fault Refusal :=
  onDev s (crnLong D .mrd true rd.toNat rs1.toNat tag imm.toNat (crnMrd rs1.toNat imm.toNat))
def execMwr (D : Die) (rd rs1 : CReg) (tag : Fin 4) (imm : BitVec 15) (s : State) : Host.Outcome State Fault Refusal :=
  onDev s (crnLong D .mwr true rd.toNat rs1.toNat tag imm.toNat (crnMwr rd.toNat rs1.toNat imm.toNat))
def execCrypt (D : Die) (rd rs1 : CReg) (tag : Fin 4) (imm : BitVec 15) (s : State) : Host.Outcome State Fault Refusal :=
  onDev s (crnLong D .crypt false rd.toNat rs1.toNat tag imm.toNat crnNoAct)
def execMbx (D : Die) (rd rs1 : CReg) (tag : Fin 4) (imm : BitVec 15) (s : State) : Host.Outcome State Fault Refusal :=
  onDev s (crnLong D .mbx false rd.toNat rs1.toNat tag imm.toNat crnNoAct)
def execFprog (D : Die) (rd rs1 : CReg) (tag : Fin 4) (imm : BitVec 15) (s : State) : Host.Outcome State Fault Refusal :=
  onDev s (crnLong D .fprog false rd.toNat rs1.toNat tag imm.toNat crnNoAct)

/-- A change of `n` bytes of the flash from an offset on invalidates the data cache and the fetch buffer over them (R420). -/
def flashChanged (D o n : Nat) (d : Dev) : Dev :=
  let keep (l : Nat) : Bool := decide (l * 32 + 32 ≤ 0x20000000 + o) || decide (0x20000000 + o + n ≤ l * 32)
  updCrn D (fun x => { x with fbuf := x.fbuf.filter keep, dcache := x.dcache.filter keep }) d

/-- What a successful operation does as it completes: the flash read to SRAM of `len` bytes, the registers of an MRD, a crypto or mailbox
result in rd, the new contents of a programmed or erased range (log entry 30). -/
def stationDo (D : Nat) (s : Station) (data : BitVec 32) (len : Nat) (bytes : List Byte) (d : Dev) : Dev :=
  match s.op with
  | .fread => updCrn D (crnSramPut (s.dst % 2 ^ 18) ((flashRead d (D / 8) (s.addr % 2 ^ 26) len).take (2 ^ 18 - s.dst % 2 ^ 18))) d
  | .mrd => updCrn D (crnPair s.rd s.val) d
  | .mwr => d
  | .crypt | .mbx => updCrn D (crnSet s.rd data) d
  | .fprog =>
    let b := bytes.take (2 ^ 26 - s.addr % 2 ^ 26)
    flashChanged D (s.addr % 2 ^ 26) b.length (flashWrite (D / 8) (s.addr % 2 ^ 26) b d)

/-- A long operation completes (R416): a mesh access with 0 if it was performed, and a nonzero code that the spec does not give if it
was not; the others with the outcome that their unit reports. -/
def stationComplete (D tag out : Nat) (data : BitVec 32) (len : Nat) (bytes : List Byte) (d : Dev) : Dev :=
  match KMap.look none (crnSt d D).stations tag with
  | some s =>
    if s.done.isSome || !d.cfg.present D then d
    else
      let mesh := s.op == .mrd || s.op == .mwr
      let bad := mesh && !s.ok
      let code := if bad then Config.freeNat (draw d) % 15 + 1 else if mesh then 0 else out
      let d1 := if bad then drawn d else d
      let d2 := updCrn D (fun x => { x with stations := KMap.put none x.stations tag (some { s with done := some code }) }) d1
      if code = 0 ∨ s.op = .mrd then stationDo D s data len bytes d2 else d2
  | none => d

def execStationComplete (D : Die) (tag : Fin 4) (outcome : BitVec 4) (data : BitVec 32) (len : BitVec 18) (bytes : List (BitVec 8))
    (s : State) : Host.Outcome State Fault Refusal :=
  onDev s (stationComplete D tag outcome.toNat data len.toNat bytes)

/-- A 4-bit field of a number replaced. -/
def putNibble (w i v : Nat) : Nat := w - w / 16 ^ i % 16 * 16 ^ i + v % 16 * 16 ^ i

/-- WAITT: the outcome goes to CR.RSSTAT, and the station is free; one with nothing in it is not waited for (log entry 30). -/
def crnWaitt (D tag : Nat) : Dev → Dev :=
  crnStep D 4 false [] (fun d =>
    match KMap.look none (crnSt d D).stations tag with
    | none => (d, .next)
    | some s => match s.done with
      | none => (d, .wait)
      | some c =>
        (updCrn D (fun x => { x with rsstat := putNibble x.rsstat tag c, stations := KMap.put none x.stations tag none }) d, .next))

def execWaitt (D : Die) (tag : Fin 4) (s : State) : Host.Outcome State Fault Refusal := onDev s (crnWaitt D tag)

/-! ### Control registers (R417) -/

/-- A control register as it reads; none for a number that the table does not list. -/
def crRead (d : Dev) (D n : Nat) : Option (BitVec 32) :=
  let x := crnSt d D
  match n with
  | 0 => some (BitVec.ofNat 32 (b2n x.ie + b2n x.ds * 2 + b2n (decide (x.pc < 0x8000)) * 4))
  | 1 => some (BitVec.ofNat 32 x.epc)
  | 2 => some (BitVec.ofNat 32 x.ecause)
  | 3 => some (BitVec.ofNat 32 x.mseg)
  | 4 => some (BitVec.ofNat 32 x.rsstat)
  | 5 => some (BitVec.ofNat 32 (nowOf d D))
  | 6 => some (BitVec.ofNat 32 x.timeHi)
  | 7 => some (BitVec.ofNat 32 x.evpend)
  | _ => none

/-- A write of a control register: the time base cannot be written (R356), and ROM follows the program counter. -/
def crWrite (n : Nat) (v : BitVec 32) (x : CrnSt) : CrnSt :=
  match n with
  | 0 => { x with ie := v.getLsbD 0, ds := v.getLsbD 1 }
  | 1 => { x with epc := v.toNat }
  | 2 => { x with ecause := v.toNat }
  | 3 => { x with mseg := v.toNat % 32 }
  | 4 => { x with rsstat := v.toNat % 2 ^ 16 }
  | 7 => { x with evpend := v.toNat % 32 }
  | _ => x

/-- CSRR: a read of CR.TIME_LO latches the high half. -/
def crnCsrr (D rd n : Nat) : Dev → Dev :=
  crnStep D 4 false [rd] (fun d =>
    match crRead d D n with
    | some v => (updCrn D (fun x => crnSet rd v (if n = 5 then { x with timeHi := nowOf d D / 2 ^ 32 % 2 ^ 32 } else x)) d, .next)
    | none => (d, .trap 1))

def crnCsrw (D n rs : Nat) : Dev → Dev :=
  crnStep D 4 false [rs] (fun d =>
    if 8 ≤ n then (d, .trap 1) else (updCrn D (fun x => crWrite n (crnReg x rs) x) d, .next))

/-- FLUSHI: the fetch buffer and the branch-target buffer are emptied (R419). Every earlier store has been performed. -/
def crnFlushi (D : Nat) : Dev → Dev :=
  crnStep D 4 false [] (fun d => (updCrn D (fun x => { x with fbuf := [], btb := [] }) d, .next))

/-- SLEEP: with no event pending the Crown sleeps, until one is (R417). -/
def crnSleep (D : Nat) : Dev → Dev :=
  crnStep D 4 false [] (fun d => (updCrn D (fun x => { x with asleep := decide (x.evpend = 0) }) d, .next))

/-- RETI: to the address in CR.EPC. -/
def crnReti (D : Nat) : Dev → Dev := crnStep D 4 true [] (fun d => (d, .goto (crnSt d D).epc))

/-- TRAP: cause 5. -/
def crnTrapI (D : Nat) : Dev → Dev := crnStep D 4 true [] (fun d => (d, .trap 5))

def execCsrr (D : Die) (rd : CReg) (n : BitVec 4) (s : State) : Host.Outcome State Fault Refusal := onDev s (crnCsrr D rd.toNat n.toNat)
def execCsrw (D : Die) (n : BitVec 4) (rs : CReg) (s : State) : Host.Outcome State Fault Refusal := onDev s (crnCsrw D n.toNat rs.toNat)
def execFlushi (D : Die) (s : State) : Host.Outcome State Fault Refusal := onDev s (crnFlushi D)
def execSleep (D : Die) (s : State) : Host.Outcome State Fault Refusal := onDev s (crnSleep D)
def execReti (D : Die) (s : State) : Host.Outcome State Fault Refusal := onDev s (crnReti D)
def execTrap (D : Die) (s : State) : Host.Outcome State Fault Refusal := onDev s (crnTrapI D)

/-! ### Events and the SRAM error (R417, R420) -/

/-- The bit of CR.EVPEND of a source, in the order of the table (DEDUCED, log entry 30). -/
def CrownEvt.bit : CrownEvt → Nat
  | .mailbox => 0 | .channel => 1 | .i3c => 2 | .jtag => 3 | .timer => 4

/-- A Crown event becomes pending; it ends SLEEP, and with IE set, and not between a branch and its slot, it vectors to SRAM. -/
def crnEvent (D : Nat) (e : CrownEvt) (d : Dev) : Dev :=
  if !d.cfg.present D || (dieSt d D).crownDown then d
  else
    let d1 := crownPend D (CrownEvt.bit e) d
    if (crnSt d1 D).ie && (crnSt d1 D).slot.isNone then updCrn D (crnTrap 0) d1 else d1

def execCrownEvent (D : Die) (e : CrownEvt) (s : State) : Host.Outcome State Fault Refusal := onDev s (crnEvent D e)

/-- An uncorrectable error of the Crown's SRAM (R420): it traps with cause SRAM_UE and restarts from ROM, with its buffers and stations
empty; the die's state that the package Crown keeps a copy of stands as it is. -/
def sramUe (D : Nat) (d : Dev) : Dev :=
  if !d.cfg.present D || (dieSt d D).crownDown then d
  else updCrn D (fun x => { (crnTrap 4 x) with rom := true, pc := 0, asleep := false, stations := [], fbuf := [], btb := [], dcache := [] }) d

def execSramUe (D : Die) (s : State) : Host.Outcome State Fault Refusal := onDev s (sramUe D)

end Sys2Proof.Machine
end

