-- ==== Sys2Proof/Machine/SysReg.lean ====
section
/-! DEFINITION. System registers as MFSR and MTSR reach them (R61, R86, R95, R97, R138, R158, R161, R176, R314). The queue
commands of R226 are in Queue.lean. -/

namespace Sys2Proof.Machine

/-- The system register numbers that the manual assigns (R86, R95, R161, R176, R226). -/
def srAssigned (n : Nat) : Bool :=
  n == 0 || (decide (0x10 ≤ n) && decide (n ≤ 0x13)) || (decide (0x400 ≤ n) && decide (n ≤ 0x407)) || n == 0x410 || n == 0x411
  || n == 0x428 || (decide (0x430 ≤ n) && decide (n ≤ 0x43F)) || (decide (0x448 ≤ n) && decide (n ≤ 0x44A))
  || (decide (0x450 ≤ n) && decide (n ≤ 0x452)) || n == 0x800 || n == 0x801 || n == 0x810 || n == 0x811 || n == 0x820
  || n == 0x821 || (decide (0x841 ≤ n) && decide (n ≤ 0x846)) || n == 0xC10 || (decide (0xC41 ≤ n) && decide (n ≤ 0xC46))

/-- The copy that a number reaches at a level (R86): 0x401 to 0x406 that of the level. -/
def srHome (pl n : Nat) : Nat := if 0x401 ≤ n ∧ n ≤ 0x406 then Sr.copy pl n else n

/-- Which of the per-level registers a copy is: its offset from EPC, if it is one. -/
def srPerLevel (n : Nat) : Option Nat :=
  if 0x841 ≤ n ∧ n ≤ 0x846 then some (n - 0x841)
  else if 0xC41 ≤ n ∧ n ≤ 0xC46 then some (n - 0xC41)
  else if 0x1041 ≤ n ∧ n ≤ 0x1046 then some (n - 0x1041)
  else none

/-- Whether a number names vector state (R95). -/
def srVector (n : Nat) : Bool := decide (0x10 ≤ n) && decide (n ≤ 0x13)

/-- What MFSR reads (R86): the stored value, but for the registers that hardware computes or that read zero. -/
def srRead (d : Dev) (c n : Nat) : Word :=
  if n = Sr.CORENUM then BitVec.ofNat 64 c
  else if n = Sr.VBYTES then 512
  else if n = Sr.LLOCK ∨ n = Sr.LUNLOCK ∨ n = Sr.QCMD then 0
  else if n = Sr.BPCTL then
    setB ⟨10, 10⟩ (isSealed d (partId d c).toNat) (setF ⟨9, 8⟩ (b2n (flushMode d c)) (sr d c n))
  else if n = Sr.PMCTL then setB ⟨21, 21⟩ (dbgObserve d true) (sr d c n)
  else sr d c n

/-! ### Vector configuration (R95 to R97) -/

/-- Whether a value is valid for VCFG (R97). -/
def vcfgOk (v : Word) : Bool := bitsOf v 63 5 == 0 && !(bitOf v 4 && decide (2 ≤ bitsOf v 3 2))

/-- Write VCFG (R97). -/
def setVcfg (c : Nat) (v : Word) (d : Dev) : Dev := setSr c Sr.VCFG (if vcfgOk v then v else vcfgIll) d

/-- Group size G (R95). -/
def vG (d : Dev) (c : Nat) : Nat := 2 ^ bitsOf (sr d c Sr.VCFG) 1 0
/-- Element width SEW in bits (R95). -/
def vSew (d : Dev) (c : Nat) : Nat := 8 * 2 ^ bitsOf (sr d c Sr.VCFG) 3 2
def vAlt (d : Dev) (c : Nat) : Bool := bitOf (sr d c Sr.VCFG) 4
def vIll (d : Dev) (c : Nat) : Bool := bitOf (sr d c Sr.VCFG) 63
/-- VLMAX = 4,096 × G ÷ SEW (R96). -/
def vlMax (d : Dev) (c : Nat) : Nat := 4096 * vG d c / vSew d c
def vL (d : Dev) (c : Nat) : Nat := (sr d c Sr.VL).toNat
def vStart (d : Dev) (c : Nat) : Nat := (sr d c Sr.VSTART).toNat

/-! ### Partition register (R314) -/

/-- Whether an ISO.HYP_PART field names a partition. -/
def hypNames (d : Dev) (p : Nat) : Bool :=
  fld d 0 Reg.HYP_PART Fl.HYP_PART_NS_HYP == p || fld d 0 Reg.HYP_PART Fl.HYP_PART_S_HYP == p

/-- Whether a write of SYS.PARTID is performed (R314). -/
def partidOk (d : Dev) (c p : Nat) : Bool :=
  if plOf d c = 3 then true
  else
    let st := fld d 0 (Reg.PART p) Fl.PART_STATE
    let own := rg d (coreDie c) (Reg.CORE_OWN (coreLog c))
    let ownP := getF Fl.CORE_OWN_PART own
    let en := getB Fl.CORE_OWN_EN own
    (st == 2 || st == 3) && flg d 0 (Reg.PART p) Fl.PART_WORLD == nsOf d c
      && p != 0 && !hypNames d p
      && (!isSealed d p || (en && ownP == p))
      && (!(en && isSealed d ownP) || p == ownP)

/-- Write SYS.PARTID; a change flushes the predictor in FLUSH mode (R138, R139), in the mode of either value. -/
def setPartid (c p : Nat) (d : Dev) : Dev :=
  let was := flushMode d c
  let d1 := setSr c Sr.PARTID (BitVec.ofNat 64 p) d
  if (partId d c).toNat = p then d1
  else if was || flushMode d1 c then pmcCount c [(6, 1)] (flushPred c d1) else d1

/-! ### Writes -/

/-- Bits of the registers that MTSR stores plainly (R61, R87, R90, R161); none for registers with rules of their own. -/
def srMask (n : Nat) : Option Word :=
  match srPerLevel n with
  | some 0 => some 0xFFFFFFFFFFFFFFFF#64
  | some 1 => some 0x8FFF0FFF00001FFF#64
  | some 2 => some 0xFFFFFFFFFFFFFFFF#64
  | some 3 => some 0x7F#64
  | some 4 => some 0xFFFFFFFFFFFFF000#64
  | some _ => some 0xFFFFFFFFFFFFFFFF#64
  | none =>
    if n = Sr.FCSR then some 0x1FFF#64
    else if n = Sr.TTB0 ∨ n = Sr.TTB1 then some 0xFFFFFFFFFFFFF001#64
    else if n = Sr.HTTB ∨ n = Sr.S2TTB ∨ n = Sr.MTTB then some 0xFFFFFFFFF001#64
    else if n = Sr.EIPA ∨ n = Sr.QIMG then some 0xFFFFFFFFFFFFFFFF#64
    else if n = Sr.PFCTL then some 0x3FF3#64
    else if Sr.PMSEL0 ≤ n ∧ n < Sr.PMSEL0 + 8 then some 0x1FF#64
    else if Sr.PMC0 ≤ n ∧ n < Sr.PMC0 + 8 then some 0xFFFFFFFFFFFFFFFF#64
    else if n = Sr.VSTART then some 0xFFF#64
    else none

/-- A write of CORE.BPCTL (R138, R161): FLUSH, and a change from SHARED to FLUSH, flush the tables. -/
def bpctlWrite (c : Nat) (v : Word) (d : Dev) : Dev :=
  let was := bitsOf (sr d c Sr.BPCTL) 1 0
  let d1 := setSr c Sr.BPCTL ((sr d c Sr.BPCTL &&& ~~~7#64) ||| (v &&& 7#64)) d
  if bitOf v 3 || (was == 0 && bitsOf v 1 0 != 0) then pmcCount c [(6, 1)] (flushPred c d1) else d1

/-- A write of CORE.PMCTL (R161): EN and FRZ_OVF, OVF cleared by ones, LVL as the writer's level allows. -/
def pmctlWrite (c : Nat) (v : Word) (d : Dev) : Dev :=
  let old := sr d c Sr.PMCTL
  let lvl : Word := match plOf d c with | 3 => 0xF0000#64 | 2 => 0x70000#64 | _ => 0x30000#64
  let m : Word := 0x1000FF#64 ||| lvl
  setSr c Sr.PMCTL (((old &&& ~~~m) ||| (v &&& m)) &&& ~~~(v &&& 0xFF00#64)) d

/-- A write of SYS.PSTATE (R55): IEN, VEN and SS, and IES while NS is 0. -/
def pstateWrite (c : Nat) (v : Word) (d : Dev) : Dev :=
  let m : Word := if nsOf d c then 0x68#64 else 0x78#64
  setSr c Sr.PSTATE ((pstate d c &&& ~~~m) ||| (v &&& m)) d

/-- A write of SYS.VL (R97). -/
def vlWrite (c : Nat) (v : Word) (d : Dev) : Dev :=
  setSr c Sr.VL (if vIll d c then 0 else BitVec.ofNat 64 (min v.toNat (vlMax d c))) d

/-- A lock or unlock request (R176, R177): translated as a load; SYS.LLSTAT gets the outcome. -/
def llock (c : Nat) (op : COp) (va : Word) : Act Unit :=
  (translate c va .load).bnd fun x => Act.of fun d =>
    let who := xlWho d c x
    let out (n : Nat) : Act Unit := Act.upd (setSr c Sr.LLSTAT (BitVec.ofNat 64 n))
    match regionOf x.pa with
    | .dram _ _ =>
      if x.mt ≠ 0 then out 4
      else if !dramAdmits d who .r x.pa then (Act.upd (coreRefuse c x.pa who false)).bnd fun _ => out 4
      else
        (coreCall c { Msg.mk' op (.core c) (coreHomeAgent d c x.pa x.tl) 0 (x.pa / 64 * 64) who with
            arg := (partId d c).toNat }).bnd fun r => out r.arg
    | _ => out 4

/-- What MTSR does to a register (R86); `qcmd` is the queue command of R226. RO registers keep their values. -/
def srWrite (qcmd : Word → Act Unit) (c n : Nat) (word : Nat) (v : Word) : Act Unit := Act.of fun d =>
  match srMask n with
  | some m => Act.upd (setSr c n (v &&& m))
  | none =>
    if n = Sr.PSTATE then Act.upd (pstateWrite c v)
    else if n = Sr.VCFG then Act.upd (fun d => setSr c Sr.VL 0 (setSr c Sr.VSTART 0 (setVcfg c v d)))
    else if n = Sr.VL then Act.upd (vlWrite c v)
    else if n = Sr.BPCTL then Act.upd (bpctlWrite c v)
    else if n = Sr.PMCTL then Act.upd (pmctlWrite c v)
    else if n = Sr.PARTID then
      let p := v.toNat % 64
      if partidOk d c p then Act.upd (setPartid c p) else Act.raise (exPriv word)
    else if n = Sr.LLOCK then llock c .lock v
    else if n = Sr.LUNLOCK then llock c .unlock v
    else if n = Sr.QCMD then qcmd v
    else Act.ret ()

end Sys2Proof.Machine
end

