-- ==== Sys2Proof/Machine/System.lean ====
section
/-! DEFINITION. The SYS group but MTSR: calls, ERET, WFE, BRK, RDTIME, fences, TLBI, MFSR; the taking of an event, and the
words with an unassigned major opcode (R57, R68, R69, R80 to R83, R86, R94, R320, R354). -/

namespace Sys2Proof.Machine

/-- A SYS instruction (R80): unused fields must be zero, and the level must be reached, before its effect. -/
def sysGate (c sfunc minPl : Nat) (a : OpS) (unusedZero : Bool) (body : Act Ret) : Act Ret := fun d =>
  if !unusedZero then (d, .exn (exIll (a.word sfunc)))
  else if plOf d c < minPl then (d, .exn (exPriv (a.word sfunc)))
  else body d

/-- An exception whose cause carries IMM12 (R80, R87). -/
def callExn (code : Nat) (imm : BitVec 12) : Exn := ⟨code, 0, imm.toNat * 2 ^ 32, none, false⟩

/-- Whether the register fields of a SYS instruction are both zero. -/
def noRegs (a : OpS) : Bool := a.rd == 0 && a.rs1 == 0

def syscallBody (c : Nat) (a : OpS) : Act Ret := sysGate c 0x0 0 a (noRegs a) (Act.raise (callExn 0x14 a.imm))
def hvcallBody (c : Nat) (a : OpS) : Act Ret := sysGate c 0x1 1 a (noRegs a) (Act.raise (callExn 0x15 a.imm))
/-- MONCALL: a service in the die's down list is answered at once (R320). -/
def moncallBody (c : Nat) (a : OpS) : Act Ret :=
  sysGate c 0x2 1 a (noRegs a) (fun d =>
    if svcIsDown d (coreDie c) a.imm.toNat then Act.done (setG c 3 svcUnavailable) d
    else (d, .exn (callExn 0x16 a.imm)))
/-- ERET (R81). -/
def eretBody (c : Nat) (a : OpS) : Act Ret :=
  sysGate c 0x3 1 a ((noRegs a) && a.imm == 0) (fun d =>
    if eretIllegal d c then (d, .exn (exIll (a.word 0x3)))
    else
      let d1 := eret c d
      (d1, .ok ⟨some (pcOf d1 c), [], 1, false⟩))
/-- WFE (R82): with no event pending it waits until one is, or for 1 ms on the time base. -/
def wfeBody (c : Nat) (a : OpS) : Act Ret :=
  sysGate c 0x4 0 a ((noRegs a) && a.imm == 0) (Act.done fun d =>
    if anyPending d c then d else updCore c (fun x => { x with wfe := some (nowOf d (coreDie c) + 1000000) }) d)
def brkBody (c : Nat) (a : OpS) : Act Ret := sysGate c 0x5 0 a (noRegs a) (Act.raise (callExn 0x17 a.imm))
/-- RDTIME (R83). -/
def rdtimeBody (c : Nat) (a : OpS) : Act Ret :=
  sysGate c 0x6 0 a (a.rs1 == 0 && a.imm == 0) (Act.done fun d => setG c a.rd.toNat (rg d (coreDie c) Reg.TIM_NOW) d)

def execSyscall (c : CoreId) (a : OpS) (s : State) : Host.Outcome State Fault Refusal := onDev s (instr1 c (syscallBody c a))
def execHvcall (c : CoreId) (a : OpS) (s : State) : Host.Outcome State Fault Refusal := onDev s (instr1 c (hvcallBody c a))
def execMoncall (c : CoreId) (a : OpS) (s : State) : Host.Outcome State Fault Refusal := onDev s (instr1 c (moncallBody c a))
def execEret (c : CoreId) (a : OpS) (s : State) : Host.Outcome State Fault Refusal := onDev s (instr1 c (eretBody c a))
def execWfe (c : CoreId) (a : OpS) (s : State) : Host.Outcome State Fault Refusal := onDev s (instr1 c (wfeBody c a))
def execBrk (c : CoreId) (a : OpS) (s : State) : Host.Outcome State Fault Refusal := onDev s (instr1 c (brkBody c a))
def execRdtime (c : CoreId) (a : OpS) (s : State) : Host.Outcome State Fault Refusal := onDev s (instr1 c (rdtimeBody c a))

/-- 1 ms on the time base ends a WFE (R82). -/
def execWfeTimeout (c : CoreId) (s : State) : Host.Outcome State Fault Refusal :=
  onDev s (fun d => match (coreSt d c).wfe with
    | some t => if t ≤ nowOf d (coreDie c) then updCore c (fun x => { x with wfe := none }) d else d
    | none => d)

/-! ### Fences (R68, R69) -/

/-- A fence by its IMM12 (R68). In this order of execution every earlier load has been performed; a fence waits for the stores
and requests that are still under way. -/
def fenceBody (c imm : Nat) (rd rs1 : BitVec 5) : Act Ret :=
  let a : OpS := ⟨rd, rs1, BitVec.ofNat 12 imm⟩
  sysGate c 0x7 0 a (noRegs a) (
    if imm = 2 then (drainAll c).bnd fun _ => Act.ret Ret.plain
    else if imm = 3 then
      (drainAll c).bnd fun _ => fun d => if (cacheSt d c).miss.any (fun x => x.result.isNone) then (d, .wait) else (d, .ok Ret.plain)
    else Act.ret Ret.plain)

def execFenceLd (c : CoreId) (rd rs1 : BitVec 5) (s : State) : Host.Outcome State Fault Refusal := onDev s (instr1 c (fenceBody c 1 rd rs1))
def execFenceSt (c : CoreId) (rd rs1 : BitVec 5) (s : State) : Host.Outcome State Fault Refusal := onDev s (instr1 c (fenceBody c 2 rd rs1))
def execFenceFull (c : CoreId) (rd rs1 : BitVec 5) (s : State) : Host.Outcome State Fault Refusal := onDev s (instr1 c (fenceBody c 3 rd rs1))
def execFenceI (c : CoreId) (rd rs1 : BitVec 5) (s : State) : Host.Outcome State Fault Refusal := onDev s (instr1 c (fenceBody c 4 rd rs1))

/-! ### TLBI (R94) -/

/-- What a kind of TLBI removes among the entries of the issuer's partition and world; `w` is rs1. -/
def tlbiHit (kind : Nat) (w : Word) (t : TlbEnt) : Bool :=
  let page := bitsOf w 47 12
  let asid := bitsOf w 63 48
  match kind with
  | 0 => t.grp == 0 && decide (t.va % 2 ^ 48 / 2 ^ t.lg = page * 4096 / 2 ^ t.lg)
      && (t.asid == none || t.asid == some asid)
  | 1 => t.asid == some asid
  | 2 => t.grp == 0
  | 3 => t.s2 && decide (t.ipa / 2 ^ t.lg = page * 4096 / 2 ^ t.lg)
  | 4 => t.s2
  | 5 => t.grp == 1
  | _ => t.grp == 2

def tlbiBody (c kind minPl : Nat) (rd rs1 : BitVec 5) : Act Ret :=
  let a : OpS := ⟨rd, rs1, BitVec.ofNat 12 kind⟩
  sysGate c 0x8 minPl a (rd == 0) (Act.done fun d =>
    tlbRemove (sr d c Sr.PARTID).toNat (nsOf d c) (tlbiHit kind (gReg d c rs1.toNat)) d)

def execTlbiVa (c : CoreId) (rd rs1 : BitVec 5) (s : State) : Host.Outcome State Fault Refusal := onDev s (instr1 c (tlbiBody c 0 1 rd rs1))
def execTlbiAsid (c : CoreId) (rd rs1 : BitVec 5) (s : State) : Host.Outcome State Fault Refusal := onDev s (instr1 c (tlbiBody c 1 1 rd rs1))
def execTlbiAll (c : CoreId) (rd rs1 : BitVec 5) (s : State) : Host.Outcome State Fault Refusal := onDev s (instr1 c (tlbiBody c 2 1 rd rs1))
def execTlbiIpa (c : CoreId) (rd rs1 : BitVec 5) (s : State) : Host.Outcome State Fault Refusal := onDev s (instr1 c (tlbiBody c 3 2 rd rs1))
def execTlbiS2all (c : CoreId) (rd rs1 : BitVec 5) (s : State) : Host.Outcome State Fault Refusal := onDev s (instr1 c (tlbiBody c 4 2 rd rs1))
def execTlbiHall (c : CoreId) (rd rs1 : BitVec 5) (s : State) : Host.Outcome State Fault Refusal := onDev s (instr1 c (tlbiBody c 5 2 rd rs1))
def execTlbiMall (c : CoreId) (rd rs1 : BitVec 5) (s : State) : Host.Outcome State Fault Refusal := onDev s (instr1 c (tlbiBody c 6 3 rd rs1))

/-! ### System registers (R86) -/

/-- The checks of a system register number before a read or write of it (R86, R97): assigned, vector state enabled, level. -/
def srGate (c sfunc : Nat) (a : OpS) (unused : Bool) (body : Act Ret) : Act Ret := fun d =>
  let n := a.imm.toNat
  if !unused || !srAssigned n || (srVector n && !getB Ps.VEN (pstate d c)) then (d, .exn (exIll (a.word sfunc)))
  else if plOf d c < n / 1024 then (d, .exn (exPriv (a.word sfunc)))
  else body d

def mfsrBody (c : Nat) (a : OpS) : Act Ret :=
  srGate c 0xA a (a.rs1 == 0) (Act.done fun d => setG c a.rd.toNat (srRead d c (srHome (plOf d c) a.imm.toNat)) d)

def execMfsr (c : CoreId) (a : OpS) (s : State) : Host.Outcome State Fault Refusal := onDev s (instr1 c (mfsrBody c a))

/-! ### Events and illegal words -/

def execTakeEvent (c : CoreId) (s : State) : Host.Outcome State Fault Refusal := onDev s (takeEventStep c)

/-- A word with an unassigned major opcode (R57). -/
def execIllegalInstruction (c : CoreId) (word : BitVec 32) (s : State) : Host.Outcome State Fault Refusal :=
  onDev s (instr1 c (Act.raise (exIll word.toNat)))

end Sys2Proof.Machine
end

