-- ==== Sys2Proof/Machine/QueueIsa.lean ====
section
/-! DEFINITION. The queue instructions, the queue commands of SYS.QCMD with MTSR, and the commands of the head engine (R84, R85,
R226 to R241). -/

namespace Sys2Proof.Machine

/-- A core as a producer (R233). -/
def coreProd (d : Dev) (c : Nat) : QProd := ⟨c, false, c, (accPart d c).toNat⟩

/-- Whether the operand fields of a queue instruction are legal (R57, R84). -/
def qLegal (func : Nat) (a : OpQ) : Bool :=
  let grp (r : BitVec 5) : Bool := r == 8 || r == 16 || r == 24
  a.z == 0 && (match func with
    | 0 => a.rd == 0 && grp a.rs
    | 1 => a.rd == 0
    | 2 | 3 => grp a.rd
    | 7 => a.rs == 0
    | _ => a.rd == 0 && a.rs == 0)

/-- The 64 bytes of eight registers from `r` on. -/
def regLine (d : Dev) (c r : Nat) : LineData := wordsLine ((List.range 8).map (fun i => gReg d c (r + i)))

/-- Write 64 bytes to eight registers. -/
def setRegLine (c r : Nat) (l : LineData) (d : Dev) : Dev :=
  forAll (List.range 8) (fun i => setG c (r + i) (BitVec.ofNat 64 (lineGet l (8 * i) 8))) d

/-- The item that a push instruction puts into the tail window (R232, R233). -/
def qItem (d : Dev) (c func : Nat) (a : OpQ) : QItem :=
  match func with
  | 0 => .full (regLine d c a.rs.toNat)
  | 1 => .words [gReg d c a.rs.toNat]
  | 4 => .openMark
  | _ => .closeMark

/-- A queue instruction waits (R85): the core remembers it, and whether it waits for a slot (R229). -/
def qHold {α : Type} (c func : Nat) (a : OpQ) (q : Nat) (slot : Bool) : Act α := fun d =>
  (updCore c (fun x => { x with qwait := some ⟨func, a, q, slot⟩ }) d, .wait)

/-- The issuing tile takes a slot for the queue, or the instruction waits for one (R229). -/
def qSlot (c func : Nat) (a : OpQ) (q : Nat) : Act Unit := fun d =>
  match slotTake c q d with
  | some d1 => (d1, .ok ())
  | none => qHold c func a q true d

/-- The head engine takes part: its domain on, and a slot there (R229, R371). -/
def qHead (c func : Nat) (a : OpQ) (q : Nat) : Act Unit := fun d =>
  match queueAt d q with
  | none => (d, .ok ())
  | some s =>
    let e := headCore q s
    if !engOn d e then qHold c func a q false (domReach (coreDie e) (coreTile d e) d)
    else match slotTake e q d with
      | some d1 => (d1, .ok ())
      | none => qHold c func a q true d

/-- Deliver the head entry to a pop (R232, R238). -/
def qDeliver (c : Nat) (a : OpQ) (q : Nat) : Act Unit := fun d =>
  match popEntry q d with
  | (d1, some e) =>
    if e.poison then
      let d2 := match queueAt d1 q with
        | some s => qBump (headCore q s) Reg.QENG_ERR Fl.QENG_ERR_POISONED 1 d1
        | none => d1
      (d2, .exn (Exn.of 0x10 (BitVec.ofNat 64 q)))
    else
      let d2 := setRegLine c a.rd.toNat e.data d1
      (setG c a.rs.toNat (popStatus e) d2, .ok ())
  | (d1, none) => (d1, .ok ())

/-- The effect of a queue instruction on a queue that admits it; pushes and QDROP are ordered as STREL (R71). -/
def qEffect (c func : Nat) (a : OpQ) (q : Nat) : Act Unit := Act.of fun d =>
  let p := coreProd d c
  if func = 0 ∨ func = 1 ∨ func = 4 ∨ func = 5 then
    (drainAll c).bnd fun _ => fun d =>
      match tailPush q p (qItem d c func a) d with
      | some d1 => (noteIssue q p func d1, .ok ())
      | none => qHold c func a q false d
  else
    (if func = 6 then drainAll c else Act.ret ()).bnd fun _ =>
    (qHead c func a q).bnd fun _ => fun d =>
      match queueAt d q with
      | none => (d, .ok ())
      | some s =>
        if func = 6 then (dropPacket q d, .ok ())
        else if func = 7 then (setG c a.rd.toNat (qstatWord s p) d, .ok ())
        else match popWhy s with
          | none => qDeliver c a q d
          | some w =>
            if func = 3 then (setG c a.rs.toNat (BitVec.ofNat 64 (w * 2)) d, .ok ())
            else qHold c func a q false d

/-- A queue instruction (R84, R85, R239): legal fields, an earlier group of a checked pair matched, the queue fault, a slot, its
effect. -/
def qBody (func c : Nat) (a : OpQ) : Act Ret := fun d =>
  if !qLegal func a then (d, .exn (exIll (a.word func)))
  else
    let rq := gReg d c a.rq.toNat
    let q := bitsOf rq 17 0
    ((pairGate c).bnd fun _ =>
     (Act.of fun d => Act.need (!qFaults d func rq (nsOf d c) (coreProd d c)) (Exn.of 0x13 (BitVec.ofNat 64 q))).bnd fun _ =>
     (qSlot c func a q).bnd fun _ =>
     (qEffect c func a q).bnd fun _ => Act.ret ⟨none, [], 1, true⟩) d

def execQpush (c : CoreId) (a : OpQ) (s : State) : Host.Outcome State Fault Refusal := onDev s (instr1 c (qBody 0 c a))
def execQpushW (c : CoreId) (a : OpQ) (s : State) : Host.Outcome State Fault Refusal := onDev s (instr1 c (qBody 1 c a))
def execQpop (c : CoreId) (a : OpQ) (s : State) : Host.Outcome State Fault Refusal := onDev s (instr1 c (qBody 2 c a))
def execQpopNb (c : CoreId) (a : OpQ) (s : State) : Host.Outcome State Fault Refusal := onDev s (instr1 c (qBody 3 c a))
def execQopen (c : CoreId) (a : OpQ) (s : State) : Host.Outcome State Fault Refusal := onDev s (instr1 c (qBody 4 c a))
def execQclose (c : CoreId) (a : OpQ) (s : State) : Host.Outcome State Fault Refusal := onDev s (instr1 c (qBody 5 c a))
def execQdrop (c : CoreId) (a : OpQ) (s : State) : Host.Outcome State Fault Refusal := onDev s (instr1 c (qBody 6 c a))
def execQstat (c : CoreId) (a : OpQ) (s : State) : Host.Outcome State Fault Refusal := onDev s (instr1 c (qBody 7 c a))

/-- A queue instruction that waits is executed again (R85, R232): it completes if it now can, else it waits on. -/
def resumeWait (c : Nat) (push : Bool) (d : Dev) : Dev :=
  match (coreSt d c).qwait with
  | some w => if push == (w.func != 2) then instr1 c (qBody w.func c w.a) d else d
  | none => d

def execWaitingQpushComplete (c : CoreId) (s : State) : Host.Outcome State Fault Refusal := onDev s (resumeWait c true)
def execWaitingQpopComplete (c : CoreId) (s : State) : Host.Outcome State Fault Refusal := onDev s (resumeWait c false)

/-! ### The head engine's commands -/

def execRingRefill (q : BitVec 18) (s : State) : Host.Outcome State Fault Refusal := onDev s (refillOne q.toNat)

/-- PACK_WAIT has passed since the last word: the packer releases its partial entry (R236). -/
def packTimeout (q : Nat) (d : Dev) : Dev :=
  match queueAt d q with
  | some s =>
    (match s.pack with
     | some p => if p.at' + s.packWait * 10 ≤ nowOf d (qDie q) then overflowCheck q (packRelease q d) else d
     | none => d)
  | none => d

def execPackWaitRelease (q : BitVec 18) (s : State) : Host.Outcome State Fault Refusal := onDev s (packTimeout q.toNat)

/-- A packet has been open for OPEN_TO microseconds and is closed with TIMEOUT (R234). -/
def openTimeout (q : Nat) (d : Dev) : Dev :=
  match queueAt d q with
  | some s =>
    (match s.opened with
     | some o => if s.openTo ≠ 0 ∧ o.at' + s.openTo * 1000 ≤ nowOf d (qDie q) then forceClose q true d else d
     | none => d)
  | none => d

def execOpenToTimeout (q : BitVec 18) (s : State) : Host.Outcome State Fault Refusal := onDev s (openTimeout q.toNat)

/-! ### SYS.QCMD and MTSR (R86, R226) -/

/-- Read the 64 bytes of a descriptor image, translated as loads (R226). -/
def readImage (c : Nat) (va : Word) : Act Nat :=
  (Act.map (fun i => loadVal c (va + BitVec.ofNat 64 (8 * i)) 8) (List.range 8)).bnd fun l =>
    Act.ret (l.foldr (fun x a => x + a * 2 ^ 64) 0)

/-- A write of SYS.QCMD (R226): ordered as STREL; its outcome goes to SYS.QCMDSTAT. -/
def qcmdRun (c : Nat) (v : Word) : Act Unit :=
  (drainAll c).bnd fun _ => Act.of fun d =>
  (if bitsOf v 19 18 = 0 then readImage c (sr d c Sr.QIMG) else Act.ret 0).bnd fun img => fun d =>
    let o := qOutcome d v img (plOf d c) (nsOf d c) (accPart d c).toNat
    let q := bitsOf v 17 0
    let d1 := if o ≠ 0 then d else if bitsOf v 19 18 = 0 then qCreate q (imageQueue img) d else qDestroy q d
    (setSr c Sr.QCMDSTAT (BitVec.ofNat 64 o) d1, .ok ())

/-- MTSR (R80, R86). -/
def mtsrBody (c : Nat) (a : OpS) : Act Ret :=
  srGate c 0xB a (a.rd == 0) (fun d =>
    ((srWrite (qcmdRun c) c (srHome (plOf d c) a.imm.toNat) (a.word 0xB) (gReg d c a.rs1.toNat)).bnd fun _ =>
      Act.ret Ret.plain) d)

def execMtsr (c : CoreId) (a : OpS) (s : State) : Host.Outcome State Fault Refusal := onDev s (instr1 c (mtsrBody c a))

/-- The rows that are writes of one system register (R138, R176, R226): MTSR with that number. -/
def execBpctlFlush (c : CoreId) (rs1 : BitVec 5) (s : State) : Host.Outcome State Fault Refusal :=
  onDev s (instr1 c (mtsrBody c ⟨0, rs1, 0x820⟩))
def execLlock (c : CoreId) (rs1 : BitVec 5) (s : State) : Host.Outcome State Fault Refusal :=
  onDev s (instr1 c (mtsrBody c ⟨0, rs1, 0x448⟩))
def execLunlock (c : CoreId) (rs1 : BitVec 5) (s : State) : Host.Outcome State Fault Refusal :=
  onDev s (instr1 c (mtsrBody c ⟨0, rs1, 0x449⟩))
def execCreate (c : CoreId) (rs1 : BitVec 5) (s : State) : Host.Outcome State Fault Refusal :=
  onDev s (instr1 c (mtsrBody c ⟨0, rs1, 0x451⟩))
def execDestroy (c : CoreId) (rs1 : BitVec 5) (s : State) : Host.Outcome State Fault Refusal :=
  onDev s (instr1 c (mtsrBody c ⟨0, rs1, 0x451⟩))

end Sys2Proof.Machine
end

