-- ==== Sys2Proof/Machine/VecOps.lean ====
section
/-! DEFINITION. Vector operands and what every vector instruction does around its elements: register groups and elements, the
active elements, operand forms, element types, and the vector configuration fault (R95 to R105). -/

namespace Sys2Proof.Machine

/-! ### Groups and elements (R96) -/

/-- The contents of a group of `g` registers from register `r` on, element 0 in the least significant bits. -/
def vGroup (d : Dev) (c r g : Nat) : Nat := (List.range g).foldl (fun x j => x + ((vReg d c (r + j)).toNat <<< (4096 * j))) 0

/-- Replace the contents of a group. -/
def setGroup (c r g x : Nat) (d : Dev) : Dev :=
  forAll (List.range g) (fun j => setV c (r + j) (BitVec.ofNat 4096 (x >>> (4096 * j)))) d

/-- Element `i` of width `w` of a group's contents. -/
def elt (x w i : Nat) : Nat := (x >>> (i * w)) % 2 ^ w

/-- A group's contents with element `i` replaced. -/
def putElt (x w i v : Nat) : Nat := x - (elt x w i <<< (i * w)) + ((v % 2 ^ w) <<< (i * w))

/-- Write elements, given as (index, value), of a group. -/
def writeElts (c r g w : Nat) (l : List (Nat × Nat)) (d : Dev) : Dev :=
  setGroup c r g (l.foldl (fun x e => putElt x w e.1 e.2) (vGroup d c r g)) d

/-! ### Active elements (R99, R100) -/

/-- Whether the mask selects an element. -/
def vMaskBit (d : Dev) (c : Nat) (mask : BitVec 3) (i : Nat) : Bool := mask == 0#3 || (kReg d c mask.toNat).getLsbD i

/-- Elements from VSTART up to VL, whatever the mask. -/
def bodyElts (d : Dev) (c : Nat) : List Nat := (List.range (vL d c)).filter (fun i => decide (vStart d c ≤ i))

/-- The active elements, in order. -/
def activeElts (d : Dev) (c : Nat) (mask : BitVec 3) : List Nat := (bodyElts d c).filter (vMaskBit d c mask)

/-- A vector instruction completes: VSTART becomes 0 (R100). -/
def vDone (c : Nat) (f : Dev → Dev) : Act Ret := fun d => (setSr c Sr.VSTART 0 (f d), .ok Ret.plain)

/-! ### Operand forms (R105) -/

/-- The second source of a computational instruction: element `i` of a group of elements of width `w`, or one value for all. -/
inductive Src2 where
  | grp (x : Nat)
  | one (v : Nat)
  deriving DecidableEq, Repr

def Src2.at' (s : Src2) (w i : Nat) : Nat := match s with | .grp x => elt x w i | .one v => v % 2 ^ w

/-- The 5-bit signed immediate in the vs2 field, as a pattern of `w` bits. -/
def vImm (a : FmtV) (w : Nat) : Nat := (sext 5 a.vs2.toNat).toNat % 2 ^ w

/-- The form of an instruction, VFUNC[7:6]. -/
def vForm (a : FmtV) : Nat := a.vfunc.toNat / 64
/-- The operation, VFUNC[5:0]. -/
def vMem (a : FmtV) : Nat := a.vfunc.toNat % 64

/-- The second source by form, for an element format where the form is VF. -/
def src2 (d : Dev) (c : Nat) (a : FmtV) (f : Option SF.Fmt) : Src2 :=
  match vForm a with
  | 0 => .grp (vGroup d c a.vs2.toNat (vG d c))
  | 1 => .one (gReg d c a.vs2.toNat).toNat
  | 2 => .one (match f with | some f => fVal d c f a.vs2 | none => 0)
  | _ => .one (vImm a 64)

/-! ### Element types (R101) -/

/-- The floating-point type that VCFG selects. -/
def vFmt (d : Dev) (c : Nat) : Option SF.Fmt :=
  match vSew d c, vAlt d c with
  | 64, false => some SF.b64
  | 32, false => some SF.b32
  | 16, false => some SF.b16
  | 16, true => some SF.bf16
  | 8, false => some SF.e4m3
  | 8, true => some SF.e5m2
  | _, _ => none

/-- The type of the arithmetic group VEC1 and of the floating-point reductions and compares. -/
def vArith (d : Dev) (c : Nat) : Option SF.Fmt :=
  match vFmt d c with
  | some f => if f = SF.b64 ∨ f = SF.b32 ∨ f = SF.b16 then some f else none
  | none => none

/-- The type of twice the width that a narrower type widens to (R108). -/
def vWide (f : SF.Fmt) : Option SF.Fmt :=
  if f = SF.e4m3 ∨ f = SF.e5m2 then some SF.b16
  else if f = SF.b16 ∨ f = SF.bf16 then some SF.b32
  else if f = SF.b32 then some SF.b64
  else none

/-! ### The vector configuration fault (R104) -/

/-- Whether two register ranges (first, count) overlap. -/
def overlaps (a b : Nat × Nat) : Bool := decide (a.1 < b.1 + b.2) && decide (b.1 < a.1 + a.2)

/-- What an instruction asks of its operands: whether the element type is accepted; a group that may be too large, as
(register, size); its group operands in the order vd, vs1, vs2, as (register, size); whether a forbidden overlap exists, and of
which destination; whether VSTART must be zero. -/
structure VNeed where
  ty : Bool
  wide : List (Nat × Nat)
  grps : List (Nat × Nat)
  clash : Option Nat
  start0 : Bool
  deriving DecidableEq, Repr

/-- The fault with a reason and a register number. -/
def exVec (reason reg : Nat) : Exn := Exn.of 0x12 (BitVec.ofNat 64 (reason + reg * 256))

/-- The first condition that is met, in the order of R104's table. -/
def vCheck (d : Dev) (c : Nat) (n : VNeed) : Option Exn :=
  if vIll d c then some (exVec 1 0)
  else if !n.ty then some (exVec 3 0)
  else match n.wide.find? (fun x => decide (8 < x.2)) with
    | some x => some (exVec 6 x.1)
    | none =>
      match n.grps.find? (fun x => x.1 % x.2 != 0) with
      | some x => some (exVec 2 x.1)
      | none =>
        match n.clash with
        | some r => some (exVec 5 r)
        | none => if n.start0 && vStart d c != 0 then some (exVec 4 0) else none

/-- A vector instruction: illegal while VEN is 0 or its encoding is not assigned (R55, R57), then the configuration fault, then
its effect (R89). -/
def vInstr (c : Nat) (op : Nat) (a : FmtV) (legal : Dev → Bool) (need : Dev → VNeed) (body : Act Ret) : Act Ret := fun d =>
  if !getB Ps.VEN (pstate d c) || !legal d then (d, .exn (exIll (a.word op)))
  else match vCheck d c (need d) with
    | some e => (d, .exn e)
    | none => body d

/-- The group operand that the vs2 field names in form VV; none in the other forms. -/
def vs2Grp (a : FmtV) (g : Nat) : List (Nat × Nat) := if vForm a = 0 then [(a.vs2.toNat, g)] else []

/-- The destination's register number when it overlaps a source. -/
def clashOf (vd : Nat × Nat) (srcs : List (Nat × Nat)) : Option Nat := if srcs.any (overlaps vd) then some vd.1 else none

/-! ### Pace tokens (R129) -/

/-- Tokens of a computational instruction: beats of one register operation, times G. -/
def vTokens (per : Nat) (c : Nat) (d : Dev) : Nat := per * vG d c

end Sys2Proof.Machine
end

