-- ==== Sys2Proof/Machine/VecArith.lean ====
section
/-! DEFINITION. The computational vector groups VEC0 to VEC3: integer and floating-point elements, widening, narrowing,
conversion, dot products, reductions and permutes (R105 to R111), and VCONF (R98). -/

namespace Sys2Proof.Machine

/-! ### VCONF (R98) -/

/-- VL after VCONF: VLMAX, or the smaller of AVL and VLMAX; 0 for an invalid configuration. -/
def vconfVl (d : Dev) (c : Nat) (full : Bool) (avl : Nat) : Nat :=
  if vIll d c then 0 else if full then vlMax d c else min avl (vlMax d c)

def vconfBody (c : Nat) (a : OpV) : Act Ret := fun d =>
  let full := a.mask.getLsbD 0
  if !getB Ps.VEN (pstate d c) || decide (1 < a.mask.toNat) || (full && a.vs1 != 0#5) then (d, .exn (exIll ((a.fmt 0).word 0x27)))
  else
    let d1 := setVcfg c (gReg d c a.vs2.toNat) d
    let vl := vconfVl d1 c full (gReg d c a.vs1.toNat).toNat
    (setSr c Sr.VSTART 0 (setG c a.vd.toNat (BitVec.ofNat 64 vl) (setSr c Sr.VL (BitVec.ofNat 64 vl) d1)), .ok Ret.plain)

def execVconf (c : CoreId) (a : OpV) (s : State) : Host.Outcome State Fault Refusal := onDev s (instr1 c (vconfBody c a))

/-! ### Integer elements (R106) -/

/-- A signed integer as a pattern of `w` bits. -/
def patOf (w : Nat) (i : Int) : Nat := (i % (2 ^ w : Nat)).toNat

/-- Quotient and remainder of R59 at width `w`: by zero −1 (all ones) and the dividend. -/
def vDivs (w x y : Nat) : Nat × Nat :=
  let a := signedOf w x
  let b := signedOf w y
  if y % 2 ^ w = 0 then (2 ^ w - 1, x % 2 ^ w) else (patOf w (a.tdiv b), patOf w (a.tmod b))
def vDivu (w x y : Nat) : Nat × Nat :=
  if y % 2 ^ w = 0 then (2 ^ w - 1, x % 2 ^ w) else ((x % 2 ^ w) / (y % 2 ^ w), (x % 2 ^ w) % (y % 2 ^ w))

/-- Clamp to the range of a signed element type. -/
def clampS (w : Nat) (i : Int) : Nat := patOf w (max (-((2 ^ (w - 1) : Nat) : Int)) (min (((2 ^ (w - 1) : Nat) : Int) - 1) i))
/-- Clamp to the range of an unsigned element type. -/
def clampU (w : Nat) (i : Int) : Nat := (max 0 (min (((2 ^ w : Nat) : Int) - 1) i)).toNat

/-- The result of a member of VEC0 at width `w` for elements of vs1 and of the second source; none where no member has the
number. -/
def vec0Op (w m x y : Nat) : Option Nat :=
  let M := 2 ^ w
  let sh := y % w
  let sx := signedOf w x
  let sy := signedOf w y
  match m with
  | 0 => some ((x + y) % M)
  | 1 => some ((x + M - y % M) % M)
  | 2 => some ((y + M - x % M) % M)
  | 3 => some (x &&& y)
  | 4 => some (x ||| y)
  | 5 => some (x ^^^ y)
  | 6 => some ((x <<< sh) % M)
  | 7 => some (x >>> sh)
  | 8 => some (patOf w (sx / (2 ^ sh : Nat)))
  | 9 => some (if sx < sy then x else y)
  | 10 => some (if sx < sy then y else x)
  | 11 => some (if x < y then x else y)
  | 12 => some (if x < y then y else x)
  | 13 => some ((x * y) % M)
  | 14 => some (patOf w (sx * sy / (M : Nat)))
  | 15 => some (x * y / M)
  | 16 => some (vDivs w x y).1
  | 17 => some (vDivu w x y).1
  | 18 => some (vDivs w x y).2
  | 19 => some (vDivu w x y).2
  | 20 => some (clampS w (sx + sy))
  | 21 => some (clampU w (x + y : Nat))
  | 22 => some (clampS w (sx - sy))
  | 23 => some (clampU w ((x : Int) - y))
  | 25 => some y
  | _ => none

/-- Whether a member of VEC0 exists in a form: VV, VX and VI, but VRSUB VX and VI only; VMV has vs1 = v0 (R105). -/
def vec0Legal (a : FmtV) : Bool :=
  (vec0Op 8 (vMem a) 0 0).isSome && (vForm a != 2) && !(vMem a == 2 && vForm a == 0) && !(vMem a == 25 && a.vs1 != 0#5)

/-- What a group operation of G registers on each side asks for. -/
def needSame (c : Nat) (a : FmtV) (ty : Dev → Bool) (d : Dev) : VNeed :=
  ⟨ty d, [], [(a.vd.toNat, vG d c), (a.vs1.toNat, vG d c)] ++ vs2Grp a (vG d c), none, false⟩

def vec0Body (c : Nat) (a : FmtV) : Act Ret :=
  vInstr c 0x20 a (fun _ => vec0Legal a) (needSame c a (fun _ => true)) fun d =>
    let w := vSew d c
    let x := vGroup d c a.vs1.toNat (vG d c)
    let y := src2 d c a none
    vDone c (writeElts c a.vd.toNat (vG d c) w ((activeElts d c a.mask).map (fun i =>
      (i, (vec0Op w (vMem a) (elt x w i) (y.at' w i)).getD 0)))) d

/-- Tokens of a VEC0 instruction: a division is stated at SEW 64 only. -/
def vec0Tokens (c : Nat) (a : FmtV) (d : Dev) : Nat :=
  if 16 ≤ vMem a ∧ vMem a ≤ 19 then vTokens (if vSew d c = 64 then 128 else Config.vecTokens (0x2000 + vMem a) (vSew d c)) c d
  else vTokens 8 c d

def execVec0Integer (c : CoreId) (a : FmtV) (s : State) : Host.Outcome State Fault Refusal :=
  onDev s (instr c (vec0Tokens c a) (vec0Body c a))

/-- VMERGE (R106): vs2[i] where the mask bit is 1 and vs1[i] where it is 0, from VSTART to VL − 1. -/
def vmergeBody (c : Nat) (form : BitVec 2) (b : OpV) : Act Ret :=
  let a := b.fmt (form.toNat * 64 + 24)
  vInstr c 0x20 a (fun _ => form != 2#2) (needSame c a (fun _ => true)) fun d =>
    let w := vSew d c
    let x := vGroup d c a.vs1.toNat (vG d c)
    let y := src2 d c a none
    vDone c (writeElts c a.vd.toNat (vG d c) w ((bodyElts d c).map (fun i =>
      (i, if vMaskBit d c a.mask i then y.at' w i else elt x w i)))) d

def execVmerge (c : CoreId) (form : BitVec 2) (a : OpV) (s : State) : Host.Outcome State Fault Refusal :=
  onDev s (instr c (vTokens 8 c) (vmergeBody c form a))

/-! ### Floating-point elements (R102, R107) -/

/-- Result and flags of a member of VEC1: elements of vs1, of the second source and of vd. -/
def vec1Op (f : SF.Fmt) (rm m x y z : Nat) : Option (Nat × Nat) :=
  match m with
  | 10 => some (SF.fma f rm false false x y z)
  | 11 => some (SF.fma f rm false true x y z)
  | 12 => some (SF.fma f rm true false x y z)
  | 13 => some (SF.fma f rm true true x y z)
  | _ => fpOp f rm m x y

/-- Whether a member of VEC1 rounds. -/
def vec1Rounds (m : Nat) : Bool := decide (m ≤ 4) || decide (10 ≤ m)

/-- Forms VV and VF; VFSQRT in VV with vs2 = v0; an illegal rounding mode (R102). -/
def vec1Legal (c : Nat) (a : FmtV) (d : Dev) : Bool :=
  (vec1Op SF.b64 0 (vMem a) 0 0 0).isSome && (vForm a == 0 || vForm a == 2)
    && !(vMem a == 4 && (vForm a != 0 || a.vs2 != 0#5)) && !(vec1Rounds (vMem a) && rmBad d c)

/-- Write results with flags: the flags of every one are ORed (R102). -/
def writeFp (c r g w : Nat) (l : List (Nat × Nat × Nat)) (d : Dev) : Dev :=
  writeElts c r g w (l.map (fun e => (e.1, e.2.1))) (orFlags c (l.foldl (fun x e => x ||| e.2.2) 0) d)

def vec1Body (c : Nat) (a : FmtV) : Act Ret :=
  vInstr c 0x21 a (vec1Legal c a) (needSame c a (fun d => (vArith d c).isSome)) fun d =>
    let w := vSew d c
    let f := (vArith d c).getD SF.b64
    let x := vGroup d c a.vs1.toNat (vG d c)
    let y := src2 d c a (some f)
    let z := vGroup d c a.vd.toNat (vG d c)
    vDone c (writeFp c a.vd.toNat (vG d c) w ((activeElts d c a.mask).map (fun i =>
      (i, (vec1Op f (fcsrRm d c) (vMem a) (elt x w i) (y.at' w i) (elt z w i)).getD (0, 0))))) d

def vec1Tokens (c : Nat) (a : FmtV) (d : Dev) : Nat :=
  if vMem a = 3 ∨ vMem a = 4 then vTokens (if vSew d c = 64 then 128 else Config.vecTokens (0x2100 + vMem a) (vSew d c)) c d
  else vTokens 8 c d

def execVec1FloatingPoint (c : CoreId) (a : FmtV) (s : State) : Host.Outcome State Fault Refusal :=
  onDev s (instr c (vec1Tokens c a) (vec1Body c a))

/-! ### Widening and narrowing (R108) -/

/-- The wide result of a widening member on elements of width `w`. -/
def widenOp (w m x y : Nat) : Option Nat :=
  let sx := signedOf w x
  let sy := signedOf w y
  match m with
  | 0 => some (patOf (2 * w) (sx + sy))
  | 1 => some (x % 2 ^ w + y % 2 ^ w)
  | 2 => some (patOf (2 * w) (sx - sy))
  | 3 => some (patOf (2 * w) (sx * sy))
  | 4 => some ((x % 2 ^ w) * (y % 2 ^ w))
  | _ => none

/-- The narrow result of a narrowing member: an element of width 2 × `w` shifted by the low log2(`w`) bits of the shift
operand (R106). -/
def narrowOp (w m x y : Nat) : Option Nat :=
  match m with
  | 8 => some ((x >>> (y % w)) % 2 ^ w)
  | 9 => some (patOf w (signedOf (2 * w) x / (2 ^ (y % w) : Nat)))
  | _ => none

def isWiden (a : FmtV) : Bool := decide (vMem a ≤ 4)

def vwnLegal (a : FmtV) : Bool :=
  if isWiden a then vForm a == 0 || vForm a == 1
  else (vMem a == 8 || vMem a == 9) && vForm a != 2

/-- A widening destination overlaps no source group; a narrowing destination only the lowest G registers of its source. -/
def vwnNeed (c : Nat) (a : FmtV) (d : Dev) : VNeed :=
  let g := vG d c
  let vd := a.vd.toNat
  let vs1 := a.vs1.toNat
  let ty := decide (vSew d c ≤ 32)
  if isWiden a then
    ⟨ty, [(vd, 2 * g)], [(vd, 2 * g), (vs1, g)] ++ vs2Grp a g, clashOf (vd, 2 * g) ((vs1, g) :: vs2Grp a g), false⟩
  else ⟨ty, [(vs1, 2 * g)], [(vd, g), (vs1, 2 * g)] ++ vs2Grp a g, clashOf (vd, g) [(vs1 + g, g)], false⟩

def vwnBody (c : Nat) (a : FmtV) : Act Ret :=
  vInstr c 0x22 a (fun _ => vwnLegal a) (vwnNeed c a) fun d =>
    let w := vSew d c
    let g := vG d c
    let y := src2 d c a none
    if isWiden a then
      let x := vGroup d c a.vs1.toNat g
      vDone c (writeElts c a.vd.toNat (2 * g) (2 * w) ((activeElts d c a.mask).map (fun i =>
        (i, (widenOp w (vMem a) (elt x w i) (y.at' w i)).getD 0)))) d
    else
      let x := vGroup d c a.vs1.toNat (2 * g)
      vDone c (writeElts c a.vd.toNat g w ((activeElts d c a.mask).map (fun i =>
        (i, (narrowOp w (vMem a) (elt x (2 * w) i) (y.at' w i)).getD 0)))) d

def execVec2WidenNarrow (c : CoreId) (a : FmtV) (s : State) : Host.Outcome State Fault Refusal :=
  onDev s (instr c (fun d => vTokens (Config.vecTokens (0x2200 + vMem a) (vSew d c)) c d) (vwnBody c a))

/-! ### Conversions (R103, R108) -/

/-- The SAT rule of R103 for a destination of 8 bits. -/
def satOf (dst : SF.Fmt) (sat : Bool) : Option Bool := if dst.width = 8 then some sat else none

/-- Conversion of an integer to a floating-point type, with SAT for an 8-bit destination. -/
def intToFmt (f : SF.Fmt) (rm : Nat) (sat : Bool) (i : Int) : Nat × Nat :=
  let r := SF.ofInt f rm i
  if r.2 / SF.OF % 2 = 1 ∧ f.width = 8 then ((if sat then f.maxBits (decide (i < 0)) else f.infBits (decide (i < 0))), r.2) else r

/-- Result and flags of a conversion member: source element, the type of VCFG. -/
def cvtOp (f : SF.Fmt) (rm m : Nat) (sat : Bool) (x : Nat) : Option (Nat × Nat) :=
  let w := f.width
  match m with
  | 16 => some (intToFmt f rm sat (signedOf w x))
  | 17 => some (intToFmt f rm sat ((x % 2 ^ w : Nat) : Int))
  | 18 => some (SF.toIntBits f rm true w x)
  | 19 => some (SF.toIntBits f rm false w x)
  | 20 => (vWide f).map (fun g => SF.cvt f g rm none x)
  | 21 => (vWide f).map (fun g => SF.cvt g f rm (satOf f sat) x)
  | _ => none

/-- VFUNC[7] is SAT and VFUNC[6] must be 0 (R105). -/
def vcvtLegal (c : Nat) (a : FmtV) (d : Dev) : Bool :=
  decide (16 ≤ vMem a) && decide (vMem a ≤ 21) && a.vfunc.toNat / 64 % 2 == 0 && !rmBad d c

def vcvtNeed (c : Nat) (a : FmtV) (d : Dev) : VNeed :=
  let g := vG d c
  let vd := a.vd.toNat
  let vs1 := a.vs1.toNat
  let wide : Bool := match vFmt d c with | some f => (vWide f).isSome | none => false
  if vMem a = 20 then ⟨wide, [(vd, 2 * g)], [(vd, 2 * g), (vs1, g)], clashOf (vd, 2 * g) [(vs1, g)], false⟩
  else if vMem a = 21 then ⟨wide, [(vs1, 2 * g)], [(vd, g), (vs1, 2 * g)], clashOf (vd, g) [(vs1 + g, g)], false⟩
  else ⟨true, [], [(vd, g), (vs1, g)], none, false⟩

def vcvtBody (c : Nat) (a : FmtV) : Act Ret :=
  vInstr c 0x22 a (vcvtLegal c a) (vcvtNeed c a) fun d =>
    let w := vSew d c
    let g := vG d c
    let f := (vFmt d c).getD SF.b64
    let gs := if vMem a = 21 then 2 * g else g
    let ws := if vMem a = 21 then 2 * w else w
    let gd := if vMem a = 20 then 2 * g else g
    let wd := if vMem a = 20 then 2 * w else w
    let x := vGroup d c a.vs1.toNat gs
    vDone c (writeFp c a.vd.toNat gd wd ((activeElts d c a.mask).map (fun i =>
      (i, (cvtOp f (fcsrRm d c) (vMem a) (a.vfunc.getLsbD 7) (elt x ws i)).getD (0, 0))))) d

def execVec2Convert (c : CoreId) (a : FmtV) (s : State) : Host.Outcome State Fault Refusal :=
  onDev s (instr c (fun d => vTokens (Config.vecTokens (0x2200 + vMem a) (vSew d c)) c d) (vcvtBody c a))

/-! ### Dot products (R109) -/

/-- A floating-point dot product: the exact sum of the accumulator and the products, rounded once to binary32; an infinity
times zero raises NV and, like a NaN operand, gives the canonical NaN. -/
def dotFp (rm acc : Nat) (ps : List (SF.Val × SF.Val)) : Nat × Nat :=
  let z := SF.unpack SF.b32 acc
  let bad := ps.any (fun p => !p.1.isNan && !p.2.isNan && (SF.mulV p.1 p.2).isNone)
  if bad || z.isNan || ps.any (fun p => p.1.isNan || p.2.isNan) then (SF.b32.nan, if bad then SF.NV else 0)
  else SF.sumList SF.b32 rm (z :: ps.filterMap (fun p => SF.mulV p.1 p.2))

/-- The products of a lane: values of `n` parts of each lane in two formats. -/
def laneVals (n : Nat) (f1 f2 : SF.Fmt) (x y : Nat) : List (SF.Val × SF.Val) :=
  (List.range n).map (fun j => (SF.unpack f1 (elt x (32 / n) j), SF.unpack f2 (elt y (32 / n) j)))

/-- Result and flags of a dot-product member: accumulator and lanes. -/
def dotOp (rm m : Nat) (t1 t2 : Bool) (acc x y : Nat) : Nat × Nat :=
  let ty (b : Bool) : SF.Fmt := if b then SF.e5m2 else SF.e4m3
  match m with
  | 24 => dotFp rm acc (laneVals 2 SF.bf16 SF.bf16 x y)
  | 25 => dotFp rm acc (laneVals 4 (ty t1) (ty t2) x y)
  | 26 => (patOf 32 ((List.range 4).foldl (fun s j => s + signedOf 8 (elt x 8 j) * signedOf 8 (elt y 8 j)) (acc : Int)), 0)
  | _ => (((List.range 4).foldl (fun s j => s + elt x 8 j * elt y 8 j) acc) % 2 ^ 32, 0)

/-- VDOT.FP8 takes its types from VFUNC[7:6]; the others need zero there. -/
def vdotLegal (c : Nat) (a : FmtV) (d : Dev) : Bool :=
  decide (24 ≤ vMem a) && decide (vMem a ≤ 27) && (vMem a == 25 || vForm a == 0) && !(decide (vMem a ≤ 25) && rmBad d c)

def vdotBody (c : Nat) (a : FmtV) : Act Ret :=
  vInstr c 0x22 a (vdotLegal c a)
    (fun d => ⟨vSew d c == 32, [], [(a.vd.toNat, vG d c), (a.vs1.toNat, vG d c), (a.vs2.toNat, vG d c)], none, false⟩) fun d =>
    let g := vG d c
    let x := vGroup d c a.vs1.toNat g
    let y := vGroup d c a.vs2.toNat g
    let z := vGroup d c a.vd.toNat g
    vDone c (writeFp c a.vd.toNat g 32 ((activeElts d c a.mask).map (fun i =>
      (i, dotOp (fcsrRm d c) (vMem a) (a.vfunc.getLsbD 6) (a.vfunc.getLsbD 7) (elt z 32 i) (elt x 32 i) (elt y 32 i))))) d

def execVdot (c : CoreId) (a : FmtV) (s : State) : Host.Outcome State Fault Refusal :=
  onDev s (instr c (vTokens 8 c) (vdotBody c a))

/-! ### Reductions (R110) -/

/-- The combination of an integer reduction: 0 sum, 1 and 2 signed, 3 and 4 unsigned minimum and maximum, 5 to 7 logic. -/
def redInt (w m a b : Nat) : Nat :=
  match m with
  | 0 => (a + b) % 2 ^ w
  | 1 => (vec0Op w 9 a b).getD 0
  | 2 => (vec0Op w 10 a b).getD 0
  | 3 => (vec0Op w 11 a b).getD 0
  | 4 => (vec0Op w 12 a b).getD 0
  | 5 => a &&& b
  | 6 => a ||| b
  | _ => a ^^^ b

/-- One level of the tree of VFSUM.TREE: neighbours are added; a present child without a present neighbour passes on. -/
def treeLevel (f : SF.Fmt) (rm : Nat) : List (Option Nat) → List (Option Nat) × Nat
  | a :: b :: r =>
    let t := treeLevel f rm r
    match a, b with
    | some x, some y => let s := SF.add f rm x y; (some s.1 :: t.1, s.2 ||| t.2)
    | some x, none => (some x :: t.1, t.2)
    | none, y => (y :: t.1, t.2)
  | l => (l, 0)

/-- The tree over positions 0 to 2^n − 1: its sum and flags. -/
def treeSum (f : SF.Fmt) (rm : Nat) : Nat → List (Option Nat) → Option Nat × Nat
  | 0, l => (l.headD none, 0)
  | n + 1, l =>
    let t := treeLevel f rm l
    let r := treeSum f rm n t.1
    (r.1, t.2 ||| r.2)

/-- Fold values with an operation that raises flags. -/
def foldFp (op : Nat → Nat → Nat × Nat) (z : Nat) (l : List Nat) : Nat × Nat :=
  l.foldl (fun a x => let r := op a.1 x; (r.1, a.2 ||| r.2)) (z, 0)

/-- The value that a reduction writes to vd[0], with flags: `z` is vs2[0], `act` the active elements as (index, value). -/
def redOp (w : Nat) (f : SF.Fmt) (rm m n z : Nat) (act : List (Nat × Nat)) : Nat × Nat :=
  if act.isEmpty then (z, 0)
  else match m with
    | 8 =>
      let t := treeSum f rm 12 ((List.range n).map (fun i => (act.find? (fun e => e.1 == i)).map (·.2)))
      match t.1 with
      | some v => let r := SF.add f rm z v; (r.1, t.2 ||| r.2)
      | none => (z, 0)
    | 9 => foldFp (SF.add f rm) z (act.map (·.2))
    | 10 => foldFp (SF.minMax f false) z (act.map (·.2))
    | 11 => foldFp (SF.minMax f true) z (act.map (·.2))
    | _ => ((act.map (·.2)).foldl (redInt w m) z, 0)

def redLegal (c : Nat) (a : FmtV) (d : Dev) : Bool :=
  decide (vMem a ≤ 11) && vForm a == 0 && !((vMem a == 8 || vMem a == 9) && rmBad d c)

def redBody (c : Nat) (a : FmtV) : Act Ret :=
  vInstr c 0x23 a (redLegal c a)
    (fun d => ⟨decide (vMem a < 8) || (vArith d c).isSome, [], [(a.vs1.toNat, vG d c)], none, true⟩) fun d =>
    let w := vSew d c
    let x := vGroup d c a.vs1.toNat (vG d c)
    let z := elt (vGroup d c a.vs2.toNat 1) w 0
    let r := redOp w ((vArith d c).getD SF.b64) (fcsrRm d c) (vMem a) (vlMax d c) z
      ((activeElts d c a.mask).map (fun i => (i, elt x w i)))
    vDone c (writeFp c a.vd.toNat 1 w [(0, r)]) d

/-- Tokens of a reduction: VFSUM.ORD is stated at SEW 64 only. -/
def redTokens (c : Nat) (a : FmtV) (d : Dev) : Nat :=
  vTokens (if vMem a = 9 then (if vSew d c = 64 then 192 else Config.vecTokens 0x2309 (vSew d c)) else 8) c d

def execReduction (c : CoreId) (a : FmtV) (s : State) : Host.Outcome State Fault Refusal :=
  onDev s (instr c (redTokens c a) (redBody c a))

/-! ### Permutes (R111) -/

/-- OFF of a slide: the VX register, or the VI immediate read as unsigned. -/
def slideOff (d : Dev) (c : Nat) (a : FmtV) : Nat := if vForm a = 1 then (gReg d c a.vs2.toNat).toNat else a.vs2.toNat

/-- What a permute asks for: vd overlaps neither vs1 nor, in form VV, vs2. -/
def permNeed (c : Nat) (a : FmtV) (start0 : Bool) (d : Dev) : VNeed :=
  let g := vG d c
  let srcs := (a.vs1.toNat, g) :: vs2Grp a g
  ⟨true, [], (a.vd.toNat, g) :: srcs, clashOf (a.vd.toNat, g) srcs, start0⟩

def vslideupBody (c : Nat) (form : BitVec 2) (b : OpV) : Act Ret :=
  let a := b.fmt (form.toNat * 64 + 16)
  vInstr c 0x23 a (fun _ => form == 1#2 || form == 3#2) (permNeed c a false) fun d =>
    let w := vSew d c
    let off := slideOff d c a
    let x := vGroup d c a.vs1.toNat (vG d c)
    vDone c (writeElts c a.vd.toNat (vG d c) w (((activeElts d c a.mask).filter (fun i => decide (off ≤ i))).map (fun i =>
      (i, elt x w (i - off))))) d

def execVslideup (c : CoreId) (form : BitVec 2) (a : OpV) (s : State) : Host.Outcome State Fault Refusal :=
  onDev s (instr c (vTokens 8 c) (vslideupBody c form a))

def vslidedownBody (c : Nat) (form : BitVec 2) (b : OpV) : Act Ret :=
  let a := b.fmt (form.toNat * 64 + 17)
  vInstr c 0x23 a (fun _ => form == 1#2 || form == 3#2) (permNeed c a false) fun d =>
    let w := vSew d c
    let off := slideOff d c a
    let x := vGroup d c a.vs1.toNat (vG d c)
    vDone c (writeElts c a.vd.toNat (vG d c) w ((activeElts d c a.mask).map (fun i =>
      (i, if i + off < vlMax d c then elt x w (i + off) else 0)))) d

def execVslidedown (c : CoreId) (form : BitVec 2) (a : OpV) (s : State) : Host.Outcome State Fault Refusal :=
  onDev s (instr c (vTokens 8 c) (vslidedownBody c form a))

def vpermxBody (c : Nat) (b : OpV) : Act Ret :=
  let a := b.fmt 18
  vInstr c 0x23 a (fun _ => true) (permNeed c a false) fun d =>
    let w := vSew d c
    let x := vGroup d c a.vs1.toNat (vG d c)
    let y := vGroup d c a.vs2.toNat (vG d c)
    vDone c (writeElts c a.vd.toNat (vG d c) w ((activeElts d c a.mask).map (fun i =>
      (i, if elt y w i < vlMax d c then elt x w (elt y w i) else 0)))) d

def execVpermx (c : CoreId) (a : OpV) (s : State) : Host.Outcome State Fault Refusal :=
  onDev s (instr c (vTokens 32 c) (vpermxBody c a))

def vcompressBody (c : Nat) (b : OpV) : Act Ret :=
  let a := b.fmt 19
  vInstr c 0x23 a (fun _ => true) (permNeed c a true) fun d =>
    let w := vSew d c
    let x := vGroup d c a.vs1.toNat (vG d c)
    vDone c (writeElts c a.vd.toNat (vG d c) w ((activeElts d c a.mask).zipIdx.map (fun e => (e.2, elt x w e.1)))) d

def execVcompress (c : CoreId) (a : OpV) (s : State) : Host.Outcome State Fault Refusal :=
  onDev s (instr c (vTokens 32 c) (vcompressBody c a))

end Sys2Proof.Machine
end

