-- ==== Sys2Proof/Machine/VecMask.lean ====
section
/-! DEFINITION. The vector compares, the mask members and the moves of VEC7 (R112, R113). -/

namespace Sys2Proof.Machine

/-! ### Compares (R112) -/

/-- An integer compare: EQ, NE, LT, LTU, LE, LEU, GT, GTU. -/
def vmsOp (w m x y : Nat) : Bool :=
  let sx := signedOf w x
  let sy := signedOf w y
  match m with
  | 0 => x == y
  | 1 => x != y
  | 2 => decide (sx < sy)
  | 3 => decide (x < y)
  | 4 => decide (sx ≤ sy)
  | 5 => decide (x ≤ y)
  | 6 => decide (sy < sx)
  | _ => decide (y < x)

/-- A floating-point compare with its flags: 16 FEQ, 17 FNE, 18 FLT, 19 FLE. -/
def vmfOp (f : SF.Fmt) (m x y : Nat) : Bool × Nat :=
  match m with
  | 16 => SF.cmp f 0 x y
  | 17 => let r := SF.cmp f 0 x y; (!r.1, r.2)
  | 18 => SF.cmp f 1 x y
  | _ => SF.cmp f 2 x y

def vcmpLegal (a : FmtV) : Bool :=
  a.vd.toNat / 8 == 0 && (if vMem a < 8 then vForm a != 2 else decide (16 ≤ vMem a) && decide (vMem a ≤ 19) && (vForm a == 0 || vForm a == 2))

/-- Set bits of a mask register, given as (index, value). -/
def writeMask (c k : Nat) (l : List (Nat × Bool)) (d : Dev) : Dev :=
  setK c k (BitVec.ofNat 4096 (l.foldl (fun x e => putElt x 1 e.1 (b2n e.2)) (kReg d c k).toNat)) d

def vcmpBody (c : Nat) (a : FmtV) : Act Ret :=
  vInstr c 0x26 a (fun _ => vcmpLegal a)
    (fun d => ⟨decide (vMem a < 8) || (vArith d c).isSome, [], (a.vs1.toNat, vG d c) :: vs2Grp a (vG d c), none, false⟩) fun d =>
    let w := vSew d c
    let f := (vArith d c).getD SF.b64
    let x := vGroup d c a.vs1.toNat (vG d c)
    let y := src2 d c a (some f)
    let rs : List (Nat × Bool × Nat) := (activeElts d c a.mask).map (fun i =>
      (i, if vMem a < 8 then (vmsOp w (vMem a) (elt x w i) (y.at' w i), 0) else vmfOp f (vMem a) (elt x w i) (y.at' w i)))
    vDone c (fun d => writeMask c a.vd.toNat (rs.map (fun e => (e.1, e.2.1)))
      (orFlags c (rs.foldl (fun x e => x ||| e.2.2) 0) d)) d

def execVectorCompare (c : CoreId) (a : FmtV) (s : State) : Host.Outcome State Fault Refusal :=
  onDev s (instr c (vTokens 8 c) (vcmpBody c a))

/-! ### Mask members (R112) -/

/-- What a mask member asks for: a valid configuration and VSTART = 0. -/
def maskNeed (_ : Dev) : VNeed := ⟨true, [], [], none, true⟩

/-- The mask register that a field names. -/
def kNum (r : BitVec 5) : Nat := r.toNat % 8

/-- A bit that a mask member makes of two bits: 32 AND, 33 OR, 34 XOR, 35 AND NOT, 36 NOT of the first. -/
def maskOp (m : Nat) (x y : Bool) : Bool :=
  match m with
  | 32 => x && y
  | 33 => x || y
  | 34 => x != y
  | 35 => x && !y
  | _ => !x

/-- MASK must be zero, and vs2 for KNOT. -/
def maskLegal (a : FmtV) : Bool :=
  decide (32 ≤ vMem a) && decide (vMem a ≤ 36) && vForm a == 0 && a.mask == 0#3 && !(vMem a == 36 && a.vs2 != 0#5)

def maskBody (c : Nat) (a : FmtV) : Act Ret :=
  vInstr c 0x26 a (fun _ => maskLegal a) maskNeed fun d =>
    let x := kReg d c (kNum a.vs1)
    let y := kReg d c (kNum a.vs2)
    vDone c (writeMask c (kNum a.vd) ((List.range (vL d c)).map (fun i => (i, maskOp (vMem a) (x.getLsbD i) (y.getLsbD i))))) d

def execMaskMembers (c : CoreId) (a : FmtV) (s : State) : Host.Outcome State Fault Refusal :=
  onDev s (instr c (fun d => Config.vecTokens (0x2600 + vMem a) (vSew d c)) (maskBody c a))

/-- The indices of the set bits of a mask register below VL. -/
def maskSet (d : Dev) (c k : Nat) : List Nat := (List.range (vL d c)).filter (fun i => (kReg d c k).getLsbD i)

def kpopcBody (c : Nat) (b : OpV) : Act Ret :=
  vInstr c 0x26 (b.fmt 40) (fun _ => b.mask == 0#3) maskNeed fun d =>
    vDone c (setG c b.vd.toNat (BitVec.ofNat 64 (maskSet d c (kNum b.vs1)).length)) d

def execKpopc (c : CoreId) (a : OpV) (s : State) : Host.Outcome State Fault Refusal :=
  onDev s (instr c (fun d => Config.vecTokens 0x2628 (vSew d c)) (kpopcBody c a))

def kfirstBody (c : Nat) (b : OpV) : Act Ret :=
  vInstr c 0x26 (b.fmt 41) (fun _ => b.mask == 0#3) maskNeed fun d =>
    vDone c (setG c b.vd.toNat (match maskSet d c (kNum b.vs1) with | i :: _ => BitVec.ofNat 64 i | [] => 0xFFFFFFFFFFFFFFFF#64)) d

def execKfirst (c : CoreId) (a : OpV) (s : State) : Host.Outcome State Fault Refusal :=
  onDev s (instr c (fun d => Config.vecTokens 0x2629 (vSew d c)) (kfirstBody c a))

/-! ### Moves (R113) -/

/-- A move of VEC7 with MASK = 0: the group operand it reads or writes. -/
def moveInstr (c vfunc : Nat) (b : OpV) (ty : Dev → Bool) (grp : BitVec 5) (body : Act Ret) : Act Ret :=
  vInstr c 0x27 (b.fmt vfunc) (fun _ => b.mask == 0#3) (fun d => ⟨ty d, [], [(grp.toNat, vG d c)], none, false⟩) body

/-- The types that an f register holds (R61). -/
def moveTy (c : Nat) (d : Dev) : Bool := decide (16 ≤ vSew d c)

def vmvgsBody (c : Nat) (b : OpV) : Act Ret := moveInstr c 1 b (fun _ => true) b.vs1 fun d =>
  vDone c (setG c b.vd.toNat (sext (vSew d c) (elt (vReg d c b.vs1.toNat).toNat (vSew d c) 0))) d

def vmvsgBody (c : Nat) (b : OpV) : Act Ret := moveInstr c 2 b (fun _ => true) b.vd fun d =>
  vDone c (writeElts c b.vd.toNat 1 (vSew d c) [(0, (gReg d c b.vs1.toNat).toNat)]) d

def vfmvfsBody (c : Nat) (b : OpV) : Act Ret := moveInstr c 3 b (moveTy c) b.vs1 fun d =>
  let f := (vFmt d c).getD SF.b64
  vDone c (setFR c b.vd.toNat (box f (elt (vReg d c b.vs1.toNat).toNat (vSew d c) 0))) d

def vfmvsfBody (c : Nat) (b : OpV) : Act Ret := moveInstr c 4 b (moveTy c) b.vd fun d =>
  let f := (vFmt d c).getD SF.b64
  vDone c (writeElts c b.vd.toNat 1 (vSew d c) [(0, fVal d c f b.vs1)]) d

/-- VID writes the active elements: those from VSTART to VL − 1, since MASK must be 0 (R100, R113). -/
def vidBody (c : Nat) (b : OpV) : Act Ret := moveInstr c 5 b (fun _ => true) b.vd fun d =>
  vDone c (writeElts c b.vd.toNat (vG d c) (vSew d c) ((bodyElts d c).map (fun i => (i, i)))) d

def execVmvGS (c : CoreId) (a : OpV) (s : State) : Host.Outcome State Fault Refusal :=
  onDev s (instr c (fun d => Config.vecTokens 0x2701 (vSew d c)) (vmvgsBody c a))
def execVmvSG (c : CoreId) (a : OpV) (s : State) : Host.Outcome State Fault Refusal :=
  onDev s (instr c (fun d => Config.vecTokens 0x2702 (vSew d c)) (vmvsgBody c a))
def execVfmvFS (c : CoreId) (a : OpV) (s : State) : Host.Outcome State Fault Refusal :=
  onDev s (instr c (fun d => Config.vecTokens 0x2703 (vSew d c)) (vfmvfsBody c a))
def execVfmvSF (c : CoreId) (a : OpV) (s : State) : Host.Outcome State Fault Refusal :=
  onDev s (instr c (fun d => Config.vecTokens 0x2704 (vSew d c)) (vfmvsfBody c a))
def execVid (c : CoreId) (a : OpV) (s : State) : Host.Outcome State Fault Refusal :=
  onDev s (instr c (vTokens 8 c) (vidBody c a))

end Sys2Proof.Machine
end

