-- ==== Sys2Proof/Machine/VecMem.lean ====
section
/-! DEFINITION. The vector memory instructions: unit-stride, strided and whole-register forms, gathers with their packets,
scatters and home-executed scatter reductions (R114 to R128). -/

namespace Sys2Proof.Machine

/-- An element of a vector memory instruction: its index, its place among the active elements, its virtual address. -/
structure VItem where
  i : Nat
  pos : Nat
  va : Word
  deriving DecidableEq, Repr

/-- The elements of an instruction from their indices and address function. -/
def vItems (l : List Nat) (f : Nat → Word) : List VItem := l.zipIdx.map (fun e => ⟨e.1, e.2, f e.1⟩)

/-- Translate and check one element of `n` bytes (R115 to R117): alignment, translation, then the access fault of a page or
region where vector elements are not permitted. -/
def elemXl (c : Nat) (k : Kind) (n : Nat) (va : Word) : Act Xl :=
  (needAligned k va n).bnd fun _ =>
  (translate c va k).bnd fun x =>
  (Act.of fun d => Act.check (match regionOf x.pa with
    | .reg _ _ | .portWin _ _ => some (k.exn k.acc va)
    | _ => accessCheck d x n (k == Kind.store) va va)).bnd fun _ => Act.ret x

/-- Translate elements in order up to the first that meets a cause: those before it, and its index and exception. -/
def xlElems (c : Nat) (k : Kind) (n : Nat) : List VItem → Act (List (VItem × Xl) × Option (Nat × Exn))
  | [] => Act.ret ([], none)
  | v :: r => fun d =>
    match elemXl c k n v.va d with
    | (d1, .ok x) => ((xlElems c k n r).bnd fun p => Act.ret ((v, x) :: p.1, p.2)) d1
    | (d1, .exn e) => (d1, .ok ([], some (v.i, e)))
    | (d1, .wait) => (d1, .wait)

/-- The exception of element `k`: VSTART names it (R117). -/
def elemFault {α : Type} (c k : Nat) (e : Exn) : Act α := fun d => (setSr c Sr.VSTART (BitVec.ofNat 64 k) d, .exn e)

/-- Retirement of a vector memory instruction of `n` active elements (R100, R158). -/
def vMemDone (c n : Nat) (sync : Bool) : Act Ret := fun d => (setSr c Sr.VSTART 0 d, .ok ⟨none, [(0xE, n)], 1, sync⟩)

/-! ### Element loads and stores through L1D and L2 -/

/-- Loads of elements in order; `put` writes the element's destination. -/
def loadElems (c n : Nat) (put : Nat → Nat → Dev → Dev) : List VItem → Act Unit
  | [] => Act.ret ()
  | v :: r => fun d =>
    match ((elemXl c .load n v.va).bnd fun x => loadPart c x n v.va false) d with
    | (d1, .ok w) => loadElems c n put r (put v.i w d1)
    | (d1, .exn e) => elemFault c v.i e d1
    | (d1, .wait) => (d1, .wait)

/-- The elements that a waiting store has performed already. -/
def performed (d : Dev) (c : Nat) : List Nat := (coreSt d c).vprog.getD []

/-- Run a store whose performed elements are `done` when it ends: a store that waits keeps them, any other end forgets them. -/
def keepProg {α : Type} (c : Nat) (x : Act (List Nat × Option α)) : Act α := fun d =>
  match x d with
  | (d1, .ok (_, some a)) => (updCore c (fun y => { y with vprog := none }) d1, .ok a)
  | (d1, .ok (l, none)) => (updCore c (fun y => { y with vprog := some l }) d1, .wait)
  | (d1, .exn e) => (updCore c (fun y => { y with vprog := none }) d1, .exn e)
  | (d1, .wait) => (d1, .wait)

/-- Stores of elements in order: what has been performed, and whether all were. -/
def storeElems (c n : Nat) (get : Nat → Nat) : List VItem → List Nat → Act (List Nat × Option Unit)
  | [], l => Act.ret (l, some ())
  | v :: r, l => fun d =>
    if l.contains v.i then storeElems c n get r l d
    else match ((elemXl c .store n v.va).bnd fun x => storePart c x n (get v.i) v.va) d with
      | (d1, .ok _) => storeElems c n get r (v.i :: l) d1
      | (d1, .exn e) => elemFault c v.i e d1
      | (d1, .wait) => (d1, .ok (l, none))

/-! ### Packets to homes (R121 to R126) -/

/-- Where an element is served outside the core (R121). -/
def elemHome (d : Dev) (c : Nat) (x : Xl) : Agent :=
  match regionOf x.pa with
  | .spad D s _ => .home (D * 42 + s)
  | _ => if x.mt ≠ 0 then .port (portOf d x.pa).1 else coreHomeAgent d c x.pa x.tl

/-- Split a list into pieces of at most `n`; `f` bounds the number of pieces. -/
def chunks {α : Type} (n : Nat) : Nat → List α → List (List α)
  | 0, _ => []
  | f + 1, l => if l.isEmpty then [] else l.take n :: chunks n f (l.drop n)

/-- The packets of a batch: elements by home and world, in element order, at most 16 to a packet. -/
def packetsOf (d : Dev) (c : Nat) (l : List (VItem × Xl)) : List (Agent × List (VItem × Xl)) :=
  let key (e : VItem × Xl) : Agent × Bool := (elemHome d c e.2, e.2.ns)
  (l.map key).eraseDups.flatMap (fun k => (chunks 16 64 (l.filter (fun e => key e == k))).map (fun g => (k.1, g)))

/-- A packet (R200): slot j holds the j-th element. -/
def packetMsg (d : Dev) (c : Nat) (op : COp) (lg : Nat) (home : Agent) (g : List (VItem × Xl)) (data : Nat → Nat)
    (at' : Option Atom) : Msg :=
  let es : List Elem := g.zipIdx.map (fun e => ⟨e.2, e.1.2.pa, lg, e.1.1.pos % 64, BitVec.ofNat 64 (data e.1.1.i)⟩)
  match g with
  | e :: _ => { Msg.mk' op (.core c) home 0 e.2.pa (xlWho d c e.2) with elems := es, atom := at' }
  | [] => Msg.mk' op (.core c) home 0 0 (xlWho d c ⟨0, 0, false, false⟩)

/-- Send a packet and take its response; wait while it has not come. A response left over from a gather that an event stopped is
dropped. -/
def packetCall (c : Nat) (m : Msg) : Act Msg := fun d =>
  let mine (x : Miss) : Bool := x.req.op == m.op && x.req.elems == m.elems && x.result.isSome
  let stale (x : Miss) : Bool := x.req.op == .gather && x.req.elems != m.elems && x.result.isSome
  let take (d : Dev) : Option (Dev × Msg) :=
    match takeFirst mine (cacheSt d c).miss with
    | some (⟨_, _, _, some r⟩, rest) => some (updCache c (fun y => { y with miss := rest }) d, r)
    | _ => none
  match take d with
  | some (d1, r) => (d1, .ok r)
  | none =>
    let d0 := updCache c (fun y => { y with miss := y.miss.filter (fun x => !stale x) }) d
    let d1 := run (coreAsk c m d0)
    match take d1 with
    | some (d2, r) => (d2, .ok r)
    | none => (d1, .wait)

/-- Whether the core's own firewall check admits an element (R325). -/
def elemAdmits (d : Dev) (c : Nat) (need : Need) (x : Xl) : Bool :=
  match regionOf x.pa with | .dram _ _ => dramAdmits d (xlWho d c x) need x.pa | _ => true

/-- The values of a batch of gathered elements, by index, none where poisoned: served in the core where its L2 holds the line, at
homes otherwise (R121, R123, R127). -/
def gatherBatch (c n : Nat) (l : List (VItem × Xl)) : Act (List (Nat × Option Nat)) :=
  (Act.each (fun (e : VItem × Xl) => drainOver c e.2.pa n e.2.ns) l).bnd fun _ =>
  Act.of fun d =>
    let local' (e : VItem × Xl) : Bool := (l2Line d c (lineKey e.2.pa e.2.ns)).isSome && e.2.mt == 0
    let here : List (VItem × Xl) := l.filter local'
    let gone : List (VItem × Xl) := (l.filter (fun e => !local' e)).filter (fun e => !elemAdmits d c .r e.2)
    let away : List (VItem × Xl) := (l.filter (fun e => !local' e)).filter (fun e => elemAdmits d c .r e.2)
    (Act.upd (forAll gone (fun e d => coreRefuse c e.2.pa (xlWho d c e.2) false d))).bnd fun _ =>
    (Act.map (fun (e : VItem × Xl) => fun d =>
      match loadPart c e.2 n e.1.va false d with
      | (d1, .ok v) => (d1, .ok (e.1.i, some v))
      | (d1, .exn _) => (d1, .ok (e.1.i, none))
      | (d1, .wait) => (d1, .wait)) here).bnd fun a =>
    (Act.map (fun (p : Agent × List (VItem × Xl)) =>
      (Act.of fun d => packetCall c (packetMsg d c .gather (Nat.log2 n) p.1 p.2 (fun _ => 0) none)).bnd fun r =>
      Act.ret (p.2.zipIdx.map (fun e =>
        (e.1.1.i, if r.arg / 2 ^ e.2 % 2 = 1 then none else (r.elems[e.2]?).map (fun w => w.data.toNat % 2 ^ (8 * n)))))) (packetsOf d c away)).bnd fun b =>
    Act.ret (a ++ b.flatten ++ gone.map (fun e => (e.1.i, none)))

/-- The exception of the lowest poisoned element of a batch, if any (R117, R119). -/
def poisonOf (l : List (VItem × Xl)) (vs : List (Nat × Option Nat)) : Option (Nat × Exn) :=
  (l.find? (fun e => vs.contains (e.1.i, none))).map (fun e => (e.1.i, exPoison e.1.va))

/-- Gathers batch by batch (R122): writes each batch's elements below the first cause; answers that cause. -/
def gatherAll (c n : Nat) (put : Nat → Nat → Dev → Dev) : List (List VItem) → Act (Option (Nat × Exn))
  | [] => Act.ret none
  | b :: r =>
    (xlElems c .load n b).bnd fun p =>
    (gatherBatch c n p.1).bnd fun vs =>
    let bad : Option (Nat × Exn) := match poisonOf p.1 vs with | some e => some e | none => p.2
    let ok (i : Nat) : Bool := match bad with | some e => decide (i < e.1) | none => true
    (Act.upd (forAll (vs.filter (fun e => ok e.1)) (fun e d => match e.2 with | some v => put e.1 v d | none => d))).bnd fun _ =>
    match bad with
    | some e => Act.ret (some e)
    | none => gatherAll c n put r

/-- Perform scattered elements that have not been performed: in the core where its L2 holds the line in M or E and `here` allows
it, at homes otherwise; a refused element is not performed (R119, R121, R124 to R126). -/
def scatterPackets (c : Nat) (msg : Dev → Agent → List (VItem × Xl) → Msg) :
    List (Agent × List (VItem × Xl)) → List Nat → Act (List Nat × Option Unit)
  | [], l => Act.ret (l, some ())
  | p :: r, l => fun d =>
    match packetCall c (msg d p.1 p.2) d with
    | (d1, .ok _) => scatterPackets c msg r (p.2.map (fun e => e.1.i) ++ l) d1
    | (d1, .exn e) => (d1, .exn e)
    | (d1, .wait) => (d1, .ok (l, none))

/-- Perform elements on lines that the core's L2 holds in M or E (R121). -/
def scatterHere (c n : Nat) (get : Nat → Nat) (d : Dev) (l : List (VItem × Xl)) : Dev :=
  forAll l (fun e d => match l2Line d c (lineKey e.2.pa e.2.ns) with
    | some x => l2Put c (lineKey e.2.pa e.2.ns) (some (x.store (e.2.pa % 64) n (get e.1.i))) d
    | none => d) d

/-- One batch of a scatter (`red` none) or scatter reduction. -/
def scatterBatch (c n : Nat) (red : Option Atom) (get : Nat → Nat) (l : List (VItem × Xl)) (done : List Nat) :
    Act (List Nat × Option Unit) := fun d =>
  let todo := l.filter (fun e => !done.contains e.1.i)
  match Act.each (fun (e : VItem × Xl) => drainOver c e.2.pa n e.2.ns) todo d with
  | (d1, .ok _) =>
    let writable (e : VItem × Xl) : Bool := red.isNone && e.2.mt == 0
      && (match l2Line d1 c (lineKey e.2.pa e.2.ns) with | some x => x.st.writable | none => false)
    let adm : List (VItem × Xl) := todo.filter (fun e => elemAdmits d1 c .rw e.2)
    let gone : List (VItem × Xl) := todo.filter (fun e => !elemAdmits d1 c .rw e.2)
    let here : List (VItem × Xl) := adm.filter writable
    let away : List (VItem × Xl) := adm.filter (fun e => !writable e)
    let d2 := forAll gone (fun e d => coreRefuse c e.2.pa (xlWho d c e.2) true d) (scatterHere c n get d1 here)
    let op : COp := if red.isSome then .scatterRed else .scatter
    scatterPackets c (fun d h g => packetMsg d c op (Nat.log2 n) h g get red) (packetsOf d2 c away)
      ((here ++ gone).map (fun e => e.1.i) ++ done) d2
  | (d1, .exn e) => (d1, .exn e)
  | (d1, .wait) => (d1, .ok (done, none))

/-- A scatter batch by batch; an element with a cause ends it after the elements before it (R117). -/
def scatterAll (c n : Nat) (red : Option Atom) (get : Nat → Nat) : List (List VItem) → List Nat → Act (List Nat × Option Unit)
  | [], l => Act.ret (l, some ())
  | b :: r, l =>
    (xlElems c .store n b).bnd fun p =>
    (scatterBatch c n red get p.1 l).bnd fun o =>
    match o.2, p.2 with
    | none, _ => Act.ret (o.1, none)
    | some _, some e => elemFault c e.1 e.2
    | some _, none => scatterAll c n red get r o.1

/-! ### Instructions -/

/-- VFUNC of a vector memory form (R114). -/
def vmFunc (mode scale kind ty : Nat) : Nat := mode * 64 + scale * 16 + kind * 4 + ty

/-- Elements of SEW ÷ 8 bytes: the group written or read, and for index forms the index group. -/
def vmemNeed (c : Nat) (a : FmtV) (indexed apart : Bool) (ty : Dev → Bool) (d : Dev) : VNeed :=
  let g := vG d c
  let vd := (a.vd.toNat, g)
  let ix : List (Nat × Nat) := if indexed then [(a.vs2.toNat, g)] else []
  ⟨ty d, [], vd :: ix, if apart then clashOf vd ix else none, false⟩

/-- Address of element `i` (R115): unit stride, strided, or indexed with a scale. -/
def unitAddr (d : Dev) (c : Nat) (a : FmtV) (i : Nat) : Word := gReg d c a.vs1.toNat + BitVec.ofNat 64 (i * (vSew d c / 8))
def strideAddr (d : Dev) (c : Nat) (a : FmtV) (i : Nat) : Word := gReg d c a.vs1.toNat + BitVec.ofNat 64 i * gReg d c a.vs2.toNat
def indexAddr (d : Dev) (c : Nat) (a : FmtV) (scale : Nat) (i : Nat) : Word :=
  gReg d c a.vs1.toNat + BitVec.ofNat 64 (elt (vGroup d c a.vs2.toNat (vG d c)) (vSew d c) i * 2 ^ scale)

/-- Write element `i` of the data group. -/
def putVd (c : Nat) (a : FmtV) (i v : Nat) (d : Dev) : Dev := writeElts c a.vd.toNat (vG d c) (vSew d c) [(i, v)] d

/-- Element `i` of the data group. -/
def getVd (d : Dev) (c : Nat) (a : FmtV) (i : Nat) : Nat := elt (vGroup d c a.vd.toNat (vG d c)) (vSew d c) i

/-- Tokens: one for each 64 bytes of active element data, rounded up and at least one (R129). -/
def vmTokens (c : Nat) (mask : BitVec 3) (d : Dev) : Nat := max 1 (ceilDiv ((activeElts d c mask).length * (vSew d c / 8)) 64)

/-- A unit-stride or strided load. -/
def vloadBody (c : Nat) (a : FmtV) (legal : Bool) (addr : Dev → Nat → Word) : Act Ret :=
  vInstr c 0x24 a (fun _ => legal) (vmemNeed c a false false (fun _ => true)) fun d =>
    let l := activeElts d c a.mask
    ((loadElems c (vSew d c / 8) (putVd c a) (vItems l (addr d))).bnd fun _ => vMemDone c l.length false) d

/-- A unit-stride or strided store. -/
def vstoreBody (c : Nat) (a : FmtV) (legal : Bool) (addr : Dev → Nat → Word) : Act Ret :=
  vInstr c 0x25 a (fun _ => legal) (vmemNeed c a false false (fun _ => true)) fun d =>
    let l := activeElts d c a.mask
    ((keepProg c (storeElems c (vSew d c / 8) (getVd d c a) (vItems l (addr d)) (performed d c))).bnd fun _ => vMemDone c l.length false) d

def vldBody (c : Nat) (b : OpV) : Act Ret :=
  let a := b.fmt (vmFunc 0 0 0 0)
  vloadBody c a (a.vs2 == 0#5) (fun d => unitAddr d c a)
def vldStridedBody (c : Nat) (b : OpV) : Act Ret :=
  let a := b.fmt (vmFunc 1 0 0 0)
  vloadBody c a true (fun d => strideAddr d c a)
def vstBody (c : Nat) (b : OpV) : Act Ret :=
  let a := b.fmt (vmFunc 0 0 0 0)
  vstoreBody c a (a.vs2 == 0#5) (fun d => unitAddr d c a)
def vstStridedBody (c : Nat) (b : OpV) : Act Ret :=
  let a := b.fmt (vmFunc 1 0 0 0)
  vstoreBody c a true (fun d => strideAddr d c a)

def execVld (c : CoreId) (a : OpV) (s : State) : Host.Outcome State Fault Refusal := onDev s (instr c (vmTokens c a.mask) (vldBody c a))
def execVldStrided (c : CoreId) (a : OpV) (s : State) : Host.Outcome State Fault Refusal :=
  onDev s (instr c (vmTokens c a.mask) (vldStridedBody c a))
def execVst (c : CoreId) (a : OpV) (s : State) : Host.Outcome State Fault Refusal := onDev s (instr c (vmTokens c a.mask) (vstBody c a))
def execVstStrided (c : CoreId) (a : OpV) (s : State) : Host.Outcome State Fault Refusal :=
  onDev s (instr c (vmTokens c a.mask) (vstStridedBody c a))

/-! ### Whole registers (R120) -/

/-- The units of 8 bytes that a transfer moves: from VSTART to 63. -/
def xferUnits (d : Dev) (c : Nat) : List Nat := (List.range 64).filter (fun i => decide (vStart d c ≤ i))

/-- A transfer is illegal while VEN is 0, with vs2 or MASK not zero; it executes while VILL is 1. -/
def xferLegal (d : Dev) (c : Nat) (b : OpV) : Bool := getB Ps.VEN (pstate d c) && b.vs2 == 0#5 && b.mask == 0#3

def xferAddr (d : Dev) (c : Nat) (b : OpV) (i : Nat) : Word := gReg d c b.vs1.toNat + BitVec.ofNat 64 (8 * i)

/-- A register with one of its 8-byte units replaced. -/
def putUnit (x : VecData) (i v : Nat) : VecData := BitVec.ofNat 4096 (putElt x.toNat 64 i v)

def xferLoad (c kind : Nat) (b : OpV) (put : Nat → Nat → Dev → Dev) : Act Ret := fun d =>
  if !xferLegal d c b then (d, .exn (exIll ((b.fmt (vmFunc 0 0 kind 0)).word 0x24)))
  else
    let l := xferUnits d c
    ((loadElems c 8 put (vItems l (xferAddr d c b))).bnd fun _ => vMemDone c l.length false) d

def xferStore (c kind : Nat) (b : OpV) (x : Dev → VecData) : Act Ret := fun d =>
  if !xferLegal d c b then (d, .exn (exIll ((b.fmt (vmFunc 0 0 kind 0)).word 0x25)))
  else
    let l := xferUnits d c
    ((keepProg c (storeElems c 8 (fun i => elt (x d).toNat 64 i) (vItems l (xferAddr d c b)) (performed d c))).bnd fun _ =>
      vMemDone c l.length false) d

def vldrBody (c : Nat) (b : OpV) : Act Ret := xferLoad c 1 b (fun i v d => setV c b.vd.toNat (putUnit (vReg d c b.vd.toNat) i v) d)
def vldkBody (c : Nat) (b : OpV) : Act Ret :=
  xferLoad c 2 b (fun i v d => setK c (b.vd.toNat % 8) (putUnit (kReg d c (b.vd.toNat % 8)) i v) d)
def vstrBody (c : Nat) (b : OpV) : Act Ret := xferStore c 1 b (fun d => vReg d c b.vd.toNat)
def vstkBody (c : Nat) (b : OpV) : Act Ret := xferStore c 2 b (fun d => kReg d c (b.vd.toNat % 8))

/-- Tokens of a transfer (R129). -/
def xferTokens (c : Nat) (d : Dev) : Nat := max 1 (ceilDiv ((xferUnits d c).length * 8) 64)

def execVldR (c : CoreId) (a : OpV) (s : State) : Host.Outcome State Fault Refusal := onDev s (instr c (xferTokens c) (vldrBody c a))
def execVldk (c : CoreId) (a : OpV) (s : State) : Host.Outcome State Fault Refusal := onDev s (instr c (xferTokens c) (vldkBody c a))
def execVstR (c : CoreId) (a : OpV) (s : State) : Host.Outcome State Fault Refusal := onDev s (instr c (xferTokens c) (vstrBody c a))
def execVstk (c : CoreId) (a : OpV) (s : State) : Host.Outcome State Fault Refusal := onDev s (instr c (xferTokens c) (vstkBody c a))

/-! ### Gathers -/

/-- A gather (R121 to R123); `ff` for VLDX.FF, which shortens VL at a cause past the first element (R118). -/
def vldxBody (c : Nat) (ff : Bool) (scale : BitVec 2) (b : OpV) : Act Ret :=
  let a := b.fmt (vmFunc (if ff then 3 else 2) scale.toNat 0 0)
  vInstr c 0x24 a (fun _ => true) (vmemNeed c a true true (fun _ => true)) fun d =>
    let l := activeElts d c a.mask
    let start := vStart d c
    ((gatherAll c (vSew d c / 8) (putVd c a) (chunks 64 l.length (vItems l (indexAddr d c a scale.toNat)))).bnd fun o =>
      match o with
      | none => vMemDone c l.length false
      | some e =>
        if ff && decide (start < e.1) then
          (Act.upd (setSr c Sr.VL (BitVec.ofNat 64 e.1))).bnd fun _ => vMemDone c (l.filter (fun i => decide (i < e.1))).length false
        else elemFault c e.1 e.2) d

def execVldx (c : CoreId) (scale : BitVec 2) (a : OpV) (s : State) : Host.Outcome State Fault Refusal :=
  onDev s (instr c (vmTokens c a.mask) (vldxBody c false scale a))
def execVldxFf (c : CoreId) (scale : BitVec 2) (a : OpV) (s : State) : Host.Outcome State Fault Refusal :=
  onDev s (instr c (vmTokens c a.mask) (vldxBody c true scale a))

/-! ### Scatters and scatter reductions -/

/-- A scatter or scatter reduction; its packets leave only when it can no longer be cancelled (R126, R155). -/
def scatterBody (c : Nat) (a : FmtV) (scale : Nat) (legal : Dev → Bool) (ty : Dev → Bool) (red : Dev → Option Atom) : Act Ret :=
  vInstr c 0x25 a legal (vmemNeed c a true false ty) fun d =>
    let l := activeElts d c a.mask
    ((pairGate c).bnd fun _ =>
     (keepProg c (scatterAll c (vSew d c / 8) (red d) (getVd d c a) (chunks 64 l.length (vItems l (indexAddr d c a scale))) (performed d c))).bnd fun _ =>
     vMemDone c l.length true) d

def vstxBody (c : Nat) (scale : BitVec 2) (b : OpV) : Act Ret :=
  scatterBody c (b.fmt (vmFunc 2 scale.toNat 0 0)) scale.toNat (fun _ => true) (fun _ => true) (fun _ => none)

/-- The operation of a scatter reduction (R125): ROP 0 adds, 1 takes the minimum, 2 the maximum; TYPE 0 signed, 1 unsigned, 2
floating point. -/
def redAtom (c : Nat) (op : AmoOp) (ty : BitVec 2) (d : Dev) : Atom :=
  ⟨op, vSew d c / 8, ty == 1#2, if ty == 2#2 then some (fcsrRm d c) else none, 0, 0⟩

/-- A scatter reduction: TYPE 3 is illegal, a floating-point addition with an illegal rounding mode too; SEW 32 or 64. -/
def vredxBody (c : Nat) (rop : Nat) (op : AmoOp) (scale ty : BitVec 2) (b : OpV) : Act Ret :=
  scatterBody c (b.fmt (vmFunc 3 scale.toNat rop ty.toNat)) scale.toNat
    (fun d => ty != 3#2 && !(ty == 2#2 && rop == 0 && rmBad d c))
    (fun d => decide (32 ≤ vSew d c)) (fun d => some (redAtom c op ty d))

def execVstx (c : CoreId) (scale : BitVec 2) (a : OpV) (s : State) : Host.Outcome State Fault Refusal :=
  onDev s (instr c (vmTokens c a.mask) (vstxBody c scale a))
def execVstxAdd (c : CoreId) (scale ty : BitVec 2) (a : OpV) (s : State) : Host.Outcome State Fault Refusal :=
  onDev s (instr c (vmTokens c a.mask) (vredxBody c 0 .add scale ty a))
def execVstxMin (c : CoreId) (scale ty : BitVec 2) (a : OpV) (s : State) : Host.Outcome State Fault Refusal :=
  onDev s (instr c (vmTokens c a.mask) (vredxBody c 1 .min scale ty a))
def execVstxMax (c : CoreId) (scale ty : BitVec 2) (a : OpV) (s : State) : Host.Outcome State Fault Refusal :=
  onDev s (instr c (vmTokens c a.mask) (vredxBody c 2 .max scale ty a))

end Sys2Proof.Machine
end

