-- ==== Sys2Proof/Machine/Dispatch.lean ====
section
/-! DEFINITION. One arm for each command: its mnemonic's meaning, by one direct call. -/

namespace Sys2Proof.Machine

def exec (i : Instr) (s : State) : Host.Outcome State Fault Refusal :=
  match i with
  | .registerWrite D off v by' => Sys2Proof.Machine.execRegisterWrite D off v by' s
  | .paceCredit c => Sys2Proof.Machine.execPaceCredit c s
  | .arbrecOff D v => Sys2Proof.Machine.execArbrecOff D v s
  | .arbrecRecord D v => Sys2Proof.Machine.execArbrecRecord D v s
  | .arbrecReplay D v => Sys2Proof.Machine.execArbrecReplay D v s
  | .replayTimeout D => Sys2Proof.Machine.execReplayTimeout D s
  | .wearMeasurement D t slice rate island => Sys2Proof.Machine.execWearMeasurement D t slice rate island s
  | .int c a => Sys2Proof.Machine.execInt c a s
  | .muldiv c a => Sys2Proof.Machine.execMuldiv c a s
  | .addi c a => Sys2Proof.Machine.execAddi c a s
  | .logi c a => Sys2Proof.Machine.execLogi c a s
  | .shifti c a => Sys2Proof.Machine.execShifti c a s
  | .cmpi c a => Sys2Proof.Machine.execCmpi c a s
  | .orhi c a => Sys2Proof.Machine.execOrhi c a s
  | .fp c a => Sys2Proof.Machine.execFp c a s
  | .fma c a => Sys2Proof.Machine.execFma c a s
  | .fcvt c a => Sys2Proof.Machine.execFcvt c a s
  | .fcmp c a => Sys2Proof.Machine.execFcmp c a s
  | .ld c a => Sys2Proof.Machine.execLd c a s
  | .st c a => Sys2Proof.Machine.execSt c a s
  | .ldaq c a => Sys2Proof.Machine.execLdaq c a s
  | .strel c a => Sys2Proof.Machine.execStrel c a s
  | .fld c a => Sys2Proof.Machine.execFld c a s
  | .fst c a => Sys2Proof.Machine.execFst c a s
  | .amo c a => Sys2Proof.Machine.execAmo c a s
  | .cmoClean c a => Sys2Proof.Machine.execCmoClean c a s
  | .cmoInv c a => Sys2Proof.Machine.execCmoInv c a s
  | .cmoFlush c a => Sys2Proof.Machine.execCmoFlush c a s
  | .cmoRange c a => Sys2Proof.Machine.execCmoRange c a s
  | .cmoSw c a => Sys2Proof.Machine.execCmoSw c a s
  | .conditionalBranch c cond a => Sys2Proof.Machine.execConditionalBranch c cond a s
  | .jal c a => Sys2Proof.Machine.execJal c a s
  | .jalr c a => Sys2Proof.Machine.execJalr c a s
  | .misprediction c => Sys2Proof.Machine.execMisprediction c s
  | .syscall c a => Sys2Proof.Machine.execSyscall c a s
  | .hvcall c a => Sys2Proof.Machine.execHvcall c a s
  | .moncall c a => Sys2Proof.Machine.execMoncall c a s
  | .eret c a => Sys2Proof.Machine.execEret c a s
  | .wfe c a => Sys2Proof.Machine.execWfe c a s
  | .wfeTimeout c => Sys2Proof.Machine.execWfeTimeout c s
  | .brk c a => Sys2Proof.Machine.execBrk c a s
  | .rdtime c a => Sys2Proof.Machine.execRdtime c a s
  | .fenceLd c rd rs1 => Sys2Proof.Machine.execFenceLd c rd rs1 s
  | .fenceSt c rd rs1 => Sys2Proof.Machine.execFenceSt c rd rs1 s
  | .fenceFull c rd rs1 => Sys2Proof.Machine.execFenceFull c rd rs1 s
  | .fenceI c rd rs1 => Sys2Proof.Machine.execFenceI c rd rs1 s
  | .tlbiVa c rd rs1 => Sys2Proof.Machine.execTlbiVa c rd rs1 s
  | .tlbiAsid c rd rs1 => Sys2Proof.Machine.execTlbiAsid c rd rs1 s
  | .tlbiAll c rd rs1 => Sys2Proof.Machine.execTlbiAll c rd rs1 s
  | .tlbiIpa c rd rs1 => Sys2Proof.Machine.execTlbiIpa c rd rs1 s
  | .tlbiS2all c rd rs1 => Sys2Proof.Machine.execTlbiS2all c rd rs1 s
  | .tlbiHall c rd rs1 => Sys2Proof.Machine.execTlbiHall c rd rs1 s
  | .tlbiMall c rd rs1 => Sys2Proof.Machine.execTlbiMall c rd rs1 s
  | .mfsr c a => Sys2Proof.Machine.execMfsr c a s
  | .mtsr c a => Sys2Proof.Machine.execMtsr c a s
  | .takeEvent c => Sys2Proof.Machine.execTakeEvent c s
  | .vconf c a => Sys2Proof.Machine.execVconf c a s
  | .vec0Integer c a => Sys2Proof.Machine.execVec0Integer c a s
  | .vmerge c form a => Sys2Proof.Machine.execVmerge c form a s
  | .vec1FloatingPoint c a => Sys2Proof.Machine.execVec1FloatingPoint c a s
  | .vec2WidenNarrow c a => Sys2Proof.Machine.execVec2WidenNarrow c a s
  | .vec2Convert c a => Sys2Proof.Machine.execVec2Convert c a s
  | .vdot c a => Sys2Proof.Machine.execVdot c a s
  | .reduction c a => Sys2Proof.Machine.execReduction c a s
  | .vslideup c form a => Sys2Proof.Machine.execVslideup c form a s
  | .vslidedown c form a => Sys2Proof.Machine.execVslidedown c form a s
  | .vpermx c a => Sys2Proof.Machine.execVpermx c a s
  | .vcompress c a => Sys2Proof.Machine.execVcompress c a s
  | .vectorCompare c a => Sys2Proof.Machine.execVectorCompare c a s
  | .maskMembers c a => Sys2Proof.Machine.execMaskMembers c a s
  | .kpopc c a => Sys2Proof.Machine.execKpopc c a s
  | .kfirst c a => Sys2Proof.Machine.execKfirst c a s
  | .vmvGS c a => Sys2Proof.Machine.execVmvGS c a s
  | .vmvSG c a => Sys2Proof.Machine.execVmvSG c a s
  | .vfmvFS c a => Sys2Proof.Machine.execVfmvFS c a s
  | .vfmvSF c a => Sys2Proof.Machine.execVfmvSF c a s
  | .vid c a => Sys2Proof.Machine.execVid c a s
  | .vld c a => Sys2Proof.Machine.execVld c a s
  | .vldStrided c a => Sys2Proof.Machine.execVldStrided c a s
  | .vldR c a => Sys2Proof.Machine.execVldR c a s
  | .vldk c a => Sys2Proof.Machine.execVldk c a s
  | .vldx c scale a => Sys2Proof.Machine.execVldx c scale a s
  | .vldxFf c scale a => Sys2Proof.Machine.execVldxFf c scale a s
  | .vst c a => Sys2Proof.Machine.execVst c a s
  | .vstStrided c a => Sys2Proof.Machine.execVstStrided c a s
  | .vstR c a => Sys2Proof.Machine.execVstR c a s
  | .vstk c a => Sys2Proof.Machine.execVstk c a s
  | .vstx c scale a => Sys2Proof.Machine.execVstx c scale a s
  | .vstxAdd c scale ty a => Sys2Proof.Machine.execVstxAdd c scale ty a s
  | .vstxMin c scale ty a => Sys2Proof.Machine.execVstxMin c scale ty a s
  | .vstxMax c scale ty a => Sys2Proof.Machine.execVstxMax c scale ty a s
  | .storeBufferDrain c ix => Sys2Proof.Machine.execStoreBufferDrain c ix s
  | .bpctlFlush c rs1 => Sys2Proof.Machine.execBpctlFlush c rs1 s
  | .coreArrayError c e => Sys2Proof.Machine.execCoreArrayError c e s
  | .bind D t partner => Sys2Proof.Machine.execBind D t partner s
  | .unbind D t => Sys2Proof.Machine.execUnbind D t s
  | .pairSignatureCompare c equal => Sys2Proof.Machine.execPairSignatureCompare c equal s
  | .llock c rs1 => Sys2Proof.Machine.execLlock c rs1 s
  | .lunlock c rs1 => Sys2Proof.Machine.execLunlock c rs1 s
  | .spadCtlWrite g v => Sys2Proof.Machine.execSpadCtlWrite g v s
  | .scratchpadConversion g => Sys2Proof.Machine.execScratchpadConversion g s
  | .clr g v => Sys2Proof.Machine.execClr g v s
  | .clrAll g v => Sys2Proof.Machine.execClrAll g v s
  | .maintClean g => Sys2Proof.Machine.execMaintClean g s
  | .maintFlush g => Sys2Proof.Machine.execMaintFlush g s
  | .maintComplete g => Sys2Proof.Machine.execMaintComplete g s
  | .sliceArrayError g e => Sys2Proof.Machine.execSliceArrayError g e s
  | .rdshared m => Sys2Proof.Machine.execRdshared m s
  | .rdunique m => Sys2Proof.Machine.execRdunique m s
  | .upgrade m => Sys2Proof.Machine.execUpgrade m s
  | .rdonce m => Sys2Proof.Machine.execRdonce m s
  | .wrfull m => Sys2Proof.Machine.execWrfull m s
  | .wrpartial m => Sys2Proof.Machine.execWrpartial m s
  | .atomichome m => Sys2Proof.Machine.execAtomichome m s
  | .atomicmem m => Sys2Proof.Machine.execAtomicmem m s
  | .gather m => Sys2Proof.Machine.execGather m s
  | .scatter m => Sys2Proof.Machine.execScatter m s
  | .scatterred m => Sys2Proof.Machine.execScatterred m s
  | .cmocleanMsg m => Sys2Proof.Machine.execCmocleanMsg m s
  | .cmoinvMsg m => Sys2Proof.Machine.execCmoinvMsg m s
  | .cmoflushMsg m => Sys2Proof.Machine.execCmoflushMsg m s
  | .lock m => Sys2Proof.Machine.execLock m s
  | .unlock m => Sys2Proof.Machine.execUnlock m s
  | .wbdirty m => Sys2Proof.Machine.execWbdirty m s
  | .evictclean m => Sys2Proof.Machine.execEvictclean m s
  | .keeperevict m => Sys2Proof.Machine.execKeeperevict m s
  | .snpshared m => Sys2Proof.Machine.execSnpshared m s
  | .snpunique m => Sys2Proof.Machine.execSnpunique m s
  | .snpinv m => Sys2Proof.Machine.execSnpinv m s
  | .snppeek m => Sys2Proof.Machine.execSnppeek m s
  | .snpclean m => Sys2Proof.Machine.execSnpclean m s
  | .recall m => Sys2Proof.Machine.execRecall m s
  | .dwellEnd c k => Sys2Proof.Machine.execDwellEnd c k s
  | .compack m => Sys2Proof.Machine.execCompack m s
  | .wback m => Sys2Proof.Machine.execWback m s
  | .snpresp m => Sys2Proof.Machine.execSnpresp m s
  | .comp m => Sys2Proof.Machine.execComp m s
  | .grant m => Sys2Proof.Machine.execGrant m s
  | .defer m => Sys2Proof.Machine.execDefer m s
  | .resume m => Sys2Proof.Machine.execResume m s
  | .data m => Sys2Proof.Machine.execData m s
  | .snpdata m => Sys2Proof.Machine.execSnpdata m s
  | .wbdata m => Sys2Proof.Machine.execWbdata m s
  | .respdata m => Sys2Proof.Machine.execRespdata m s
  | .unrecognisedMessage a => Sys2Proof.Machine.execUnrecognisedMessage a s
  | .directoryError g k double => Sys2Proof.Machine.execDirectoryError g k double s
  | .create c rs1 => Sys2Proof.Machine.execCreate c rs1 s
  | .destroy c rs1 => Sys2Proof.Machine.execDestroy c rs1 s
  | .qpush c a => Sys2Proof.Machine.execQpush c a s
  | .qpushW c a => Sys2Proof.Machine.execQpushW c a s
  | .qpop c a => Sys2Proof.Machine.execQpop c a s
  | .qpopNb c a => Sys2Proof.Machine.execQpopNb c a s
  | .qopen c a => Sys2Proof.Machine.execQopen c a s
  | .qclose c a => Sys2Proof.Machine.execQclose c a s
  | .qdrop c a => Sys2Proof.Machine.execQdrop c a s
  | .qstat c a => Sys2Proof.Machine.execQstat c a s
  | .waitingQpushComplete c => Sys2Proof.Machine.execWaitingQpushComplete c s
  | .waitingQpopComplete c => Sys2Proof.Machine.execWaitingQpopComplete c s
  | .entryAcceptance q stop => Sys2Proof.Machine.execEntryAcceptance q stop s
  | .ringRefill q => Sys2Proof.Machine.execRingRefill q s
  | .packWaitRelease q => Sys2Proof.Machine.execPackWaitRelease q s
  | .openToTimeout q => Sys2Proof.Machine.execOpenToTimeout q s
  | .handshake D ix c => Sys2Proof.Machine.execHandshake D ix c s
  | .spareWireSwitch D ix group found => Sys2Proof.Machine.execSpareWireSwitch D ix group found s
  | .bwresWrite D p v => Sys2Proof.Machine.execBwresWrite D p v s
  | .bridgeFrame D b seq ok ms => Sys2Proof.Machine.execBridgeFrame D b seq ok ms s
  | .negativeAcknowledgement D b m seq => Sys2Proof.Machine.execNegativeAcknowledgement D b m seq s
  | .moduleRetrain D b m lanes low ok => Sys2Proof.Machine.execModuleRetrain D b m lanes low ok s
  | .marginCheck D b m pass => Sys2Proof.Machine.execMarginCheck D b m pass s
  | .reroute D b => Sys2Proof.Machine.execReroute D b s
  | .rerouteDrainComplete p => Sys2Proof.Machine.execRerouteDrainComplete p s
  | .identityFrame D f => Sys2Proof.Machine.execIdentityFrame D f s
  | .reinRecovery D ok x8 low => Sys2Proof.Machine.execReinRecovery D ok x8 low s
  | .spareReinReplacement D => Sys2Proof.Machine.execSpareReinReplacement D s
  | .heartbeat p => Sys2Proof.Machine.execHeartbeat p s
  | .heartbeatTimeout D => Sys2Proof.Machine.execHeartbeatTimeout D s
  | .claim D e k => Sys2Proof.Machine.execClaim D e k s
  | .memoryRequest src tag op pa who qos => Sys2Proof.Machine.execMemoryRequest src tag op pa who qos s
  | .commandIssue k chan => Sys2Proof.Machine.execCommandIssue k chan s
  | .rdWindowClear k => Sys2Proof.Machine.execRdWindowClear k s
  | .throttleEnd k => Sys2Proof.Machine.execThrottleEnd k s
  | .perBankRefresh k chan bank => Sys2Proof.Machine.execPerBankRefresh k chan bank s
  | .conditionRetrain k cur temp => Sys2Proof.Machine.execConditionRetrain k cur temp s
  | .driftTracking k chan => Sys2Proof.Machine.execDriftTracking k chan s
  | .rowRemap k chan bank row => Sys2Proof.Machine.execRowRemap k chan bank row s
  | .sparePortTakeover D n => Sys2Proof.Machine.execSparePortTakeover D n s
  | .takeoverSwitch D n => Sys2Proof.Machine.execTakeoverSwitch D n s
  | .portFailure k => Sys2Proof.Machine.execPortFailure k s
  | .maskWrite D n ix v => Sys2Proof.Machine.execMaskWrite D n ix v s
  | .resvWrite D n m v => Sys2Proof.Machine.execResvWrite D n m v s
  | .lockMemmap D => Sys2Proof.Machine.execLockMemmap D s
  | .repairRewrite k dd => Sys2Proof.Machine.execRepairRewrite k dd s
  | .patrolScrub k => Sys2Proof.Machine.execPatrolScrub k s
  | .checkCacheError k cl double => Sys2Proof.Machine.execCheckCacheError k cl double s
  | .conversionGroup k => Sys2Proof.Machine.execConversionGroup k s
  | .conversionComplete p => Sys2Proof.Machine.execConversionComplete p s
  | .serviceTimerExpiry c => Sys2Proof.Machine.execServiceTimerExpiry c s
  | .forcedExit c => Sys2Proof.Machine.execForcedExit c s
  | .buildS p => Sys2Proof.Machine.execBuildS p s
  | .buildNs p => Sys2Proof.Machine.execBuildNs p s
  | .partOpen p => Sys2Proof.Machine.execPartOpen p s
  | .partSeal p => Sys2Proof.Machine.execPartSeal p s
  | .partTeardown p => Sys2Proof.Machine.execPartTeardown p s
  | .partFree p => Sys2Proof.Machine.execPartFree p s
  | .firewallWrite D f r which v => Sys2Proof.Machine.execFirewallWrite D f r which v s
  | .firewallWriteApplied p => Sys2Proof.Machine.execFirewallWriteApplied p s
  | .cifTake c ns => Sys2Proof.Machine.execCifTake c ns s
  | .cifFinish c ns v => Sys2Proof.Machine.execCifFinish c ns v s
  | .cifRaise c ns v => Sys2Proof.Machine.execCifRaise c ns v s
  | .cifTcmpWrite c ns v => Sys2Proof.Machine.execCifTcmpWrite c ns v s
  | .timerComparator c ns => Sys2Proof.Machine.execTimerComparator c ns s
  | .eventArrival D n => Sys2Proof.Machine.execEventArrival D n s
  | .routeWrite D n v => Sys2Proof.Machine.execRouteWrite D n v s
  | .timestampExchange D => Sys2Proof.Machine.execTimestampExchange D s
  | .alignmentLost D => Sys2Proof.Machine.execAlignmentLost D s
  | .ppsEdge => Sys2Proof.Machine.execPpsEdge s
  | .ppsLoss => Sys2Proof.Machine.execPpsLoss s
  | .adjWrite D v => Sys2Proof.Machine.execAdjWrite D v s
  | .incrWrite D v => Sys2Proof.Machine.execIncrWrite D v s
  | .referenceStop p => Sys2Proof.Machine.execReferenceStop p s
  | .referenceResume p ticks => Sys2Proof.Machine.execReferenceResume p ticks s
  | .supplySample p vin iin vsb => Sys2Proof.Machine.execSupplySample p vin iin vsb s
  | .domainOn D ix => Sys2Proof.Machine.execDomainOn D ix s
  | .domainRetention D ix => Sys2Proof.Machine.execDomainRetention D ix s
  | .domainOff D ix => Sys2Proof.Machine.execDomainOff D ix s
  | .secureHold D ix => Sys2Proof.Machine.execSecureHold D ix s
  | .voltWrite D ix mv => Sys2Proof.Machine.execVoltWrite D ix mv s
  | .nsDomreq D ix req => Sys2Proof.Machine.execNsDomreq D ix req s
  | .domainTransitionEnd D ix vlow lost => Sys2Proof.Machine.execDomainTransitionEnd D ix vlow lost s
  | .governorStep p w hi => Sys2Proof.Machine.execGovernorStep p w hi s
  | .fastClamp p amps => Sys2Proof.Machine.execFastClamp p amps s
  | .thermalSample D sensor t => Sys2Proof.Machine.execThermalSample D sensor t s
  | .thermalTrip D sensor => Sys2Proof.Machine.execThermalTrip D sensor s
  | .phaseFailure D ph => Sys2Proof.Machine.execPhaseFailure D ph s
  | .run c w => Sys2Proof.Machine.execRun c w s
  | .stop c wakeEv w => Sys2Proof.Machine.execStop c wakeEv w s
  | .stopRelease c w => Sys2Proof.Machine.execStopRelease c w s
  | .inboundMemoryRead D f tgt len tag => Sys2Proof.Machine.execInboundMemoryRead D f tgt len tag s
  | .inboundMemoryWrite D f tgt data ep => Sys2Proof.Machine.execInboundMemoryWrite D f tgt data ep s
  | .configurationRequest D f dw w tag => Sys2Proof.Machine.execConfigurationRequest D f dw w tag s
  | .doorbellWrite D f n off data => Sys2Proof.Machine.execDoorbellWrite D f n off data s
  | .doorbellRelease D => Sys2Proof.Machine.execDoorbellRelease D s
  | .doorbellTimeout D => Sys2Proof.Machine.execDoorbellTimeout D s
  | .completionReceived D tag st ep data => Sys2Proof.Machine.execCompletionReceived D tag st ep data s
  | .completionTimeout D tag => Sys2Proof.Machine.execCompletionTimeout D tag s
  | .bmeClear D f => Sys2Proof.Machine.execBmeClear D f s
  | .quiesceEnd D f => Sys2Proof.Machine.execQuiesceEnd D f s
  | .enableSet D f which => Sys2Proof.Machine.execEnableSet D f which s
  | .flr D f => Sys2Proof.Machine.execFlr D f s
  | .flrComplete D f => Sys2Proof.Machine.execFlrComplete D f s
  | .perstNAssert D => Sys2Proof.Machine.execPerstNAssert D s
  | .perstNDeassert D => Sys2Proof.Machine.execPerstNDeassert D s
  | .linkUp D w rate flit => Sys2Proof.Machine.execLinkUp D w rate flit s
  | .linkDown D => Sys2Proof.Machine.execLinkDown D s
  | .dStateChange D f d3 => Sys2Proof.Machine.execDStateChange D f d3 s
  | .pmeTurnOff D => Sys2Proof.Machine.execPmeTurnOff D s
  | .pmeReq D f => Sys2Proof.Machine.execPmeReq D f s
  | .go D => Sys2Proof.Machine.execGo D s
  | .winCommitComplete D => Sys2Proof.Machine.execWinCommitComplete D s
  | .dmaDescriptorPop D ch => Sys2Proof.Machine.execDmaDescriptorPop D ch s
  | .dmaRead D ch => Sys2Proof.Machine.execDmaRead D ch s
  | .dmaWrite D ch => Sys2Proof.Machine.execDmaWrite D ch s
  | .dmaCompletionPush D ch => Sys2Proof.Machine.execDmaCompletionPush D ch s
  | .dmaResume D ch => Sys2Proof.Machine.execDmaResume D ch s
  | .abort D ch => Sys2Proof.Machine.execAbort D ch s
  | .fnMsixSend D f vec => Sys2Proof.Machine.execFnMsixSend D f vec s
  | .messageSignalledInterrupt D v => Sys2Proof.Machine.execMessageSignalledInterrupt D v s
  | .virtualEvent c ns v => Sys2Proof.Machine.execVirtualEvent c ns v s
  | .errorMessageReceived D sev => Sys2Proof.Machine.execErrorMessageReceived D sev s
  | .pmeMessageReceived D => Sys2Proof.Machine.execPmeMessageReceived D s
  | .rootRstWrite D a => Sys2Proof.Machine.execRootRstWrite D a s
  | .c16rAlu D func rd rs => Sys2Proof.Machine.execC16rAlu D func rd rs s
  | .cAddi D rd imm => Sys2Proof.Machine.execCAddi D rd imm s
  | .cLi D rd imm => Sys2Proof.Machine.execCLi D rd imm s
  | .cLw D rd imm => Sys2Proof.Machine.execCLw D rd imm s
  | .cSw D rs imm => Sys2Proof.Machine.execCSw D rs imm s
  | .cBeqz D rs a off => Sys2Proof.Machine.execCBeqz D rs a off s
  | .cBnez D rs a off => Sys2Proof.Machine.execCBnez D rs a off s
  | .cJr D func rs => Sys2Proof.Machine.execCJr D func rs s
  | .c32rAlu D func rd rs1 rs2 => Sys2Proof.Machine.execC32rAlu D func rd rs1 rs2 s
  | .c32iImmediate D op rd rs1 imm => Sys2Proof.Machine.execC32iImmediate D op rd rs1 imm s
  | .crownLd D lg rd rs1 off => Sys2Proof.Machine.execCrownLd D lg rd rs1 off s
  | .crownSt D lg rs rs1 off => Sys2Proof.Machine.execCrownSt D lg rs rs1 off s
  | .crownBranch D cond a rs1 rs2 off => Sys2Proof.Machine.execCrownBranch D cond a rs1 rs2 off s
  | .j D off => Sys2Proof.Machine.execJ D off s
  | .call D off slot32 => Sys2Proof.Machine.execCall D off slot32 s
  | .crownJalr D rd rs1 slot32 => Sys2Proof.Machine.execCrownJalr D rd rs1 slot32 s
  | .fread D rd rs1 tag imm => Sys2Proof.Machine.execFread D rd rs1 tag imm s
  | .mrd D rd rs1 tag imm => Sys2Proof.Machine.execMrd D rd rs1 tag imm s
  | .mwr D rd rs1 tag imm => Sys2Proof.Machine.execMwr D rd rs1 tag imm s
  | .crypt D rd rs1 tag imm => Sys2Proof.Machine.execCrypt D rd rs1 tag imm s
  | .mbx D rd rs1 tag imm => Sys2Proof.Machine.execMbx D rd rs1 tag imm s
  | .fprog D rd rs1 tag imm => Sys2Proof.Machine.execFprog D rd rs1 tag imm s
  | .stationComplete D tag outcome data len bytes => Sys2Proof.Machine.execStationComplete D tag outcome data len bytes s
  | .waitt D tag => Sys2Proof.Machine.execWaitt D tag s
  | .csrr D rd n => Sys2Proof.Machine.execCsrr D rd n s
  | .csrw D n rs => Sys2Proof.Machine.execCsrw D n rs s
  | .flushi D => Sys2Proof.Machine.execFlushi D s
  | .sleep D => Sys2Proof.Machine.execSleep D s
  | .reti D => Sys2Proof.Machine.execReti D s
  | .trap D => Sys2Proof.Machine.execTrap D s
  | .sramUe D => Sys2Proof.Machine.execSramUe D s
  | .caseback D b q => Sys2Proof.Machine.execCaseback D b q s
  | .getStatus D b q ticket => Sys2Proof.Machine.execGetStatus D b q ticket s
  | .sensorRead D b q sensor => Sys2Proof.Machine.execSensorRead D b q sensor s
  | .setPowerLimit D b q w => Sys2Proof.Machine.execSetPowerLimit D b q w s
  | .domainReq D b q a => Sys2Proof.Machine.execDomainReq D b q a s
  | .codeConvert D b q a => Sys2Proof.Machine.execCodeConvert D b q a s
  | .restitch D b q a a1 => Sys2Proof.Machine.execRestitch D b q a a1 s
  | .reserveEnter D b q => Sys2Proof.Machine.execReserveEnter D b q s
  | .reserveExit D b q => Sys2Proof.Machine.execReserveExit D b q s
  | .faultAck D b q ix => Sys2Proof.Machine.execFaultAck D b q ix s
  | .svcDownClear D b q svc => Sys2Proof.Machine.execSvcDownClear D b q svc s
  | .fwStage D b q pa len => Sys2Proof.Machine.execFwStage D b q pa len s
  | .fwActivate D b q typ => Sys2Proof.Machine.execFwActivate D b q typ s
  | .dbgChallenge D b q en => Sys2Proof.Machine.execDbgChallenge D b q en s
  | .dbgResponse D b q part s1 s2 s3 s4 s5 s6 => Sys2Proof.Machine.execDbgResponse D b q part s1 s2 s3 s4 s5 s6 s
  | .dbgClear D b q en => Sys2Proof.Machine.execDbgClear D b q en s
  | .backgroundCommandEnd p ticket ok => Sys2Proof.Machine.execBackgroundCommandEnd p ticket ok s
  | .setEndpointId p e => Sys2Proof.Machine.execSetEndpointId p e s
  | .getEndpointId p => Sys2Proof.Machine.execGetEndpointId p s
  | .getEndpointUuid p => Sys2Proof.Machine.execGetEndpointUuid p s
  | .getMctpVersionSupport p => Sys2Proof.Machine.execGetMctpVersionSupport p s
  | .getMessageTypeSupport p => Sys2Proof.Machine.execGetMessageTypeSupport p s
  | .getVendorDefinedMessageSupport p => Sys2Proof.Machine.execGetVendorDefinedMessageSupport p s
  | .vendorDefinedPciMessage p code q args => Sys2Proof.Machine.execVendorDefinedPciMessage p code q args s
  | .gettid p => Sys2Proof.Machine.execGettid p s
  | .getpldmversion p t => Sys2Proof.Machine.execGetpldmversion p t s
  | .getpldmtypes p => Sys2Proof.Machine.execGetpldmtypes p s
  | .getpldmcommands p t => Sys2Proof.Machine.execGetpldmcommands p t s
  | .getpdrrepositoryinfo p => Sys2Proof.Machine.execGetpdrrepositoryinfo p s
  | .getpdr p h => Sys2Proof.Machine.execGetpdr p h s
  | .getsensorreading p ix => Sys2Proof.Machine.execGetsensorreading p ix s
  | .seteventreceiver p e => Sys2Proof.Machine.execSeteventreceiver p e s
  | .pldmFirmwareUpdate p m => Sys2Proof.Machine.execPldmFirmwareUpdate p m s
  | .smbusReadByte p a c => Sys2Proof.Machine.execSmbusReadByte p a c s
  | .smbusReadWord p a c => Sys2Proof.Machine.execSmbusReadWord p a c s
  | .entdaa p a => Sys2Proof.Machine.execEntdaa p a s
  | .errorRecordPush D => Sys2Proof.Machine.execErrorRecordPush D s
  | .coreRestitch c why => Sys2Proof.Machine.execCoreRestitch c why s
  | .sliceRestitch g why => Sys2Proof.Machine.execSliceRestitch g why s
  | .sliceSwitch D => Sys2Proof.Machine.execSliceSwitch D s
  | .sliceRedirect g j => Sys2Proof.Machine.execSliceRedirect g j s
  | .reserveModeEntry p wb => Sys2Proof.Machine.execReserveModeEntry p wb s
  | .masterLoss p => Sys2Proof.Machine.execMasterLoss p s
  | .injectGo D v => Sys2Proof.Machine.execInjectGo D v s
  | .vsbPowerOn p => Sys2Proof.Machine.execVsbPowerOn p s
  | .resetNAssertion p ns => Sys2Proof.Machine.execResetNAssertion p ns s
  | .resetNDeassertion p master src modes => Sys2Proof.Machine.execResetNDeassertion p master src modes s
  | .pwrokAssert p => Sys2Proof.Machine.execPwrokAssert p s
  | .pwrokDeassert p => Sys2Proof.Machine.execPwrokDeassert p s
  | .vsbLoss p => Sys2Proof.Machine.execVsbLoss p s
  | .crownImageAcceptance p => Sys2Proof.Machine.execCrownImageAcceptance p s
  | .dieBringup p missing bad => Sys2Proof.Machine.execDieBringup p missing bad s
  | .masterConfirmation => Sys2Proof.Machine.execMasterConfirmation s
  | .reinWaitTimeout p => Sys2Proof.Machine.execReinWaitTimeout p s
  | .initialTraining p res => Sys2Proof.Machine.execInitialTraining p res s
  | .fill p => Sys2Proof.Machine.execFill p s
  | .loadedVerify p res => Sys2Proof.Machine.execLoadedVerify p res s
  | .monitorCopy => Sys2Proof.Machine.execMonitorCopy s
  | .release => Sys2Proof.Machine.execRelease s
  | .warm D => Sys2Proof.Machine.execWarm D s
  | .warmResetComplete => Sys2Proof.Machine.execWarmResetComplete s
  | .reinFlit D seq ok ms => Sys2Proof.Machine.execReinFlit D seq ok ms s
  | .referenceEdge D => Sys2Proof.Machine.execReferenceEdge D s
  | .linkRetrain D w rate flit => Sys2Proof.Machine.execLinkRetrain D w rate flit s
  | .electricalIdleExit D => Sys2Proof.Machine.execElectricalIdleExit D s
  | .illegalInstruction c word => Sys2Proof.Machine.execIllegalInstruction c word s
  | .debugHaltRequest c => Sys2Proof.Machine.execDebugHaltRequest c s
  | .crownEvent D e => Sys2Proof.Machine.execCrownEvent D e s
  | .boardDescriptionAcceptance p bd => Sys2Proof.Machine.execBoardDescriptionAcceptance p bd s
  | .reserveExitComplete => Sys2Proof.Machine.execReserveExitComplete s
  | .rtc32kSourceDecision p edge => Sys2Proof.Machine.execRtc32kSourceDecision p edge s
  | .casebackGenerationChanged p => Sys2Proof.Machine.execCasebackGenerationChanged p s
  | .badCmd D b q code => Sys2Proof.Machine.execBadCmd D b q code s

end Sys2Proof.Machine
end

