-- ==== Sys2Proof/Safety.lean ====
section
/-! DEFINITION. What claims about runs are stated in: a command that completes, the forms that memory and the queue keep, an
instruction of a core that runs normally, and what it leaves unchanged. -/

namespace Sys2Proof.Safety

open Sys2Proof.Machine

/-- A command completes at a state with a result that satisfies `P`. -/
def Completes (c : Instr) (s : State) (P : Dev → Prop) : Prop := ∃ t, exec c s = .next t ∧ t.pending = s.pending ∧ P t.dev

/-- DRAM is in canonical form. -/
def MemOk (s : State) : Prop := Memory.wf s.dev.mem

/-- Every waiting command is well formed. -/
def QueueOk (s : State) : Prop := ∀ c ∈ s.pending, c.wf = true

/-- Core `c` is ready for an instruction, whose effect begins at the device `d`: the core runs and waits for nothing, no event is to be
taken, a pace token is there, the fetch meets no exception, and no single step was asked for (R37, R55, R82, R89, R354). -/
def Begins (s : State) (c : Nat) (d : Dev) : Prop :=
  coreReady s.dev c = true ∧ begun s.dev c = d ∧ getB Ps.SS (pstate d c) = false

/-- The system registers of the performance counters, which count every instruction (R158). -/
def isPmc (n : Nat) : Bool := n == Sr.PMCTL || (decide (Sr.PMC0 ≤ n) && decide (n < Sr.PMC0 + 8))

/-- What an instruction of core `c` leaves unchanged from `d` to `t`: every register that is not listed (general, floating-point,
vector, mask, system), every register of every other core, and every byte of DRAM. -/
structure Frame (d t : Dev) (c : Nat) (gs fs vs ks ss : List Nat) : Prop where
  g : ∀ r, r ∉ gs → gReg t c r = gReg d c r
  f : ∀ r, r ∉ fs → fReg t c r = fReg d c r
  v : ∀ r, r ∉ vs → vReg t c r = vReg d c r
  k : ∀ r, r ∉ ks → kReg t c r = kReg d c r
  sr : ∀ n, n ∉ ss → isPmc n = false → sr t c n = sr d c n
  others : ∀ c', c' ≠ c → arch t c' = arch d c'
  mem : ∀ a, memByte t a = memByte d a

/-- What an instruction that only writes registers of its core leaves unchanged beside: every cache and store buffer, every device
register, slice and queue. -/
structure Units (d t : Dev) : Prop where
  caches : t.caches = d.caches
  regs : t.regs = d.regs
  homes : t.homes = d.homes
  queues : t.queues = d.queues

/-- The instruction retires to the next one. -/
def Next (d t : Dev) (c : Nat) : Prop := pcOf t c = pcOf d c + 4

/-- An instruction writes general register `rd` (g0 stays zero), retires to the next instruction and changes nothing else. -/
def WritesG (i : Instr) (s : State) (c : Nat) (d : Dev) (rd : BitVec 5) (v : Word) : Prop :=
  Completes i s fun t => gReg t c rd.toNat = (if rd = 0 then 0 else v) ∧ Next d t c ∧ Frame d t c [rd.toNat] [] [] [] []
    ∧ Units d t

/-- An instruction writes floating-point register `rd` and the flags of FCSR, and changes nothing else. -/
def WritesF (i : Instr) (s : State) (c : Nat) (d : Dev) (rd : BitVec 5) (v : Word) (fl : Nat) : Prop :=
  Completes i s fun t => fReg t c rd.toNat = v ∧ sr t c Sr.FCSR = sr d c Sr.FCSR ||| BitVec.ofNat 64 (fl % 32 * 8) ∧ Next d t c
    ∧ Frame d t c [] [rd.toNat] [] [] [Sr.FCSR] ∧ Units d t

/-- An instruction takes a synchronous exception (R87, R88): to the higher of the cause's level and the current one, with the saved
registers of that level written and the program counter at its vector. -/
def Traps (i : Instr) (s : State) (c : Nat) (d : Dev) (code : Nat) (addr ret : Word) : Prop :=
  Completes i s fun t =>
    let l := max (defaultLevel code) (plOf d c)
    sr t c (Sr.copy l Sr.EPC) = ret ∧ sr t c (Sr.copy l Sr.EADDR) = addr ∧ sr t c (Sr.copy l Sr.EPSTATE) = pstate d c
      ∧ bitsOf (sr t c (Sr.copy l Sr.ECAUSE)) 7 0 = code ∧ bitsOf (sr t c (Sr.copy l Sr.ECAUSE)) 9 8 = plOf d c
      ∧ pcOf t c = sr d c (Sr.copy l Sr.EVEC) &&& 0xFFFFFFFFFFFFF000#64 ∧ plOf t c = l

/-- An instruction writes general register `rd` and ORs flags into FCSR, and changes nothing else. -/
def WritesGF (i : Instr) (s : State) (c : Nat) (d : Dev) (rd : BitVec 5) (v : Word) (fl : Nat) : Prop :=
  Completes i s fun t => gReg t c rd.toNat = (if rd = 0 then 0 else v) ∧ sr t c Sr.FCSR = sr d c Sr.FCSR ||| BitVec.ofNat 64 (fl % 32 * 8)
    ∧ Next d t c ∧ Frame d t c [rd.toNat] [] [] [] [Sr.FCSR] ∧ Units d t

/-- What a load of `n` bytes with value `v` leaves, from the device `d` at which it has read (R62): the extended value, or an even pair. -/
def Loaded (d t : Dev) (c rd n : Nat) (uns : Bool) (v : Nat) : Prop :=
  gReg t c rd = (if rd = 0 then 0 else if n = 16 then BitVec.ofNat 64 (v % 2 ^ 64) else if uns then BitVec.ofNat 64 v else sext (8 * n) v)
    ∧ (n = 16 → gReg t c (rd + 1) = BitVec.ofNat 64 (v / 2 ^ 64)) ∧ Next d t c
    ∧ Frame d t c (if n = 16 then [rd, rd + 1] else [rd]) [] [] [] [] ∧ Units d t

/-- A store or atomic at `va` meets normal cacheable memory that its partition may read and write, and L2 holds the line in M or E. -/
def StoreHit (d : Dev) (c : Nat) (va : Word) (x : Xl) (l : L2Line) (p off : Nat) : Prop :=
  translate c va .store d = (d, .ok x) ∧ regionOf x.pa = .dram p off ∧ x.mt = 0 ∧ dramAdmits d (xlWho d c x) .rw x.pa = true
    ∧ l2Line d c (lineKey x.pa x.ns) = some l ∧ l.st.writable = true

/-- An instruction has put one entry at the end of the store buffer and changed nothing else but the program counter. -/
def Buffered (d t : Dev) (c : Nat) (e : SbEnt) : Prop :=
  (cacheSt t c).sb = (cacheSt d c).sb ++ [e] ∧ (cacheSt t c).l2 = (cacheSt d c).l2 ∧ (∀ c', c' ≠ c → cacheSt t c' = cacheSt d c')
    ∧ Next d t c ∧ Frame d t c [] [] [] [] [] ∧ t.regs = d.regs ∧ t.homes = d.homes ∧ t.queues = d.queues

/-- A level may reach a system register number (R86, R97). -/
def SrReach (d : Dev) (c n : Nat) : Prop :=
  srAssigned n = true ∧ (srVector n = true → getB Ps.VEN (pstate d c) = true) ∧ n / 1024 ≤ plOf d c

/-- The queue that a queue instruction names. -/
def qNum (d : Dev) (c : Nat) (a : OpQ) : Nat := bitsOf (gReg d c a.rq.toNat) 17 0

/-- The queue exists, its issuer's tile has or can get a slot, and no earlier group of a checked pair is unmatched (R155, R229). -/
def QAdmits (d : Dev) (c : Nat) (a : OpQ) (qs : QueueSt) : Prop :=
  queueAt d (qNum d c a) = some qs ∧ (qEng d c).slots.length < 31 ∧ (isLeader d c && (coreSt d c).grp != 0) = false

/-- A queue instruction meets no queue fault (R239). -/
def QFaultFree (d : Dev) (c func : Nat) (a : OpQ) : Prop := qFaults d func (gReg d c a.rq.toNat) (nsOf d c) (coreProd d c) = false

/-- A push has put one item at the end of the tail window of its tile and changed no register and no byte of memory. -/
def Pushed (d t : Dev) (c : Nat) (a : OpQ) (it : QItem) : Prop :=
  Next d t c ∧ Frame d t c [] [] [] [] [] ∧ ∃ x y, queueAt d (qNum d c a) = some x ∧ queueAt t (qNum d c a) = some y
    ∧ tailOf y c = tailOf x c ++ [(coreProd d c, it)] ∧ y.win = x.win ∧ y.ring = x.ring ∧ y.head = x.head ∧ y.tail = x.tail

/-- A vector instruction that writes the listed general, floating-point and mask registers has completed (R100). -/
def VDone (d t : Dev) (c : Nat) (gs fs ks : List Nat) : Prop :=
  sr t c Sr.VSTART = 0 ∧ Next d t c ∧ Frame d t c gs fs [] ks [Sr.VSTART, Sr.FCSR]

/-- Element `i` of width `w` of the group of `g` registers from `vd` on holds what the list gives for it, and else what it held. -/
def VElts (d t : Dev) (c vd g w : Nat) (l : List (Nat × Nat)) : Prop :=
  ∀ i, (i + 1) * w ≤ 4096 * g →
    elt (vGroup t c vd g) w i = (match l.find? (fun e => e.1 == i) with | some e => e.2 % 2 ^ w | none => elt (vGroup d c vd g) w i)

/-- A vector instruction writes the listed elements of a group, with the flags `fl` ORed into FCSR, and changes nothing else (R99, R100,
R102). -/
def VWrites (i : Instr) (s : State) (c : Nat) (d : Dev) (vd g w fl : Nat) (l : List (Nat × Nat)) : Prop :=
  Completes i s fun t => VElts d t c vd g w l ∧ sr t c Sr.VSTART = 0 ∧ sr t c Sr.FCSR = sr d c Sr.FCSR ||| BitVec.ofNat 64 (fl % 32 * 8)
    ∧ Next d t c ∧ Frame d t c [] [] ((List.range g).map (vd + ·)) [] [Sr.VSTART, Sr.FCSR] ∧ Units d t

/-- A vector load puts the listed elements into a group and changes no other register. -/
def VWrites' (i : Instr) (s : State) (c : Nat) (d : Dev) (vd g w : Nat) (l : List (Nat × Nat)) : Prop :=
  Completes i s fun t => VElts d t c vd g w l ∧ sr t c Sr.VSTART = 0 ∧ Next d t c
    ∧ Frame d t c [] [] ((List.range g).map (vd + ·)) [] [Sr.VSTART]

/-! ### Coherence -/

/-- The home on logical slice `g`, in array `a`, is on; its open transactions are `ts`, and nothing waits there. -/
def HomeServes (d : Dev) (g a : Nat) (ts : List Txn) : Prop :=
  sliceArray d g = a ∧ domOn d (sliceDie g) (44 + sliceTile d g) = true ∧ (homeSt d a).txns = ts ∧ (homeSt d a).queue = []
    ∧ (homeSt d a).store = [] ∧ (homeSt d a).credits = [] ∧ (homeSt d a).pkts = []

/-- A message from holder `h` about the line of `pa`, whose key is `k` and whose directory entry is `e`, is for such a home. -/
def AtHome (d : Dev) (m : Msg) (pa g a k : Nat) (h : Holder) (e : DirEnt) (ts : List Txn) : Prop :=
  m.dst = .home g ∧ holderOf (slicePkg a) m.src = some h ∧ lineKey pa m.who.ns = k ∧ dirEnt d a k = e ∧ HomeServes d g a ts

/-- The message `m` has left the messages on their way, the messages `ms` have joined them, and beside the home in array `a` no home,
cache, core, keeper or queue has changed. -/
def Sent (d t : Dev) (m : Msg) (op : COp) (a : Nat) (ms : List Msg) : Prop :=
  t.net = d.net.erase { m with op := op } ++ ms ∧ (∀ b, b ≠ a → homeSt t b = homeSt d b) ∧ t.caches = d.caches ∧ t.cores = d.cores
    ∧ t.keepers = d.keepers ∧ t.queues = d.queues

/-- The same for a message that core `c` took: beside its caches no cache, home, core, keeper or queue has changed, and no byte of DRAM. -/
def CoreSent (d t : Dev) (m : Msg) (op : COp) (c : Nat) (ms : List Msg) : Prop :=
  t.net = d.net.erase { m with op := op } ++ ms ∧ (∀ b, b ≠ c → cacheSt t b = cacheSt d b) ∧ t.homes = d.homes ∧ t.cores = d.cores
    ∧ t.keepers = d.keepers ∧ t.queues = d.queues ∧ t.mem = d.mem

/-- A core's answer to a snoop, with a state code, and ARG set when data goes with it. -/
def snpAnswer (c : Nat) (m : Msg) (st arg : Nat) : Msg := { Msg.mk' .snpResp (.core c) m.src m.txn m.addr m.who with st := st, arg := arg }

/-- The data of a snooped line. -/
def snpLine (c : Nat) (m : Msg) (dst : Agent) (op : COp) (l : L2Line) (st : Nat) : Msg :=
  { Msg.mk' op (.core c) dst m.txn m.addr m.who with line := l.data, poison := l.bad, st := st }

/-- Where a snooped core's data goes (R205): straight to a requester of the home's package, else to the snooper. -/
def SnpTarget (c : Nat) (m : Msg) (tgt : Agent) : Prop :=
  (m.fwd = none ∧ tgt = m.src) ∨ ∃ a r, m.src = .home a ∧ m.fwd = some (.core r) ∧ corePkg r = slicePkg a ∧ corePkg c = slicePkg a ∧ tgt = .core r

/-- A die has written one error record: it joins the held ones, and takes the next SEQ of the package (R438, R441). -/
def Recorded (d t : Dev) (D : Nat) (r : ErrRec) : Prop :=
  (dieSt t D).hold = (dieSt d D).hold ++ [r.stamp d D] ∧ (pkgSt t (D / 8)).seq = (pkgSt d (D / 8)).seq + 1

/-- The die's error bank has room. -/
def HoldRoom (d : Dev) (D : Nat) : Prop := (dieSt d D).hold.length < 64

/-! ### Units and registers -/

/-- Every device register keeps its value but those with the listed keys. -/
def RegsBut (d t : Dev) (ks : List Nat) : Prop := ∀ D o, regKey D o ∉ ks → rg t D o = rg d D o

/-- No core, cache, slice or queue changes, no byte of DRAM, and no message is sent. -/
def Quiet (d t : Dev) : Prop :=
  t.cores = d.cores ∧ t.caches = d.caches ∧ t.homes = d.homes ∧ t.queues = d.queues ∧ t.mem = d.mem ∧ t.net = d.net

/-- A command writes one device register and changes no other, and nothing of `Quiet`. -/
def SetsReg (i : Instr) (s : State) (D off : Nat) (v : Word) : Prop :=
  Completes i s fun t => rg t D off = v ∧ RegsBut s.dev t [regKey D off] ∧ Quiet s.dev t

/-- An event of a die is on its way to the die's event controller (R349). -/
def Raised (t : Dev) (D n : Nat) : Prop := n ∈ (dieSt t D).raised

/-- Every core but one keeps its state. -/
def CoresBut (d t : Dev) (c : Nat) : Prop := ∀ b, b ≠ c → coreSt t b = coreSt d b

/-! ### Crowns -/

/-- A die's Crown executes the instruction at its program counter: it runs, the address is one that instructions are fetched from, the
listed registers are not pending, and a slot that the instruction stands in is not annulled; one marked `ctl` stands in none. -/
def CrnReady (d : Dev) (D : Nat) (ctl : Bool) (regs : List Nat) : Prop :=
  crnRuns d D = true ∧ (crnSt d D).pc % 2 = 0 ∧ crnFetches (crnSt d D).pc = true ∧ regs.any (crnPending (crnSt d D)) = false
    ∧ ∀ b, (crnSt d D).slot = some b → b.annul = false ∧ ctl = false

/-- The next instruction's address: past `len` bytes, or the target of the taken branch whose slot the instruction is in. -/
def crnNext (x : CrnSt) (len : Nat) : Nat :=
  match x.slot with
  | some ⟨_, some t, _⟩ => t
  | _ => (x.pc + len) % 2 ^ 32

/-- No other Crown, no device register and nothing of `Quiet` has changed. -/
def CrnOnly (d t : Dev) (D : Nat) : Prop := (∀ E, E ≠ D → crnSt t E = crnSt d E) ∧ t.regs = d.regs ∧ Quiet d t

/-- Every register of a Crown but the listed ones keeps its value. -/
def CrnRegs (d t : Dev) (D : Nat) (l : List Nat) : Prop := ∀ r, r ∉ l → crnReg (crnSt t D) r = crnReg (crnSt d D) r

/-- An instruction of a Crown goes on to the next one; its SRAM and its stations stand as they were. -/
def CrnNext (d t : Dev) (D len : Nat) : Prop :=
  (crnSt t D).pc = crnNext (crnSt d D) len ∧ (crnSt t D).slot = none ∧ (crnSt t D).sram = (crnSt d D).sram
    ∧ (crnSt t D).stations = (crnSt d D).stations ∧ CrnOnly d t D

/-- An instruction of a Crown writes one register (c0 stays zero) and changes nothing else. -/
def CrnWrites (i : Instr) (s : State) (D len rd : Nat) (v : BitVec 32) : Prop :=
  Completes i s fun t => crnReg (crnSt t D) rd = (if rd = 0 then 0 else v) ∧ CrnRegs s.dev t D [rd] ∧ CrnNext s.dev t D len

/-- An instruction of a Crown traps: EPC is the instruction, or the branch whose slot it is, with DS. -/
def CrnTraps (i : Instr) (s : State) (D cause : Nat) : Prop :=
  Completes i s fun t => (crnSt t D).ecause = cause ∧ (crnSt t D).ie = false ∧ (crnSt t D).pc = 0x10000000 ∧ (crnSt t D).slot = none
    ∧ (crnSt t D).epc = (match (crnSt s.dev D).slot with | some b => b.br | none => (crnSt s.dev D).pc)
    ∧ (crnSt t D).ds = (crnSt s.dev D).slot.isSome ∧ CrnRegs s.dev t D [] ∧ (crnSt t D).sram = (crnSt s.dev D).sram ∧ CrnOnly s.dev t D

/-- A branch of a Crown: its slot comes next, then the target if it is taken; an annulling branch that is not taken annuls its slot. -/
def CrnBranches (i : Instr) (s : State) (D len : Nat) (taken : Bool) (target : Nat) (annul : Bool) (links : List Nat) : Prop :=
  Completes i s fun t => (crnSt t D).pc = ((crnSt s.dev D).pc + len) % 2 ^ 32
    ∧ (crnSt t D).slot = some ⟨(crnSt s.dev D).pc, if taken then some target else none, annul && !taken⟩
    ∧ CrnRegs s.dev t D links ∧ (crnSt t D).sram = (crnSt s.dev D).sram ∧ CrnOnly s.dev t D

/-! ### Mailboxes and boot -/

/-- A mailbox that takes the command of a code: it exists, is not busy and is served, the command is one of its own, it is not locked, and
Reserve mode does not keep the command from it (R425 to R427). -/
def MbxReady (d : Dev) (D : Nat) (b : Mbx) (code : Nat) : Prop :=
  mbxExists d D b = true ∧ (mbxSt d D b).busy = false ∧ mbxServed d D b = true ∧ b ∈ mbxAllowed code
    ∧ (b = .jtag → flg d 0 Reg.DBG_STATUS Fl.DBG_STATUS_LOCKOUT = false) ∧ (pkgReserve d (D / 8) && notInReserve code) = false

/-- A mailbox command has ended with a result and the first words of its response (R426). -/
def MbxDone (t : Dev) (D : Nat) (b : Mbx) (result : Nat) (resp : List Word) : Prop :=
  (mbxSt t D b).busy = false ∧ (mbxSt t D b).done = true ∧ (mbxSt t D b).result = result
    ∧ ∀ i v, resp[i]? = some v → KMap.look 0 (mbxSt t D b).resp i = v

/-- A background command has been accepted: the package has its ticket, and the mailbox has ended with ACCEPTED and the ticket (R426). -/
def MbxTicket (d t : Dev) (D : Nat) (b : Mbx) (code a0 a1 : Nat) : Prop :=
  MbxDone t D b 1 [BitVec.ofNat 64 (pkgSt d (D / 8)).nextTicket]
    ∧ (⟨(pkgSt d (D / 8)).nextTicket, code, a0, a1, 0, 0⟩ : Ticket) ∈ (pkgSt t (D / 8)).tickets

/-- The device with a command rung in a mailbox and not served yet. -/
def mbxRung (d : Dev) (D : Nat) (b : Mbx) (seq code : Nat) (args : List Word) : Dev :=
  crownPend (mbxDie d D b) (if b = .mctp then 2 else if b = .jtag then 3 else 0)
    (updMbx D b (fun x => { x with busy := true, done := false, replayed := false, seq := seq, code := code })
      ((args.zipIdx).foldl (fun d e => mbxArg D b e.2 e.1 d) d))

/-- Every die of a package shows a boot stage. -/
def AtStage (t : Dev) (p n : Nat) : Prop := ∀ D ∈ t.cfg.diesOf p, fld t D Reg.BOOT_STATUS Fl.BOOT_STATUS_STAGE = n

/-- A package has stopped boot for a reason, with ALERT_N (R464). -/
def BootStopped (t : Dev) (p code : Nat) : Prop :=
  AtStage t p 0xA ∧ (∀ D ∈ t.cfg.diesOf p, fld t D Reg.BOOT_STATUS Fl.BOOT_STATUS_STOP = code) ∧ (pkgSt t p).alert = true

/-- A package is reset (R454): its units are in their reset states, its DRAM reads as after power-on, and the cause shows. -/
def PackageReset (d t : Dev) (p cause : Nat) : Prop :=
  AtStage t p 0 ∧ (∀ D ∈ t.cfg.diesOf p, fld t D Reg.BOOT_STATUS Fl.BOOT_STATUS_CAUSE = cause) ∧ (pkgSt t p).rstn = false
    ∧ (∀ c, corePkg c = p → coreSt t c = CoreSt.init ∧ cacheSt t c = CacheSt.init)
    ∧ (∀ g, sliceDie g / 8 = p → homeSt t g = HomeSt.init) ∧ (∀ D, D / 8 = p → hspSt t D = HspSt.init ∧ crnSt t D = CrnSt.init D)
    ∧ (∀ a, p * 2 ^ 40 ≤ a → a < (p + 1) * 2 ^ 40 → memByte t a = memByte0)
    ∧ (∀ c, corePkg c ≠ p → coreSt t c = coreSt d c) ∧ (∀ a, a < p * 2 ^ 40 ∨ (p + 1) * 2 ^ 40 ≤ a → memByte t a = memByte d a)
    ∧ (pkgSt t p).flash = (pkgSt d p).flash ∧ (pkgSt t p).fuses = (pkgSt d p).fuses

end Sys2Proof.Safety
end

