-- ==== Sys2Proof/Certificates/Slice0/Obligations.lean ====
section
/-! DEFINITION. The statements for the provers. -/

open Sys2Proof Sys2Proof.Machine Sys2Proof.Safety

/-- A step of a state with a command at the front of its queue is that command performed on the state with the queue's rest, whatever
the command; with an empty queue the device idles (log entry 1, the model's choice). Every command answers a next state and leaves
the waiting commands as they are, and a step keeps every waiting command well formed. (00_scope.md, 02_selftimed_operation.md) -/
def Obligations.StepRunsTheFrontCommand : Prop :=
  (∀ (c : Instr) (d : Dev) (rest : List Instr), step ⟨d, c :: rest⟩ = exec c ⟨d, rest⟩)
  ∧ (∀ d : Dev, step ⟨d, []⟩ = .next ⟨d, []⟩)
  ∧ (∀ (c : Instr) (s : State), ∃ t, exec c s = .next t ∧ t.pending = s.pending)
  ∧ (∀ s t : State, QueueOk s → step s = .next t → QueueOk t)

/-- After reset nothing waits, no byte of DRAM is listed and memory is canonical; every core is stopped at PL3 in the secure world
with its registers at zero (the value of a register is the model's choice, log entry 5); every device register holds its reset
value, PKG_LIMIT the maximum of an eight-die package; SEQUENCE and GENERATION are 1, boot is at stage 0 and every Crown's program
counter is 0. (16_crown.md, 03_ploelm_base_isa.md, 14_power.md, 18_reset_boot.md) -/
def Obligations.ResetState : Prop :=
  let d := State.reset.dev
  State.reset.pending = [] ∧ MemOk State.reset ∧ QueueOk State.reset ∧ (∀ a, memByte d a = 0)
  ∧ (∀ c, (coreSt d c).run = false ∧ plOf d c = 3 ∧ nsOf d c = false ∧ ∀ r, gReg d c r = 0 ∧ fReg d c r = 0)
  ∧ (∀ D off, off < 2 ^ 32 → off ≠ Reg.PKG_LIMIT → rg d D off = regInit D off)
  ∧ fld d 0 Reg.PKG_LIMIT Fl.PKG_LIMIT_LIMIT_W = 1600
  ∧ (∀ p, (pkgSt d p).sequence = 1 ∧ (pkgSt d p).generation = 1)
  ∧ (∀ D, fld d D Reg.BOOT_STATUS Fl.BOOT_STATUS_STAGE = 0 ∧ (crnSt d D).pc = 0)

/-- A W form operates on the low 32 bits and its result is sign-extended; shifts by register use the low six or five bits of rs2;
sums, differences and products wrap; division truncates toward zero and its remainder belongs to that quotient; CLZ and CTZ of
zero give the width; a zero divisor gives all ones and the dividend; the most negative number by −1 gives itself and remainder 0;
and every integer instruction writes its result or takes the illegal-instruction exception, and no other. (R59) -/
def Obligations.IntegerResultRules : Prop :=
  ∀ (s : State) (c : CoreId) (d : Dev) (a : FmtA) (i : FmtI) (x y z : Word) (lx ly lz : BitVec 32), Begins s c d →
    x = gReg d c a.rs1.toNat → y = gReg d c a.rs2.toNat → z = gReg d c i.rs1.toNat → lx = BitVec.ofNat 32 x.toNat →
    ly = BitVec.ofNat 32 y.toNat → lz = BitVec.ofNat 32 z.toNat →
    (∀ v : Word, (a.func.toNat, v) ∈ [(0, x + y), (64, x - y), (32, (lx + ly).signExtend 64), (96, (lx - ly).signExtend 64),
        (320, x <<< (y.toNat % 64)), (384, x >>> (y.toNat % 64)), (448, x.sshiftRight (y.toNat % 64)), (512, x.rotateRight (y.toNat % 64)),
        (352, (lx <<< (y.toNat % 32)).signExtend 64), (416, (lx >>> (y.toNat % 32)).signExtend 64),
        (480, (lx.sshiftRight (y.toNat % 32)).signExtend 64), (544, (lx.rotateRight (y.toNat % 32)).signExtend 64)] →
      WritesG (.int c a) s c d a.rd v)
    ∧ (a.rs2 = 0 → (x = 0 → (a.func = 1024 ∨ a.func = 1088) → WritesG (.int c a) s c d a.rd 64)
      ∧ (lx = 0 → (a.func = 1056 ∨ a.func = 1120) → WritesG (.int c a) s c d a.rd 32))
    ∧ (∀ v : Word, (a.func.toNat, v) ∈ [(0, x * y), (32, (lx * ly).signExtend 64),
        (256, if y = 0 then BitVec.allOnes 64 else BitVec.ofInt 64 (x.toInt.tdiv y.toInt)),
        (320, if y = 0 then BitVec.allOnes 64 else BitVec.ofNat 64 (x.toNat / y.toNat)),
        (384, if y = 0 then x else BitVec.ofInt 64 (x.toInt.tmod y.toInt)),
        (448, if y = 0 then x else BitVec.ofNat 64 (x.toNat % y.toNat)),
        (288, if ly = 0 then BitVec.allOnes 64 else (BitVec.ofInt 32 (lx.toInt.tdiv ly.toInt)).signExtend 64),
        (352, if ly = 0 then BitVec.allOnes 64 else (BitVec.ofNat 32 (lx.toNat / ly.toNat)).signExtend 64),
        (416, if ly = 0 then lx.signExtend 64 else (BitVec.ofInt 32 (lx.toInt.tmod ly.toInt)).signExtend 64),
        (480, if ly = 0 then lx.signExtend 64 else (BitVec.ofNat 32 (lx.toNat % ly.toNat)).signExtend 64)] →
      WritesG (.muldiv c a) s c d a.rd v)
    ∧ (x = BitVec.intMin 64 → y = BitVec.allOnes 64 → (a.func = 256 → WritesG (.muldiv c a) s c d a.rd (BitVec.intMin 64))
      ∧ (a.func = 384 → WritesG (.muldiv c a) s c d a.rd 0))
    ∧ (i.func = 1 → WritesG (.addi c i) s c d i.rd ((lz + i.imm.signExtend 32).signExtend 64))
    ∧ (∀ (n : Nat) (v : Word), n < 32 → i.imm.toNat = 64 + n → (i.func.toNat, v) ∈ [(0, (lz <<< n).signExtend 64), (1, (lz >>> n).signExtend 64),
        (2, (lz.sshiftRight n).signExtend 64), (3, (lz.rotateRight n).signExtend 64)] → WritesG (.shifti c i) s c d i.rd v)
    ∧ (∀ (j : Instr) (rd : BitVec 5), (j, rd) ∈ [(.int c a, a.rd), (.muldiv c a, a.rd), (.addi c i, i.rd), (.logi c i, i.rd), (.shifti c i, i.rd),
        (.cmpi c i, i.rd), (.orhi c i, i.rd)] → (∃ v, WritesG j s c d rd v) ∨ (∃ w, Traps j s c d 1 w (pcOf d c)))

/-- Entry to a level saves the return address, PSTATE, the cause with the level and world it arose in and the address in that level's
registers; the level becomes the target, NS is cleared at PL3, IEN and SS are cleared, IES is cleared in the secure world and kept
in the normal one; and the program counter becomes the level's vector, 0x200 on for an event. (R88) -/
def Obligations.ExceptionEntry : Prop :=
  ∀ (d t : Dev) (c l : Nat) (cause addr ret : Word) (svc : Option Nat), 1 ≤ l → l ≤ 3 → t = enter c l cause addr ret svc d →
    sr t c (Sr.copy l Sr.EPC) = ret ∧ sr t c (Sr.copy l Sr.EPSTATE) = pstate d c ∧ sr t c (Sr.copy l Sr.EADDR) = addr
    ∧ sr t c (Sr.copy l Sr.ECAUSE) = cause ||| BitVec.ofNat 64 (plOf d c * 2 ^ 8 + b2n (nsOf d c) * 2 ^ 10)
    ∧ plOf t c = l ∧ nsOf t c = (if l = 3 then false else nsOf d c) ∧ getB Ps.IEN (pstate t c) = false
    ∧ getB Ps.IES (pstate t c) = (if nsOf t c = true then getB Ps.IES (pstate d c) else false) ∧ getB Ps.SS (pstate t c) = false
    ∧ getB Ps.VEN (pstate t c) = getB Ps.VEN (pstate d c)
    ∧ pcOf t c = (sr d c (Sr.copy l Sr.EVEC) &&& 0xFFFFFFFFFFFFF000#64) + (if cause.msb = true then 0x200#64 else 0#64)
    ∧ (∀ r, gReg t c r = gReg d c r ∧ fReg t c r = fReg d c r) ∧ (∀ b, b ≠ c → arch t b = arch d b) ∧ t.mem = d.mem

/-- For every command but the three that reset a package as a whole, and every present package: GENERATION rises by exactly one if
what the package's caseback record holds beside its sampled fields has changed, and stays the same if it has not. One step of
change is one command (log entry 19, the model's choice). (16_crown.md) -/
def Obligations.GenerationFollowsTheRecord : Prop :=
  ∀ (c : Instr) (s t : State) (p : Nat), (∀ q, c ≠ .vsbPowerOn q) → (∀ q, c ≠ .vsbLoss q) → (∀ q n, c ≠ .resetNAssertion q n) →
    exec c s = .next t → p < 4 → 0 < t.dev.cfg.ndie p →
    (recView t.dev p = recView s.dev p → (pkgSt t.dev p).generation = (pkgSt s.dev p).generation)
    ∧ (recView t.dev p ≠ recView s.dev p → (pkgSt t.dev p).generation = (pkgSt s.dev p).generation + 1)

/-- If the listed bytes of DRAM have strictly rising addresses and none equals what an unlisted byte reads as, then the same holds
after every step, whatever command is at the front of the queue. (10_memory_ports.md, 01_device_overview.md) -/
def Obligations.MemoryStaysCanonical : Prop :=
  ∀ s t : State, MemOk s → step s = .next t → MemOk t

/-- A ready core's INT, MULDIV, ADDI, LOGI, SHIFTI, CMPI or ORHI word with a legal FUNC writes the rule's result to rd (g0 stays
zero), goes to the next instruction and changes nothing else; a word without a result takes the illegal-instruction exception.
(03_ploelm_base_isa.md) -/
def Obligations.BaseIntegerResults : Prop :=
  ∀ (s : State) (c : CoreId) (d : Dev), Begins s c d →
    (∀ (a : FmtA) (v : Word), intResult a.func a.rs2 (gReg d c a.rs1.toNat) (gReg d c a.rs2.toNat) = some v → WritesG (.int c a) s c d a.rd v)
    ∧ (∀ (a : FmtA) (v : Word), mulResult a.func (gReg d c a.rs1.toNat) (gReg d c a.rs2.toNat) = some v → WritesG (.muldiv c a) s c d a.rd v)
    ∧ (∀ (a : FmtI) (v : Word), addiResult a.func (gReg d c a.rs1.toNat) a.imm = some v → WritesG (.addi c a) s c d a.rd v)
    ∧ (∀ (a : FmtI) (v : Word), logiResult a.func (gReg d c a.rs1.toNat) a.imm = some v → WritesG (.logi c a) s c d a.rd v)
    ∧ (∀ (a : FmtI) (v : Word), shiftiResult a.func (gReg d c a.rs1.toNat) a.imm = some v → WritesG (.shifti c a) s c d a.rd v)
    ∧ (∀ (a : FmtI) (v : Word), cmpiResult a.func (gReg d c a.rs1.toNat) a.imm = some v → WritesG (.cmpi c a) s c d a.rd v)
    ∧ (∀ (a : FmtI) (v : Word), orhiResult a.func (gReg d c a.rs1.toNat) a.imm = some v → WritesG (.orhi c a) s c d a.rd v)
    ∧ (∀ a : FmtA, intResult a.func a.rs2 (gReg d c a.rs1.toNat) (gReg d c a.rs2.toNat) = none →
        Traps (.int c a) s c d 1 (BitVec.ofNat 64 (a.word 1)) (pcOf d c))
    ∧ (∀ a : FmtA, mulResult a.func (gReg d c a.rs1.toNat) (gReg d c a.rs2.toNat) = none →
        Traps (.muldiv c a) s c d 1 (BitVec.ofNat 64 (a.word 2)) (pcOf d c))

/-- A ready core's FP, FMA, FCVT or FCMP word of a legal format and operation, with no trap enabled for the flags it raises, writes
the rounded result (boxed in an f register, or an integer or truth value in a g register), ORs its flags into FCSR, goes on and
changes nothing else; with a trap enabled it takes exception 0x11 and writes no register. (03_ploelm_base_isa.md) -/
def Obligations.FloatingPointResults : Prop :=
  ∀ (s : State) (c : CoreId) (d : Dev) (a : FmtA) (f g : SF.Fmt), Begins s c d → fmtOf (a.func.toNat / 16 % 4) = some f →
    (∀ v fl, a.func.toNat % 16 = 0 → (a.func.toNat / 64 = 4 → a.rs2 = 0) → rmBad d c = false →
      fpOp f (fcsrRm d c) (a.func.toNat / 64) (fVal d c f a.rs1) (fVal d c f a.rs2) = some (v, fl) →
      (fl &&& bitsOf (sr d c Sr.FCSR) 12 8 = 0 → WritesF (.fp c a) s c d a.rd (box f v) fl)
      ∧ (fl &&& bitsOf (sr d c Sr.FCSR) 12 8 ≠ 0 → Traps (.fp c a) s c d 0x11 (BitVec.ofNat 64 fl) (pcOf d c)))
    ∧ (∀ v fl, a.func.toNat % 4 = 0 → rmBad d c = false →
      SF.fma f (fcsrRm d c) (decide (2 ≤ a.func.toNat / 4 % 4)) (a.func.toNat / 4 % 4 % 2 == 1) (fVal d c f a.rs1) (fVal d c f a.rs2)
        (fVal d c f (BitVec.ofNat 5 (a.func.toNat / 64))) = (v, fl) → fl &&& bitsOf (sr d c Sr.FCSR) 12 8 = 0 →
      WritesF (.fma c a) s c d a.rd (box f v) fl)
    ∧ (∀ v fl, a.func.toNat % 4 = 0 → a.func.toNat / 64 = 0 → fmtOf (a.func.toNat / 4 % 4) = some g → rmBad d c = false →
      SF.cvt g f (fcsrRm d c) none (fVal d c g a.rs1) = (v, fl) → fl &&& bitsOf (sr d c Sr.FCSR) 12 8 = 0 →
      WritesF (.fcvt c a) s c d a.rd (box f v) fl)
    ∧ (∀ v fl, a.func.toNat % 4 = 0 → 4 ≤ a.func.toNat / 64 → a.func.toNat / 64 ≤ 7 → fmtOf (a.func.toNat / 4 % 4) = some g →
      rmBad d c = false → SF.toIntBits g (fcsrRm d c) (cvtInt (a.func.toNat / 64)).2 (cvtInt (a.func.toNat / 64)).1 (fVal d c g a.rs1) = (v, fl) →
      fl &&& bitsOf (sr d c Sr.FCSR) 12 8 = 0 →
      WritesGF (.fcvt c a) s c d a.rd (if (cvtInt (a.func.toNat / 64)).2 then sext (cvtInt (a.func.toNat / 64)).1 v else BitVec.ofNat 64 v) fl)
    ∧ (∀ b fl, a.func.toNat % 16 = 0 → a.func.toNat / 64 < 3 →
      SF.cmp f (a.func.toNat / 64) (fVal d c f a.rs1) (fVal d c f a.rs2) = (b, fl) → fl &&& bitsOf (sr d c Sr.FCSR) 12 8 = 0 →
      WritesGF (.fcmp c a) s c d a.rd (if b then 1 else 0) fl)

/-- LD, LDAQ and FLD with legal fields (LDAQ aligned) whose read of the effective address gives a value write it, sign- or zero-
extended or as an even pair (g) or boxed (f), go to the next instruction, and change no other register and no byte of memory after
the read. A load that lies in one line of normal memory which L2 holds, with no older store to its bytes in the store buffer,
reads the line's bytes and changes no byte of DRAM. (03_ploelm_base_isa.md, 05_core.md) -/
def Obligations.LoadsWriteWhatTheyRead : Prop :=
  ∀ (s : State) (c : CoreId) (d d1 : Dev) (v : Nat), Begins s c d →
    (∀ a : FmtM, mLegal a.size a.rd = true → (a.u = true → a.size.toNat < 3) →
      loadVal c (effAddr d c a.rs1 a.off) (sizeBytes a.size) d = (d1, .ok v) →
      Completes (.ld c a) s fun t => Loaded d1 t c a.rd.toNat (sizeBytes a.size) a.u v)
    ∧ (∀ a : OpM, mLegal a.size a.rd = true → (effAddr d c a.rs1 a.off).toNat % sizeBytes a.size = 0 →
      loadVal c (effAddr d c a.rs1 a.off) (sizeBytes a.size) d = (d1, .ok v) →
      Completes (.ldaq c a) s fun t => Loaded d1 t c a.rd.toNat (sizeBytes a.size) false v)
    ∧ (∀ a : OpM, mLegal a.size a.rd = true → (effAddr d c a.rs1 a.off).toNat % sizeBytes a.size ≠ 0 →
      Traps (.ldaq c a) s c d 0x0D (effAddr d c a.rs1 a.off) (pcOf d c))
    ∧ (∀ (a : OpM) (f : SF.Fmt), fldFmt a.size = some f → loadVal c (effAddr d c a.rs1 a.off) (sizeBytes a.size) d = (d1, .ok v) →
      Completes (.fld c a) s fun t => fReg t c a.rd.toNat = box f v ∧ Next d1 t c ∧ Frame d1 t c [] [a.rd.toNat] [] [] [] ∧ Units d1 t)
    ∧ (∀ (va : Word) (n : Nat) (x : Xl) (l : L2Line) (p off : Nat), va.toNat % 64 + n ≤ 64 → translate c va .load d = (d, .ok x) →
      regionOf x.pa = .dram p off → x.mt = 0 → dramAdmits d (xlWho d c x) .r x.pa = true →
      (cacheSt d c).sb.any (fun e => e.overlaps x.pa n x.ns) = false → l2Line d c (lineKey x.pa x.ns) = some l →
      poisonRead l.poison (x.pa % 64) n = false →
      ∃ d2, loadVal c va n d = (d2, .ok (lineGet l.data (x.pa % 64) n)) ∧ (∀ a, memByte d2 a = memByte d a)
        ∧ (cacheSt d2 c).l2 = (cacheSt d c).l2 ∧ (∀ c', arch d2 c' = arch d c'))

/-- ST, FST and STREL (aligned, after an empty store buffer) to bytes in one line of normal memory that the partition may read and
write and that L2 holds in M or E put exactly one entry (address, size, data) at the end of the store buffer, go to the next
instruction, and change no register, no byte of DRAM and no line of L2. STORE_BUFFER_DRAIN then writes the oldest entry of its
line into L2, which becomes modified with exactly those bytes stored, and removes the entry. (03_ploelm_base_isa.md, 05_core.md) -/
def Obligations.StoresEnterTheStoreBuffer : Prop :=
  ∀ (s : State) (c : CoreId) (d : Dev) (x : Xl) (l : L2Line) (p off : Nat), Begins s c d →
    (∀ a : FmtM, mLegal a.size a.rd = true → a.u = false → (effAddr d c a.rs1 a.off).toNat % 64 + sizeBytes a.size ≤ 64 →
      StoreHit d c (effAddr d c a.rs1 a.off) x l p off → (cacheSt d c).sb.length ≤ 126 →
      Completes (.st c a) s fun t => Buffered d t c ⟨x.pa, sizeBytes a.size, storeData d c a.rd.toNat (sizeBytes a.size) % 2 ^ (8 * sizeBytes a.size), xlWho d c x, x.tl, false, false⟩)
    ∧ (∀ a : OpM, (fldFmt a.size).isSome = true → (effAddr d c a.rs1 a.off).toNat % 64 + sizeBytes a.size ≤ 64 →
      StoreHit d c (effAddr d c a.rs1 a.off) x l p off → (cacheSt d c).sb.length ≤ 126 →
      Completes (.fst c a) s fun t => Buffered d t c ⟨x.pa, sizeBytes a.size, (fReg d c a.rd.toNat).toNat % 2 ^ (8 * sizeBytes a.size), xlWho d c x, x.tl, false, false⟩)
    ∧ (∀ a : OpM, mLegal a.size a.rd = true → (effAddr d c a.rs1 a.off).toNat % sizeBytes a.size = 0 →
      StoreHit d c (effAddr d c a.rs1 a.off) x l p off → (cacheSt d c).sb = [] →
      Completes (.strel c a) s fun t => Buffered d t c ⟨x.pa, sizeBytes a.size, storeData d c a.rd.toNat (sizeBytes a.size) % 2 ^ (8 * sizeBytes a.size), xlWho d c x, x.tl, false, false⟩)
    ∧ (∀ (i : Fin 128) (e : SbEnt) (m : L2Line), (cacheSt s.dev c).sb[i.val]? = some e → i.val + 1 + (cacheSt s.dev c).sbHeld ≤ (cacheSt s.dev c).sb.length →
      ((cacheSt s.dev c).sb.take i).any (fun y => y.key == e.key) = false → e.nc = false → l2Line s.dev c e.key = some m → m.st.writable = true →
      Completes (.storeBufferDrain c i) s fun t => l2Line t c e.key = some (m.store (e.pa % 64) e.size e.data)
        ∧ (cacheSt t c).sb = (cacheSt s.dev c).sb.eraseIdx i ∧ (∀ k, k ≠ e.key → l2Line t c k = l2Line s.dev c k)
        ∧ (∀ a, memByte t a = memByte s.dev a) ∧ (∀ c', arch t c' = arch s.dev c'))

/-- A legal AMO, unsuffixed or .NEAR, aligned, on normal memory that the partition may read and write, whose line L2 holds in M or E
unpoisoned with no store of this core to it waiting, writes the old value to rd (sign-extended, or an even pair), stores the
operation's result in the line, goes to the next instruction and changes no other register and no byte of DRAM. A misaligned one
takes exception 0x0D. (03_ploelm_base_isa.md, 05_core.md) -/
def Obligations.AtomicOnAHeldLine : Prop :=
  ∀ (s : State) (c : CoreId) (d : Dev) (a : FmtA) (op : AmoOp) (n place : Nat) (uns : Bool), Begins s c d →
    amoFields a.func a.rd a.rs2 = some (op, n, place, uns) →
    (∀ (x : Xl) (l : L2Line) (p off : Nat), (gReg d c a.rs1.toNat).toNat % n = 0 → place ≤ 1 → a.func.toNat / 4 % 2 = 0 →
      (isLeader d c && (coreSt d c).grp != 0) = false →
      StoreHit d c (gReg d c a.rs1.toNat) x l p off → (cacheSt d c).sb.any (fun e => e.overlaps (x.pa / 64 * 64) 64 x.ns) = false →
      poisonRead l.poison (x.pa % 64) n = false →
      Completes (.amo c a) s fun t =>
        l2Line t c (lineKey x.pa x.ns) = some (l.store (x.pa % 64) n
          ((⟨op, n, uns, none, pairVal d c a.rs2.toNat n, pairVal d c a.rd.toNat n⟩ : Atom).apply (lineGet l.data (x.pa % 64) n)))
        ∧ gReg t c a.rd.toNat = (if a.rd = 0 then 0 else if n = 16 then BitVec.ofNat 64 (lineGet l.data (x.pa % 64) n % 2 ^ 64)
            else sext (8 * n) (lineGet l.data (x.pa % 64) n))
        ∧ Next d t c ∧ Frame d t c (if n = 16 then [a.rd.toNat, a.rd.toNat + 1] else [a.rd.toNat]) [] [] [] [])
    ∧ ((gReg d c a.rs1.toNat).toNat % n ≠ 0 → Traps (.amo c a) s c d 0x0D (gReg d c a.rs1.toNat) (pcOf d c))

/-- CMO.CLEAN, CMO.INV and CMO.FLUSH with legal fields on a line of normal memory with no store of this core to it waiting complete
when the line's home has answered the request, and change no register. CMO.RANGE over a part of one page whose maintenance is
performed advances its address register by the length, clears the length register, and goes on. CMO.SW at PL3 on a way of L1D
takes the way's line out for an invalidation or flush. (03_ploelm_base_isa.md) -/
def Obligations.CacheMaintenanceCompletes : Prop :=
  ∀ (s : State) (c : CoreId) (d : Dev), Begins s c d →
    (∀ (o : Fin 3) (a : OpC) (x : Xl) (p off : Nat) (d1 : Dev) (r : Msg), a.u = false → a.rd = 0 →
      translate c (effAddr d c a.rs1 a.off) (cmoKind (cmoEff d c o)) d = (d, .ok x) → regionOf x.pa = .dram p off → x.mt ≠ 2 →
      dramAdmits d (xlWho d c x) (if cmoEff d c o = 1 then .rw else .r) x.pa = true →
      (cacheSt d c).sb.any (fun e => e.overlaps (x.pa / 64 * 64) 64 x.ns) = false →
      takeResult c (lineKey (x.pa / 64 * 64) x.ns) (cmoOp (cmoEff d c o)) d = some (d1, r) →
      Completes (match o with | 0 => .cmoClean c a | 1 => .cmoInv c a | 2 => .cmoFlush c a) s fun t =>
        Next d t c ∧ Frame d t c [] [] [] [] [] ∧ (cacheSt t c).miss = (cacheSt d1 c).miss ∧ t.regs = d.regs ∧ t.homes = d.homes)
    ∧ (∀ (a : FmtA) (d1 : Dev), a.func.toNat < 3 → a.rd = 0 → a.rs1 ≠ 0 → a.rs2 ≠ 0 → a.rs1 ≠ a.rs2 → gReg d c a.rs2.toNat ≠ 0 →
      (gReg d c a.rs1.toNat).toNat % 4096 + (gReg d c a.rs2.toNat).toNat ≤ 4096 →
      cmoPage c (cmoEff d c a.func.toNat) a.rs1.toNat a.rs2.toNat d = (d1, .ok ()) →
      Completes (.cmoRange c a) s fun t => gReg t c a.rs2.toNat = 0
        ∧ gReg t c a.rs1.toNat = gReg d c a.rs1.toNat + gReg d c a.rs2.toNat ∧ Next d1 t c ∧ Frame d1 t c [] [] [] [] [])
    ∧ (∀ (a : OpS) (k : Nat), a.rd = 0 → (a.imm = 1 ∨ a.imm = 2) → plOf d c = 3 → bitsOf (gReg d c a.rs1.toNat) 21 20 = 0 →
      (l1dSetLines d c (bitsOf (gReg d c a.rs1.toNat) 19 4))[bitsOf (gReg d c a.rs1.toNat) 3 0]? = some k →
      Completes (.cmoSw c a) s fun t => (cacheSt t c).l1d = (cacheSt d c).l1d.erase k ∧ (cacheSt t c).l2 = (cacheSt d c).l2
        ∧ Next d t c ∧ Frame d t c [] [] [] [] [])
    ∧ (∀ a : OpS, a.rd = 0 → a.imm.toNat < 3 → plOf d c ≠ 3 → bitsOf (gReg d c a.rs1.toNat) 21 20 ≠ 3 →
      Traps (.cmoSw c a) s c d 2 (BitVec.ofNat 64 (a.word 9)) (pcOf d c))

/-- A conditional branch goes to its target when its condition holds and else to the next instruction; JAL and JALR go to their target
and write the address of the next instruction to rd (g0 stays zero); no other register and no byte of memory changes. A JAL with H
other than 0 and a JALR with FUNC other than 0 take the illegal-instruction exception. A JALR to an address that is not a multiple
of 4 takes exception 0x03 with the target in EADDR and rd unchanged. MISPREDICTION gives the predictor the history before the
branch with its actual direction and restores the return stack. (R78) -/
def Obligations.BranchesAndJumps : Prop :=
  ∀ (s : State) (c : CoreId) (d : Dev),
    (Begins s c d →
      (∀ (cond : Fin 6) (a : FmtB), Completes (.conditionalBranch c cond a) s fun t =>
        pcOf t c = (if branchTaken cond (gReg d c a.rs.toNat) then pcOf d c + 4 * sext 19 a.off.toNat else pcOf d c + 4)
          ∧ Frame d t c [] [] [] [] [] ∧ Units d t)
      ∧ (∀ a : FmtB, a.h = 0 → Completes (.jal c a) s fun t => pcOf t c = pcOf d c + 4 * sext 19 a.off.toNat
          ∧ gReg t c a.rs.toNat = (if a.rs = 0 then 0 else pcOf d c + 4) ∧ Frame d t c [a.rs.toNat] [] [] [] [] ∧ Units d t)
      ∧ (∀ a : FmtI, a.func = 0 → bitsOf (gReg d c a.rs1.toNat + sext 14 a.imm.toNat) 1 0 = 0 →
          Completes (.jalr c a) s fun t => pcOf t c = gReg d c a.rs1.toNat + sext 14 a.imm.toNat
            ∧ gReg t c a.rd.toNat = (if a.rd = 0 then 0 else pcOf d c + 4) ∧ Frame d t c [a.rd.toNat] [] [] [] [] ∧ Units d t)
      ∧ (∀ a : FmtI, a.func = 0 → bitsOf (gReg d c a.rs1.toNat + sext 14 a.imm.toNat) 1 0 ≠ 0 →
          Traps (.jalr c a) s c d 3 (gReg d c a.rs1.toNat + sext 14 a.imm.toNat) (pcOf d c)
            ∧ Completes (.jalr c a) s fun t => gReg t c a.rd.toNat = gReg d c a.rd.toNat)
      ∧ (∀ a : FmtB, a.h ≠ 0 → Traps (.jal c a) s c d 1 (BitVec.ofNat 64 (a.word 0x16)) (pcOf d c))
      ∧ (∀ a : FmtI, a.func ≠ 0 → Traps (.jalr c a) s c d 1 (BitVec.ofNat 64 (a.word 0x17)) (pcOf d c)))
    ∧ (∀ (gh : Word) (ras : List Word) (taken : Bool), (coreSt s.dev c).misp = some (gh, ras, taken) →
      Completes (.misprediction c) s fun t => (coreSt t c).pred.gh = (gh <<< 1) ||| (if taken then 1 else 0)
        ∧ (coreSt t c).pred.ras = ras ∧ (coreSt t c).misp = none ∧ (∀ c', arch t c' = arch s.dev c') ∧ (∀ a, memByte t a = memByte s.dev a))

/-- SYSCALL, HVCALL, MONCALL (of a service not in the down list) and BRK with zero register fields, at a level that may execute them,
enter their exception with the return address after them: codes 0x14, 0x15, 0x16, 0x17. A MONCALL to a service in the down list
returns 0xFFFFFFFFFFFFFFFE in g3 instead. A call below its level takes the privileged-instruction exception, and a word with an
unassigned major opcode the illegal-instruction exception at its own address. (03_ploelm_base_isa.md, 12_isolation.md) -/
def Obligations.CallsEnterTheirLevel : Prop :=
  ∀ (s : State) (c : CoreId) (d : Dev) (a : OpS), Begins s c d → a.rd = 0 → a.rs1 = 0 →
    Traps (.syscall c a) s c d 0x14 0 (pcOf d c + 4)
    ∧ Traps (.brk c a) s c d 0x17 0 (pcOf d c + 4)
    ∧ (1 ≤ plOf d c → Traps (.hvcall c a) s c d 0x15 0 (pcOf d c + 4))
    ∧ (1 ≤ plOf d c → svcIsDown d (coreDie c) a.imm.toNat = false → Traps (.moncall c a) s c d 0x16 0 (pcOf d c + 4))
    ∧ (1 ≤ plOf d c → svcIsDown d (coreDie c) a.imm.toNat = true → WritesG (.moncall c a) s c d 3 0xFFFFFFFFFFFFFFFE#64)
    ∧ (plOf d c = 0 → Traps (.hvcall c a) s c d 2 (BitVec.ofNat 64 (a.word 1)) (pcOf d c)
        ∧ Traps (.moncall c a) s c d 2 (BitVec.ofNat 64 (a.word 2)) (pcOf d c))
    ∧ (∀ w : BitVec 32, Traps (.illegalInstruction c w) s c d 1 (BitVec.ofNat 64 w.toNat) (pcOf d c))

/-- ERET restores the program counter from EPC of its level and, in the secure world, PSTATE from EPSTATE. WFE with nothing pending
waits for at most 1 ms, which WFE_TIMEOUT ends. RDTIME reads the die's time base. Fences with nothing left in the store buffer,
and for FENCE.FULL no request of the core unanswered, complete and change nothing. TAKE_EVENT takes the first eligible event of a
core that runs. (03_ploelm_base_isa.md, 13_events_timebase.md) -/
def Obligations.ReturnWaitTimeAndFences : Prop :=
  ∀ (s : State) (c : CoreId) (d : Dev),
    (Begins s c d →
      (∀ a : OpS, a.rd = 0 → a.rs1 = 0 → a.imm = 0 → 1 ≤ plOf d c → eretIllegal d c = false →
        Completes (.eret c a) s fun t => pcOf t c = sr d c (Sr.copy (plOf d c) Sr.EPC) &&& 0xFFFFFFFFFFFFFFFC#64
          ∧ Frame d t c [] [] [] [] [Sr.PSTATE]
          ∧ (nsOf d c = false → getB Ps.NS (sr d c (Sr.copy (plOf d c) Sr.EPSTATE)) = false →
              pstate t c = sr d c (Sr.copy (plOf d c) Sr.EPSTATE) &&& 0x7F#64))
      ∧ (∀ a : OpS, a.rd = 0 → a.rs1 = 0 → a.imm = 0 →
          Completes (.wfe c a) s fun t => Next d t c ∧ Frame d t c [] [] [] [] [] ∧ Units d t
            ∧ (anyPending d c = false → (coreSt t c).wfe = some (nowOf d (coreDie c) + 1000000)))
      ∧ (∀ a : OpS, a.rs1 = 0 → a.imm = 0 → WritesG (.rdtime c a) s c d a.rd (rg d (coreDie c) Reg.TIM_NOW))
      ∧ (Completes (.fenceLd c 0 0) s fun t => Next d t c ∧ Frame d t c [] [] [] [] [] ∧ Units d t)
      ∧ (Completes (.fenceI c 0 0) s fun t => Next d t c ∧ Frame d t c [] [] [] [] [] ∧ Units d t)
      ∧ ((cacheSt d c).sb = [] → Completes (.fenceSt c 0 0) s fun t => Next d t c ∧ Frame d t c [] [] [] [] [] ∧ Units d t)
      ∧ ((cacheSt d c).sb = [] → (∀ x ∈ (cacheSt d c).miss, x.result.isSome = true) →
          Completes (.fenceFull c 0 0) s fun t => Next d t c ∧ Frame d t c [] [] [] [] [] ∧ Units d t))
    ∧ (∀ w, (coreSt s.dev c).wfe = some w → w ≤ nowOf s.dev (coreDie c) →
        Completes (.wfeTimeout c) s fun t => (coreSt t c).wfe = none ∧ (∀ c', arch t c' = arch s.dev c') ∧ Units s.dev t)
    ∧ (∀ e, coreRuns s.dev c = true → wfeOver s.dev c = true → eligibleEv s.dev c = some e →
        Completes (.takeEvent c) s fun t => plOf t c = max e.lvl (plOf s.dev c)
          ∧ pcOf t c = (sr s.dev c (Sr.copy (max e.lvl (plOf s.dev c)) Sr.EVEC) &&& 0xFFFFFFFFFFFFF000#64) + 0x200
          ∧ sr t c (Sr.copy (max e.lvl (plOf s.dev c)) Sr.EPC) = pcOf s.dev c ∧ (coreSt t c).wfe = none)

/-- Each TLBI with rd zero, at a level that may execute it, removes from the TLB of every core exactly the entries tagged with the
issuer's partition and world that it names, goes to the next instruction, and changes no register and no byte of memory; below its
level it takes the privileged-instruction exception. (03_ploelm_base_isa.md) -/
def Obligations.TlbInvalidation : Prop :=
  ∀ (s : State) (c : CoreId) (d : Dev) (rs1 : BitVec 5), Begins s c d →
    ∀ (i : Instr) (kind minPl : Nat), (i, kind, minPl) ∈ [(Instr.tlbiVa c 0 rs1, 0, 1), (.tlbiAsid c 0 rs1, 1, 1), (.tlbiAll c 0 rs1, 2, 1),
        (.tlbiIpa c 0 rs1, 3, 2), (.tlbiS2all c 0 rs1, 4, 2), (.tlbiHall c 0 rs1, 5, 2), (.tlbiMall c 0 rs1, 6, 3)] →
    (minPl ≤ plOf d c → Completes i s fun t => Next d t c ∧ Frame d t c [] [] [] [] [] ∧ Units d t
      ∧ ∀ c', (coreSt t c').tlb = (coreSt d c').tlb.filter (fun e =>
          !(e.part == (sr d c Sr.PARTID).toNat && e.ns == nsOf d c && tlbiHit kind (gReg d c rs1.toNat) e)))
    ∧ (plOf d c < minPl → Traps i s c d 2 (BitVec.ofNat 64 ((⟨0, rs1, BitVec.ofNat 12 kind⟩ : OpS).word 8)) (pcOf d c))

/-- MFSR of an assigned register that the level may reach writes its value to rd. MTSR to a register that stores plainly writes
exactly its writable bits, and reads back so; BPCTL.FLUSH flushes the predictor. An unassigned number, or vector state while it is
disabled, takes the illegal-instruction exception, and a number above the level the privileged-instruction exception.
(03_ploelm_base_isa.md, 05_core.md) -/
def Obligations.SystemRegisterMoves : Prop :=
  ∀ (s : State) (c : CoreId) (d : Dev) (a : OpS), Begins s c d →
    ((a.rs1 = 0 → SrReach d c a.imm.toNat → WritesG (.mfsr c a) s c d a.rd (srRead d c (srHome (plOf d c) a.imm.toNat)))
    ∧ (∀ m, a.rd = 0 → SrReach d c a.imm.toNat → srMask (srHome (plOf d c) a.imm.toNat) = some m →
        Completes (.mtsr c a) s fun t => Next d t c
          ∧ (isPmc (srHome (plOf d c) a.imm.toNat) = false →
              sr t c (srHome (plOf d c) a.imm.toNat) = gReg d c a.rs1.toNat &&& m)
          ∧ Frame d t c [] [] [] [] [srHome (plOf d c) a.imm.toNat] ∧ Units d t)
    ∧ (srAssigned a.imm.toNat = false → Traps (.mfsr c a) s c d 1 (BitVec.ofNat 64 (a.word 0xA)) (pcOf d c)
        ∧ Traps (.mtsr c a) s c d 1 (BitVec.ofNat 64 (a.word 0xB)) (pcOf d c))
    ∧ (a.rs1 = 0 → srAssigned a.imm.toNat = true → (srVector a.imm.toNat = true → getB Ps.VEN (pstate d c) = true) →
        plOf d c < a.imm.toNat / 1024 → Traps (.mfsr c a) s c d 2 (BitVec.ofNat 64 (a.word 0xA)) (pcOf d c)))

/-- A push instruction that its queue admits, with its issuer's earlier stores out of the store buffer and fewer than eight entries in
the tail window of its tile, puts exactly its item (64 bytes, one word, an open or close marker) at the end of that window,
completes and changes no register and no byte of memory; QOPEN opens the producer's packet and QCLOSE ends it. A push that waited
completes in the same way. An instruction that its queue does not admit takes the queue fault 0x13. (08_strap_queues.md) -/
def Obligations.QueuePushesEnterTheTailWindow : Prop :=
  ∀ (s : State) (c : CoreId) (d : Dev) (a : OpQ) (qs : QueueSt), Begins s c d → QAdmits d c a qs → (cacheSt d c).sb = [] →
    (tailOf qs c).length < 8 →
    (∀ i : Instr, i = .qpush c a ∨ (i = .waitingQpushComplete c ∧ ∃ q' b, (coreSt s.dev c).qwait = some ⟨0, a, q', b⟩) →
      qLegal 0 a = true → QFaultFree d c 0 a → Completes i s fun t => Pushed d t c a (.full (regLine d c a.rs.toNat)))
    ∧ (qLegal 1 a = true → QFaultFree d c 1 a → (∀ w, (tailOf qs c).getLast? ≠ some (coreProd d c, .words w)) →
      Completes (.qpushW c a) s fun t => Pushed d t c a (.words [gReg d c a.rs.toNat]))
    ∧ (qLegal 4 a = true → QFaultFree d c 4 a → Completes (.qopen c a) s fun t => Pushed d t c a .openMark
        ∧ ∃ x, queueAt t (qNum d c a) = some x ∧ issuedOf x (coreProd d c) = 1)
    ∧ (qLegal 5 a = true → QFaultFree d c 5 a → Completes (.qclose c a) s fun t => Pushed d t c a .closeMark
        ∧ ∃ x, queueAt t (qNum d c a) = some x ∧ issuedOf x (coreProd d c) = 0)
    ∧ (∀ (i : Instr) (func : Nat), (i, func) ∈ [(Instr.qpush c a, 0), (.qpushW c a, 1), (.qpop c a, 2), (.qpopNb c a, 3), (.qopen c a, 4),
        (.qclose c a, 5), (.qdrop c a, 6), (.qstat c a, 7)] → qLegal func a = true →
        qFaults d func (gReg d c a.rq.toNat) (nsOf d c) (coreProd d c) = true →
        Traps i s c d 0x13 (BitVec.ofNat 64 (qNum d c a)) (pcOf d c))

/-- With the head engine on and with a slot, a pop of an unpoisoned head entry in the head window of a queue with no open packet
writes its 64 bytes to the eight registers and the pop status to rs and takes the entry off the queue; QPOP.NB of a queue that
cannot deliver writes the reason to rs and takes nothing; QDROP of a header with no payload takes it off the queue and counts it
as discarded; QSTAT writes the status word. No byte of memory and no other register changes. A pop that waited completes in the
same way. (08_strap_queues.md) -/
def Obligations.QueuePopsDeliverTheHead : Prop :=
  ∀ (s : State) (c : CoreId) (d : Dev) (a : OpQ) (qs : QueueSt) (e : QEntry) (r : List QEntry), Begins s c d → QAdmits d c a qs →
    engOn d (headCore (qNum d c a) qs) = true → (qEng d (headCore (qNum d c a) qs)).slots.length < 31 → qs.opened = none →
    (∀ (i : Instr) (func : Nat), (i, func) = (.qpop c a, 2) ∨ (i, func) = (.qpopNb c a, 3)
        ∨ ((i, func) = (.waitingQpopComplete c, 2) ∧ ∃ q' b, (coreSt s.dev c).qwait = some ⟨2, a, q', b⟩) →
      qLegal func a = true → QFaultFree d c func a → popWhy qs = none → qs.win = e :: r → e.poison = false →
      Completes i s fun t => Next d t c
        ∧ (∀ j < 8, a.rd.toNat + j ≠ a.rs.toNat → gReg t c (a.rd.toNat + j) = BitVec.ofNat 64 (lineGet e.data (8 * j) 8))
        ∧ gReg t c a.rs.toNat = (if a.rs = 0 then 0 else popStatus e)
        ∧ Frame d t c (a.rs.toNat :: (List.range 8).map (a.rd.toNat + ·)) [] [] [] []
        ∧ ∃ x, queueAt t (qNum d c a) = some x ∧ x.win = r ∧ x.head = qs.head + 1 ∧ x.tail = qs.tail ∧ x.ring = qs.ring)
    ∧ (∀ w, qLegal 3 a = true → QFaultFree d c 3 a → popWhy qs = some w →
        Completes (.qpopNb c a) s fun t => gReg t c a.rs.toNat = (if a.rs = 0 then 0 else BitVec.ofNat 64 (w * 2)) ∧ Next d t c
          ∧ Frame d t c [a.rs.toNat] [] [] [] [] ∧ queueAt t (qNum d c a) = some qs)
    ∧ (qLegal 6 a = true → QFaultFree d c 6 a → (cacheSt d c).sb = [] → qs.inPkt = false → qs.win = e :: r → e.header = true → e.more = false →
        Completes (.qdrop c a) s fun t => Next d t c ∧ Frame d t c [] [] [] [] []
          ∧ ∃ x, queueAt t (qNum d c a) = some x ∧ x.win = r ∧ x.ring = qs.ring ∧ x.head = qs.head + 1 ∧ x.discarded = qs.discarded + 1)
    ∧ (qLegal 7 a = true → QFaultFree d c 7 a →
        Completes (.qstat c a) s fun t => gReg t c a.rd.toNat = (if a.rd = 0 then 0 else qstatWord qs (coreProd d c)) ∧ Next d t c
          ∧ Frame d t c [a.rd.toNat] [] [] [] [] ∧ queueAt t (qNum d c a) = some qs)

/-- A grant to a stop accepts the front entry of its tail window into the head window of a queue that has room; a refill moves the
ring entry nearest the head into the head window with the data of its ring place; a packer's partial entry is released as an
accepted entry when PACK_WAIT has passed; an open packet is closed and its producer discarded when OPEN_TO has passed.
(08_strap_queues.md) -/
def Obligations.QueueEngineCommands : Prop :=
  ∀ (s : State) (q : BitVec 18) (qs : QueueSt), queueAt s.dev q.toNat = some qs → qs.faulted = false →
    (∀ (stop : Fin 6000) (p : QProd) (l : LineData) (rest : List (QProd × QItem)), tailOf qs stop = (p, .full l) :: rest → p ∉ qs.disc →
      qs.framed = false → qs.opened = none → qs.pack = none → qs.win.length < 8 → qs.ring = [] → qs.full = false →
      engOn s.dev (headCore q.toNat qs) = true → (qEng s.dev (headCore q.toNat qs)).slots.length < 32 →
      Completes (.entryAcceptance q stop) s fun t => ∃ x, queueAt t q.toNat = some x ∧ x.win = qs.win ++ [⟨l, false, 64, false, false, false⟩]
        ∧ x.tail = qs.tail + 1 ∧ x.head = qs.head ∧ tailOf x stop = rest ∧ (∀ a, memByte t a = memByte s.dev a))
    ∧ (∀ (en : QEntry) (rest : List QEntry), qs.ring = en :: rest → qs.win.length < 8 →
      spillAdmits s.dev q.toNat qs .r (ringPlace qs (qs.head + qs.win.length)) = true →
      Completes (.ringRefill q) s fun t => ∃ x, queueAt t q.toNat = some x ∧ x.ring = rest
        ∧ x.win = qs.win ++ [{ en with data := (lineValue s.dev (ringPlace qs (qs.head + qs.win.length))).1,
                                       poison := (lineValue s.dev (ringPlace qs (qs.head + qs.win.length))).2 }])
    ∧ (∀ p : QPack, qs.pack = some p → p.at' + qs.packWait * 10 ≤ nowOf s.dev (qDie q.toNat) → qs.full = false → qs.win.length < 8 →
      qs.ring = [] → qs.opened = none →
      Completes (.packWaitRelease q) s fun t => ∃ x, queueAt t q.toNat = some x ∧ x.pack = none ∧ x.tail = qs.tail + 1
        ∧ x.win = qs.win ++ [⟨wordsLine p.words, false, 8 * p.words.length, p.header, false, false⟩])
    ∧ (∀ (o : QOpen) (h : Nat), qs.opened = some o → o.hdr = some h → h - qs.head < qs.win.length → qs.pack = none → qs.openTo ≠ 0 →
      o.at' + qs.openTo * 1000 ≤ nowOf s.dev (qDie q.toNat) →
      Completes (.openToTimeout q) s fun t => ∃ x, queueAt t q.toNat = some x ∧ x.opened = none ∧ x.forced = qs.forced + 1
        ∧ o.by' ∈ x.disc ∧ x.tail = qs.tail ∧ x.head = qs.head)

/-- A write of SYS.QCMD whose outcome is 0 creates the queue that the image describes, or destroys the queue, and reports 0 in
SYS.QCMDSTAT; with another outcome it reports it and leaves the queues as they are. A lock or unlock request for a line that its
home has answered leaves the answer in SYS.LLSTAT, and one on memory that is not normal leaves 4. A write of BPCTL with FLUSH set
leaves the predictor flushed. (08_strap_queues.md, 06_llc_scratchpad.md, 05_core.md) -/
def Obligations.QueueAndLockCommands : Prop :=
  ∀ (s : State) (c : CoreId) (d : Dev) (rs1 : BitVec 5), Begins s c d →
    (∀ (d1 : Dev) (img : Nat), 1 ≤ plOf d c → (cacheSt d c).sb = [] → bitsOf (gReg d c rs1.toNat) 19 18 = 0 →
      readImage c (sr d c Sr.QIMG) d = (d1, .ok img) →
      (qOutcome d1 (gReg d c rs1.toNat) img (plOf d1 c) (nsOf d1 c) (accPart d1 c).toNat = 0 →
        Completes (.create c rs1) s fun t => queueAt t (bitsOf (gReg d c rs1.toNat) 17 0) = some (imageQueue img) ∧ sr t c Sr.QCMDSTAT = 0
          ∧ Next d1 t c)
      ∧ (qOutcome d1 (gReg d c rs1.toNat) img (plOf d1 c) (nsOf d1 c) (accPart d1 c).toNat ≠ 0 →
        Completes (.create c rs1) s fun t => t.queues = d1.queues ∧ Next d1 t c
          ∧ sr t c Sr.QCMDSTAT = BitVec.ofNat 64 (qOutcome d1 (gReg d c rs1.toNat) img (plOf d1 c) (nsOf d1 c) (accPart d1 c).toNat)))
    ∧ (1 ≤ plOf d c → (cacheSt d c).sb = [] → bitsOf (gReg d c rs1.toNat) 19 18 = 1 →
      qOutcome d (gReg d c rs1.toNat) 0 (plOf d c) (nsOf d c) (accPart d c).toNat = 0 →
      (∀ x ∈ d.cores, x.2.qwait = none) →
      Completes (.destroy c rs1) s fun t => queueAt t (bitsOf (gReg d c rs1.toNat) 17 0) = none ∧ sr t c Sr.QCMDSTAT = 0 ∧ Next d t c)
    ∧ (∀ (x : Xl) (p off : Nat), 1 ≤ plOf d c → translate c (gReg d c rs1.toNat) .load d = (d, .ok x) → regionOf x.pa = .dram p off →
      (x.mt ≠ 0 → (Completes (.llock c rs1) s fun t => sr t c Sr.LLSTAT = 4 ∧ Next d t c ∧ Frame d t c [] [] [] [] [Sr.LLSTAT])
        ∧ (Completes (.lunlock c rs1) s fun t => sr t c Sr.LLSTAT = 4 ∧ Next d t c ∧ Frame d t c [] [] [] [] [Sr.LLSTAT]))
      ∧ (∀ (d1 : Dev) (r : Msg), x.mt = 0 → dramAdmits d (xlWho d c x) .r x.pa = true →
        (takeResult c (lineKey (x.pa / 64 * 64) x.ns) .lock d = some (d1, r) →
          Completes (.llock c rs1) s fun t => sr t c Sr.LLSTAT = BitVec.ofNat 64 r.arg ∧ Next d t c ∧ Frame d t c [] [] [] [] [Sr.LLSTAT])
        ∧ (takeResult c (lineKey (x.pa / 64 * 64) x.ns) .unlock d = some (d1, r) →
          Completes (.lunlock c rs1) s fun t => sr t c Sr.LLSTAT = BitVec.ofNat 64 r.arg ∧ Next d t c ∧ Frame d t c [] [] [] [] [Sr.LLSTAT])))
    ∧ (2 ≤ plOf d c → bitOf (gReg d c rs1.toNat) 3 = true →
      Completes (.bpctlFlush c rs1) s fun t => (coreSt t c).pred = Pred.flushed ∧ Next d t c ∧ Frame d t c [] [] [] [] [Sr.BPCTL])

/-- A legal VCONF with vector state enabled writes the configuration (VILL for an invalid one), clears VSTART, and sets VL and rd to
VLMAX, to the smaller of the requested length and VLMAX, or to 0 for an invalid configuration; it changes nothing else. While
vector state is disabled it takes the illegal-instruction exception. (04_long_vectors.md) -/
def Obligations.VectorConfiguration : Prop :=
  ∀ (s : State) (c : CoreId) (d : Dev) (a : OpV), Begins s c d →
    (getB Ps.VEN (pstate d c) = true → a.mask.toNat ≤ 1 → (a.mask = 1 → a.vs1 = 0) →
      Completes (.vconf c a) s fun t =>
        sr t c Sr.VCFG = (if vcfgOk (gReg d c a.vs2.toNat) then gReg d c a.vs2.toNat else 0x8000000000000000#64)
        ∧ sr t c Sr.VSTART = 0
        ∧ sr t c Sr.VL = BitVec.ofNat 64 (if vcfgOk (gReg d c a.vs2.toNat) = false then 0 else if a.mask = 1 then vlMax t c
            else min (gReg d c a.vs1.toNat).toNat (vlMax t c))
        ∧ gReg t c a.vd.toNat = (if a.vd = 0 then 0 else sr t c Sr.VL)
        ∧ Next d t c ∧ Frame d t c [a.vd.toNat] [] [] [] [Sr.VCFG, Sr.VL, Sr.VSTART] ∧ Units d t)
    ∧ (getB Ps.VEN (pstate d c) = false → Traps (.vconf c a) s c d 1 (BitVec.ofNat 64 ((a.fmt 0).word 0x27)) (pcOf d c))

/-- A legal VEC0 member, VMERGE, VEC1 member, widening or narrowing member, conversion, dot product, reduction, slide, VPERMX,
VCOMPRESS, VID, VMV.S.G or VFMV.S.F that meets no configuration fault writes its result to each active element of its destination
group, leaves every other element of the group as it was, sets VSTART to 0, ORs the flags of a floating-point member into FCSR,
and changes no other register and no byte of memory. (04_long_vectors.md) -/
def Obligations.VectorElementResults : Prop :=
  ∀ (s : State) (c : CoreId) (d : Dev), Begins s c d → getB Ps.VEN (pstate d c) = true →
    (∀ a : FmtV, vec0Legal a = true → vCheck d c (needSame c a (fun _ => true) d) = none →
      VWrites (.vec0Integer c a) s c d a.vd.toNat (vG d c) (vSew d c) 0 ((activeElts d c a.mask).map fun i =>
        (i, (vec0Op (vSew d c) (vMem a) (elt (vGroup d c a.vs1.toNat (vG d c)) (vSew d c) i) ((src2 d c a none).at' (vSew d c) i)).getD 0)))
    ∧ (∀ (form : BitVec 2) (b : OpV), form ≠ 2 → vCheck d c (needSame c (b.fmt (form.toNat * 64 + 24)) (fun _ => true) d) = none →
      VWrites (.vmerge c form b) s c d b.vd.toNat (vG d c) (vSew d c) 0 ((bodyElts d c).map fun i =>
        (i, if vMaskBit d c b.mask i then (src2 d c (b.fmt (form.toNat * 64 + 24)) none).at' (vSew d c) i
            else elt (vGroup d c b.vs1.toNat (vG d c)) (vSew d c) i)))
    ∧ (∀ (a : FmtV) (f : SF.Fmt), vec1Legal c a d = true → vArith d c = some f →
      vCheck d c (needSame c a (fun d => (vArith d c).isSome) d) = none →
      ∃ r : Nat → Nat × Nat, (∀ i, r i = (vec1Op f (fcsrRm d c) (vMem a) (elt (vGroup d c a.vs1.toNat (vG d c)) (vSew d c) i)
          ((src2 d c a (some f)).at' (vSew d c) i) (elt (vGroup d c a.vd.toNat (vG d c)) (vSew d c) i)).getD (0, 0))
        ∧ VWrites (.vec1FloatingPoint c a) s c d a.vd.toNat (vG d c) (vSew d c)
            ((activeElts d c a.mask).foldl (fun x i => x ||| (r i).2) 0) ((activeElts d c a.mask).map fun i => (i, (r i).1)))
    ∧ (∀ a : FmtV, vwnLegal a = true → vCheck d c (vwnNeed c a d) = none →
      (isWiden a = true → VWrites (.vec2WidenNarrow c a) s c d a.vd.toNat (2 * vG d c) (2 * vSew d c) 0 ((activeElts d c a.mask).map fun i =>
        (i, (widenOp (vSew d c) (vMem a) (elt (vGroup d c a.vs1.toNat (vG d c)) (vSew d c) i) ((src2 d c a none).at' (vSew d c) i)).getD 0)))
      ∧ (isWiden a = false → VWrites (.vec2WidenNarrow c a) s c d a.vd.toNat (vG d c) (vSew d c) 0 ((activeElts d c a.mask).map fun i =>
        (i, (narrowOp (vSew d c) (vMem a) (elt (vGroup d c a.vs1.toNat (2 * vG d c)) (2 * vSew d c) i) ((src2 d c a none).at' (vSew d c) i)).getD 0))))
    ∧ (∀ (a : FmtV) (f : SF.Fmt), vcvtLegal c a d = true → vMem a < 20 → vFmt d c = some f → vCheck d c (vcvtNeed c a d) = none →
      ∃ r : Nat → Nat × Nat, (∀ i, r i = (cvtOp f (fcsrRm d c) (vMem a) (a.vfunc.getLsbD 7)
          (elt (vGroup d c a.vs1.toNat (vG d c)) (vSew d c) i)).getD (0, 0))
        ∧ VWrites (.vec2Convert c a) s c d a.vd.toNat (vG d c) (vSew d c)
            ((activeElts d c a.mask).foldl (fun x i => x ||| (r i).2) 0) ((activeElts d c a.mask).map fun i => (i, (r i).1)))
    ∧ (∀ a : FmtV, vdotLegal c a d = true → vSew d c = 32 →
      vCheck d c ⟨true, [], [(a.vd.toNat, vG d c), (a.vs1.toNat, vG d c), (a.vs2.toNat, vG d c)], none, false⟩ = none →
      ∃ r : Nat → Nat × Nat, (∀ i, r i = dotOp (fcsrRm d c) (vMem a) (a.vfunc.getLsbD 6) (a.vfunc.getLsbD 7)
          (elt (vGroup d c a.vd.toNat (vG d c)) 32 i) (elt (vGroup d c a.vs1.toNat (vG d c)) 32 i) (elt (vGroup d c a.vs2.toNat (vG d c)) 32 i))
        ∧ VWrites (.vdot c a) s c d a.vd.toNat (vG d c) 32
            ((activeElts d c a.mask).foldl (fun x i => x ||| (r i).2) 0) ((activeElts d c a.mask).map fun i => (i, (r i).1)))
    ∧ (∀ (a : FmtV) (r : Nat × Nat), redLegal c a d = true →
      vCheck d c ⟨decide (vMem a < 8) || (vArith d c).isSome, [], [(a.vs1.toNat, vG d c)], none, true⟩ = none →
      redOp (vSew d c) ((vArith d c).getD SF.b64) (fcsrRm d c) (vMem a) (vlMax d c) (elt (vGroup d c a.vs2.toNat 1) (vSew d c) 0)
        ((activeElts d c a.mask).map fun i => (i, elt (vGroup d c a.vs1.toNat (vG d c)) (vSew d c) i)) = r →
      VWrites (.reduction c a) s c d a.vd.toNat 1 (vSew d c) r.2 [(0, r.1)])
    ∧ (∀ (form : BitVec 2) (b : OpV), form = 1 ∨ form = 3 →
      (vCheck d c (permNeed c (b.fmt (form.toNat * 64 + 16)) false d) = none →
        VWrites (.vslideup c form b) s c d b.vd.toNat (vG d c) (vSew d c) 0
          (((activeElts d c b.mask).filter fun i => decide (slideOff d c (b.fmt (form.toNat * 64 + 16)) ≤ i)).map fun i =>
            (i, elt (vGroup d c b.vs1.toNat (vG d c)) (vSew d c) (i - slideOff d c (b.fmt (form.toNat * 64 + 16))))))
      ∧ (vCheck d c (permNeed c (b.fmt (form.toNat * 64 + 17)) false d) = none →
        VWrites (.vslidedown c form b) s c d b.vd.toNat (vG d c) (vSew d c) 0 ((activeElts d c b.mask).map fun i =>
            (i, if i + slideOff d c (b.fmt (form.toNat * 64 + 17)) < vlMax d c then
              elt (vGroup d c b.vs1.toNat (vG d c)) (vSew d c) (i + slideOff d c (b.fmt (form.toNat * 64 + 17))) else 0))))
    ∧ (∀ b : OpV,
      (vCheck d c (permNeed c (b.fmt 18) false d) = none →
        VWrites (.vpermx c b) s c d b.vd.toNat (vG d c) (vSew d c) 0 ((activeElts d c b.mask).map fun i =>
          (i, if elt (vGroup d c b.vs2.toNat (vG d c)) (vSew d c) i < vlMax d c then
            elt (vGroup d c b.vs1.toNat (vG d c)) (vSew d c) (elt (vGroup d c b.vs2.toNat (vG d c)) (vSew d c) i) else 0)))
      ∧ (vCheck d c (permNeed c (b.fmt 19) true d) = none →
        VWrites (.vcompress c b) s c d b.vd.toNat (vG d c) (vSew d c) 0 ((activeElts d c b.mask).zipIdx.map fun e =>
          (e.2, elt (vGroup d c b.vs1.toNat (vG d c)) (vSew d c) e.1)))
      ∧ (b.mask = 0 → vCheck d c ⟨true, [], [(b.vd.toNat, vG d c)], none, false⟩ = none →
        VWrites (.vid c b) s c d b.vd.toNat (vG d c) (vSew d c) 0 ((bodyElts d c).map fun i => (i, i))
        ∧ VWrites (.vmvSG c b) s c d b.vd.toNat 1 (vSew d c) 0 [(0, (gReg d c b.vs1.toNat).toNat)])
      ∧ (∀ f, b.mask = 0 → 16 ≤ vSew d c → vFmt d c = some f → vCheck d c ⟨true, [], [(b.vd.toNat, vG d c)], none, false⟩ = none →
        VWrites (.vfmvSF c b) s c d b.vd.toNat 1 (vSew d c) 0 [(0, fVal d c f b.vs1)]))

/-- A legal vector compare writes one bit of its mask register for each active element and leaves the others; a mask member writes the
bits below VL; KPOPC and KFIRST write the count and the first index of the set bits below VL (all ones when there is none) to a g
register; VMV.G.S and VFMV.F.S write element 0, sign-extended or boxed. VSTART becomes 0, and no other register and no byte of
memory changes. (04_long_vectors.md) -/
def Obligations.VectorMasksAndScalars : Prop :=
  ∀ (s : State) (c : CoreId) (d : Dev), Begins s c d → getB Ps.VEN (pstate d c) = true →
    (∀ a : FmtV, vcmpLegal a = true → vMem a < 8 → vCheck d c ⟨true, [], (a.vs1.toNat, vG d c) :: vs2Grp a (vG d c), none, false⟩ = none →
      Completes (.vectorCompare c a) s fun t => VDone d t c [] [] [a.vd.toNat]
        ∧ ∀ i < 4096, (kReg t c a.vd.toNat).getLsbD i = (if i ∈ activeElts d c a.mask then
            vmsOp (vSew d c) (vMem a) (elt (vGroup d c a.vs1.toNat (vG d c)) (vSew d c) i) ((src2 d c a ((vArith d c).getD SF.b64)).at' (vSew d c) i)
          else (kReg d c a.vd.toNat).getLsbD i))
    ∧ (∀ a : FmtV, maskLegal a = true → vCheck d c (maskNeed d) = none →
      Completes (.maskMembers c a) s fun t => VDone d t c [] [] [kNum a.vd]
        ∧ ∀ i < 4096, (kReg t c (kNum a.vd)).getLsbD i = (if i < vL d c then
            maskOp (vMem a) ((kReg d c (kNum a.vs1)).getLsbD i) ((kReg d c (kNum a.vs2)).getLsbD i)
          else (kReg d c (kNum a.vd)).getLsbD i))
    ∧ (∀ b : OpV, b.mask = 0 → vCheck d c (maskNeed d) = none →
      (Completes (.kpopc c b) s fun t => VDone d t c [b.vd.toNat] [] []
        ∧ gReg t c b.vd.toNat = (if b.vd = 0 then 0 else BitVec.ofNat 64 (maskSet d c (kNum b.vs1)).length))
      ∧ (Completes (.kfirst c b) s fun t => VDone d t c [b.vd.toNat] [] []
        ∧ gReg t c b.vd.toNat = (if b.vd = 0 then 0 else
            match (maskSet d c (kNum b.vs1)).head? with | some i => BitVec.ofNat 64 i | none => 0xFFFFFFFFFFFFFFFF#64)))
    ∧ (∀ b : OpV, b.mask = 0 → vCheck d c ⟨true, [], [(b.vs1.toNat, vG d c)], none, false⟩ = none →
      (Completes (.vmvGS c b) s fun t => VDone d t c [b.vd.toNat] [] []
        ∧ gReg t c b.vd.toNat = (if b.vd = 0 then 0 else sext (vSew d c) (elt (vReg d c b.vs1.toNat).toNat (vSew d c) 0)))
      ∧ (∀ f, 16 ≤ vSew d c → vFmt d c = some f →
        Completes (.vfmvFS c b) s fun t => VDone d t c [] [b.vd.toNat] []
          ∧ fReg t c b.vd.toNat = box f (elt (vReg d c b.vs1.toNat).toNat (vSew d c) 0)))

/-- A legal unit-stride or strided vector load, register or mask transfer load, or gather whose elements are all read without a cause
completes: VSTART becomes 0, the destination holds what its element loads put there, and no other register changes afterwards. The
load of a single active element puts the value read into that element and leaves the others. VLDX.FF with a cause past the first
element completes with VL shortened to that element. (04_long_vectors.md) -/
def Obligations.VectorLoads : Prop :=
  ∀ (s : State) (c : CoreId) (d d1 : Dev) (b : OpV), Begins s c d → getB Ps.VEN (pstate d c) = true →
    (∀ (i : Instr) (a : FmtV) (addr : Nat → Word), (i, a, addr) = (.vld c b, b.fmt (vmFunc 0 0 0 0), unitAddr d c (b.fmt (vmFunc 0 0 0 0)))
        ∧ b.vs2 = 0 ∨ (i, a, addr) = (.vldStrided c b, b.fmt (vmFunc 1 0 0 0), strideAddr d c (b.fmt (vmFunc 1 0 0 0))) →
      vCheck d c (vmemNeed c a false false (fun _ => true) d) = none →
      (loadElems c (vSew d c / 8) (putVd c a) (vItems (activeElts d c b.mask) addr) d = (d1, .ok ()) →
        Completes i s fun t => VDone d1 t c [] [] [] ∧ (∀ r, vReg t c r = vReg d1 c r))
      ∧ (∀ k v, activeElts d c b.mask = [k] →
        ((elemXl c .load (vSew d c / 8) (addr k)).bnd fun x => loadPart c x (vSew d c / 8) (addr k) false) d = (d1, .ok v) →
        VWrites' i s c d1 b.vd.toNat (vG d1 c) (vSew d1 c) [(k, v)]))
    ∧ (xferLegal d c b = true →
      (loadElems c 8 (fun i v d => setV c b.vd.toNat (putUnit (vReg d c b.vd.toNat) i v) d) (vItems (xferUnits d c) (xferAddr d c b)) d = (d1, .ok ()) →
        Completes (.vldR c b) s fun t => VDone d1 t c [] [] [] ∧ (∀ r, vReg t c r = vReg d1 c r))
      ∧ (loadElems c 8 (fun i v d => setK c (b.vd.toNat % 8) (putUnit (kReg d c (b.vd.toNat % 8)) i v) d)
          (vItems (xferUnits d c) (xferAddr d c b)) d = (d1, .ok ()) →
        Completes (.vldk c b) s fun t => VDone d1 t c [] [] [] ∧ (∀ r, kReg t c r = kReg d1 c r)))
    ∧ (∀ (scale : BitVec 2) (ff : Bool) (a : FmtV), a = b.fmt (vmFunc (if ff then 3 else 2) scale.toNat 0 0) →
      vCheck d c (vmemNeed c a true true (fun _ => true) d) = none →
      (gatherAll c (vSew d c / 8) (putVd c a) (chunks 64 (activeElts d c b.mask).length
          (vItems (activeElts d c b.mask) (indexAddr d c a scale.toNat))) d = (d1, .ok none) →
        Completes (if ff then .vldxFf c scale b else .vldx c scale b) s fun t => VDone d1 t c [] [] [] ∧ (∀ r, vReg t c r = vReg d1 c r))
      ∧ (∀ k e, ff = true → vStart d c < k → gatherAll c (vSew d c / 8) (putVd c a) (chunks 64 (activeElts d c b.mask).length
          (vItems (activeElts d c b.mask) (indexAddr d c a scale.toNat))) d = (d1, .ok (some (k, e))) →
        Completes (.vldxFf c scale b) s fun t => sr t c Sr.VL = BitVec.ofNat 64 k ∧ sr t c Sr.VSTART = 0 ∧ Next d1 t c
          ∧ Frame d1 t c [] [] [] [] [Sr.VL, Sr.VSTART]))

/-- A legal unit-stride or strided vector store, register or mask transfer store, scatter or scatter reduction whose elements are all
performed completes: VSTART becomes 0, nothing of the store stays remembered, and no register changes. The store of a single
active element of normal memory that L2 holds in M or E puts exactly that element at the end of the store buffer; a scatter writes
it into the line. (04_long_vectors.md) -/
def Obligations.VectorStores : Prop :=
  ∀ (s : State) (c : CoreId) (d d1 : Dev) (b : OpV) (l : List Nat), Begins s c d → getB Ps.VEN (pstate d c) = true → (coreSt d c).vprog = none →
    (∀ (i : Instr) (a : FmtV) (addr : Nat → Word), (i, a, addr) = (.vst c b, b.fmt (vmFunc 0 0 0 0), unitAddr d c (b.fmt (vmFunc 0 0 0 0)))
        ∧ b.vs2 = 0 ∨ (i, a, addr) = (.vstStrided c b, b.fmt (vmFunc 1 0 0 0), strideAddr d c (b.fmt (vmFunc 1 0 0 0))) →
      vCheck d c (vmemNeed c a false false (fun _ => true) d) = none →
      (storeElems c (vSew d c / 8) (getVd d c a) (vItems (activeElts d c b.mask) addr) [] d = (d1, .ok (l, some ())) →
        Completes i s fun t => VDone d1 t c [] [] [] ∧ (coreSt t c).vprog = none ∧ t.caches = d1.caches)
      ∧ (∀ (k : Nat) (x : Xl) (ln : L2Line) (p off : Nat), activeElts d c b.mask = [k] → (addr k).toNat % (vSew d c / 8) = 0 →
        StoreHit d c (addr k) x ln p off → (cacheSt d c).sb.length < 128 →
        Completes i s fun t => VDone d t c [] [] [] ∧ (cacheSt t c).l2 = (cacheSt d c).l2
          ∧ (cacheSt t c).sb = (cacheSt d c).sb ++ [⟨x.pa, vSew d c / 8, getVd d c a k, xlWho d c x, x.tl, false, false⟩]))
    ∧ (xferLegal d c b = true →
      (storeElems c 8 (fun i => elt (vReg d c b.vd.toNat).toNat 64 i) (vItems (xferUnits d c) (xferAddr d c b)) [] d = (d1, .ok (l, some ())) →
        Completes (.vstR c b) s fun t => VDone d1 t c [] [] [] ∧ (coreSt t c).vprog = none ∧ t.caches = d1.caches)
      ∧ (storeElems c 8 (fun i => elt (kReg d c (b.vd.toNat % 8)).toNat 64 i) (vItems (xferUnits d c) (xferAddr d c b)) [] d = (d1, .ok (l, some ())) →
        Completes (.vstk c b) s fun t => VDone d1 t c [] [] [] ∧ (coreSt t c).vprog = none ∧ t.caches = d1.caches))
    ∧ (∀ (scale : BitVec 2), (isLeader d c && (coreSt d c).grp != 0) = false →
      (∀ a, a = b.fmt (vmFunc 2 scale.toNat 0 0) → vCheck d c (vmemNeed c a true false (fun _ => true) d) = none →
        (scatterAll c (vSew d c / 8) none (getVd d c a) (chunks 64 (activeElts d c b.mask).length
            (vItems (activeElts d c b.mask) (indexAddr d c a scale.toNat))) [] d = (d1, .ok (l, some ())) →
          Completes (.vstx c scale b) s fun t => VDone d1 t c [] [] [] ∧ (coreSt t c).vprog = none ∧ t.caches = d1.caches)
        ∧ (∀ (k : Nat) (x : Xl) (ln : L2Line) (p off : Nat), activeElts d c b.mask = [k] → (indexAddr d c a scale.toNat k).toNat % (vSew d c / 8) = 0 →
          StoreHit d c (indexAddr d c a scale.toNat k) x ln p off → (cacheSt d c).sb = [] →
          Completes (.vstx c scale b) s fun t => VDone d t c [] [] [] ∧ (coreSt t c).vprog = none
            ∧ l2Line t c (lineKey x.pa x.ns) = some (ln.store (x.pa % 64) (vSew d c / 8) (getVd d c a k))))
      ∧ (∀ (ty : BitVec 2) (rop : Nat) (op : AmoOp) (i : Instr) (a : FmtV), (i, rop, op) ∈ [(.vstxAdd c scale ty b, 0, AmoOp.add),
          (.vstxMin c scale ty b, 1, AmoOp.min), (.vstxMax c scale ty b, 2, AmoOp.max)] → a = b.fmt (vmFunc 3 scale.toNat rop ty.toNat) →
        ty ≠ 3 → (ty = 2 → rop = 0 → rmBad d c = false) → vCheck d c (vmemNeed c a true false (fun d => decide (32 ≤ vSew d c)) d) = none →
        scatterAll c (vSew d c / 8) (some (redAtom c op ty d)) (getVd d c a) (chunks 64 (activeElts d c b.mask).length
          (vItems (activeElts d c b.mask) (indexAddr d c a scale.toNat))) [] d = (d1, .ok (l, some ())) →
        Completes i s fun t => VDone d1 t c [] [] [] ∧ (coreSt t c).vprog = none ∧ t.caches = d1.caches))

/-- With no copy recorded and a directory way free, RdShared and RdUnique are answered by the line's data in state E and the requester
is recorded as owner; RdShared of a line with sharers only is answered in S and adds the sharer; a refused read is answered by
poison in state I and records nothing; a line owned by a core is snooped first, with the data going straight to the requester.
Upgrade of the only sharer grants M. RdOnce is answered in I and the directory entry stays. The transactions that grant stay open
until acknowledged. No other home, cache or core changes. (07_coherence.md) -/
def Obligations.HomeGrantsLines : Prop :=
  ∀ (s : State) (m : Msg) (g a k : Nat) (h : Holder), let d := s.dev
    (AtHome d m m.addr g a k h DirEnt.empty [] → dirSetUse d a (dirSet k) < 12 →
      ∀ (i : Instr) (op : COp) (n : Need), (i, op, n) ∈ [(.rdshared m, COp.rdShared, Need.r), (.rdunique m, COp.rdUnique, Need.rw)] →
      (sourceRefused d a k m.who n = false → Completes i s fun t =>
        Sent d t m op a [withLine (m.reply .data (.home a)) (sourceData d a k) stE] ∧ dirEnt t a k = DirEnt.owned h
          ∧ (homeSt t a).txns = [Txn.ofReq k { m with op := op } .ack [] false])
      ∧ (sourceRefused d a k m.who n = true → Completes i s fun t =>
        Sent d t m op a [withLine (m.reply .data (.home a)) (0, true) stI] ∧ dirEnt t a k = DirEnt.empty ∧ (homeSt t a).txns = []))
    ∧ (∀ e, AtHome d m m.addr g a k h e [] → e.owner = none → e.any = true → e.wbp = false → sourceRefused d a k m.who .r = false →
      Completes (.rdshared m) s fun t => Sent d t m .rdShared a [withLine (m.reply .data (.home a)) (sourceData d a k) stS]
        ∧ dirEnt t a k = e.addSharer h ∧ (homeSt t a).txns = [Txn.ofReq k { m with op := .rdShared } .ack [] false])
    ∧ (∀ o c, AtHome d m m.addr g a k h (DirEnt.owned (.core o)) [] → m.src = .core c → h ≠ .core o →
      ∀ (i : Instr) (op sop : COp), (i, op, sop) ∈ [(.rdshared m, COp.rdShared, COp.snpShared), (.rdunique m, COp.rdUnique, COp.snpUnique)] →
      Completes i s fun t => Sent d t m op a [snoopTo a k { m with op := op } sop (.core o)] ∧ dirEnt t a k = DirEnt.owned (.core o)
        ∧ (homeSt t a).txns = [Txn.ofReq k { m with op := op } .owner [.core (slicePkg a * 320 + o)] true])
    ∧ (∀ c, AtHome d m m.addr g a k h { DirEnt.empty with sharers := [c] } [] → h = .core c →
      Completes (.upgrade m) s fun t => Sent d t m .upgrade a [{ m.reply .grant (.home a) with st := Machine.stM }] ∧ dirEnt t a k = DirEnt.owned h
        ∧ (homeSt t a).txns = [Txn.ofReq k { m with op := .upgrade } .ack [] false])
    ∧ (∀ e, AtHome d m m.addr g a k h e [] → e.owner = none → e.wbp = false → sourceRefused d a k m.who .r = false →
      Completes (.rdonce m) s fun t => Sent d t m .rdOnce a [withLine (m.reply .data (.home a)) (sourceData d a k) stI]
        ∧ dirEnt t a k = e ∧ (homeSt t a).txns = [])

/-- At an idle home with no L2 copy recorded and the line in the LLC: WrFull stores the line and WrPartial the enabled bytes; an
AtomicHome of unpoisoned DRAM returns the old value and stores the new one; a gather element returns its bytes, or zero and its
poison bit; a scatter element is stored, and a scatter reduction applied. The line is dirty after each write, one reply is sent,
and no transaction stays. (07_coherence.md, 04_long_vectors.md) -/
def Obligations.HomeAppliesWritesAndAtomics : Prop :=
  ∀ (s : State) (m : Msg) (g a k : Nat) (h : Holder) (l : LlcLine), let d := s.dev
    (llcLine d a k = some l → AtHome d m m.addr g a k h DirEnt.empty [] →
      (Completes (.wrfull m) s fun t => Sent d t m .wrFull a [m.reply .comp (.home a)] ∧ (homeSt t a).txns = [] ∧ dirEnt t a k = DirEnt.empty
        ∧ llcLine t a k = some { l with data := m.line, poison := m.poison, dirty := true })
      ∧ (Completes (.wrpartial m) s fun t => Sent d t m .wrPartial a [m.reply .comp (.home a)] ∧ (homeSt t a).txns = [] ∧ dirEnt t a k = DirEnt.empty
        ∧ llcLine t a k = some { l with data := lineMerge l.data m.line m.be, poison := l.poison || m.poison, dirty := true })
      ∧ (∀ x, m.atom = some x → (∀ D n o, regionOf m.addr ≠ .spad D n o) → l.poison = false →
        Completes (.atomichome m) s fun t =>
          Sent d t m .atomicHome a [{ m.reply .respData (.home a) with line := BitVec.ofNat 512 (lineGet l.data (m.addr % 64) x.size) }]
          ∧ (homeSt t a).txns = [] ∧ dirEnt t a k = DirEnt.empty
          ∧ llcLine t a k = some { l with
              data := linePut l.data (m.addr % 64) x.size (x.apply (lineGet l.data (m.addr % 64) x.size)), dirty := true }))
    ∧ (∀ el, m.elems = [el] → (∀ D n o, regionOf el.addr ≠ .spad D n o) → llcLine d a k = some l → AtHome d m el.addr g a k h DirEnt.empty [] →
      (Completes (.gather m) s fun t => Sent d t m .gather a [{ m.reply .respData (.home a) with
          elems := [{ el with data := if l.poison then 0#64 else BitVec.ofNat 64 (lineGet l.data (el.addr % 64) (elemBytes el.size)) }],
          arg := if l.poison then 2 ^ el.slot else 0 }]
        ∧ (homeSt t a).txns = [] ∧ (homeSt t a).pkts = [] ∧ llcLine t a k = some l)
      ∧ (Completes (.scatter m) s fun t => Sent d t m .scatter a [m.reply .comp (.home a)] ∧ (homeSt t a).txns = [] ∧ (homeSt t a).pkts = []
        ∧ llcLine t a k = some { l with data := linePut l.data (el.addr % 64) (elemBytes el.size) el.data.toNat, dirty := true })
      ∧ (∀ x, m.atom = some x → l.poison = false → Completes (.scatterred m) s fun t =>
        Sent d t m .scatterRed a [m.reply .comp (.home a)] ∧ (homeSt t a).txns = [] ∧ (homeSt t a).pkts = []
        ∧ llcLine t a k = some { l with
            data := linePut l.data (el.addr % 64) x.size (Atom.apply { x with val := el.data.toNat } (lineGet l.data (el.addr % 64) x.size)), dirty := true }))

/-- At an idle home with no L2 copy recorded: CmoClean leaves the LLC line clean, CmoInv and CmoFlush remove it. A lock request is
answered with its outcome, and sets the lock exactly on outcome 0; an unlock with its outcome, and clears the lock exactly on
outcome 1. Each is acknowledged and leaves no transaction. (06_llc_scratchpad.md, 07_coherence.md) -/
def Obligations.HomeMaintenanceAndLocks : Prop :=
  ∀ (s : State) (m : Msg) (g a k : Nat) (h : Holder) (l : LlcLine), let d := s.dev
    llcLine d a k = some l →
    (AtHome d m m.addr g a k h DirEnt.empty [] → ∀ (i : Instr) (op : COp) (r : Option LlcLine), (i, op, r) ∈
        [(.cmocleanMsg m, COp.cmoClean, some { l with dirty := false }), (.cmoinvMsg m, COp.cmoInv, none), (.cmoflushMsg m, COp.cmoFlush, none)] →
      Completes i s fun t => Sent d t m op a [m.reply .comp (.home a)] ∧ (homeSt t a).txns = [] ∧ dirEnt t a k = DirEnt.empty ∧ llcLine t a k = r)
    ∧ (∀ e o, AtHome d m m.addr g a k h e [] → e.wbp = false → lockOutcome d a k (BitVec.ofNat 6 m.arg) = o → l.way < 8 →
      Completes (.lock m) s fun t => Sent d t m .lock a [{ m.reply .comp (.home a) with arg := o }] ∧ (homeSt t a).txns = [] ∧ dirEnt t a k = e
        ∧ llcLine t a k = some (if o = 0 then { l with lock := some (BitVec.ofNat 6 m.arg) } else l))
    ∧ (∀ e o, AtHome d m m.addr g a k h e [] → e.wbp = false → unlockOutcome d a k (BitVec.ofNat 6 m.arg) = o →
      Completes (.unlock m) s fun t => Sent d t m .unlock a [{ m.reply .comp (.home a) with arg := o }] ∧ (homeSt t a).txns = [] ∧ dirEnt t a k = e
        ∧ llcLine t a k = some (if o = 1 then { l with lock := none } else l))

/-- CmoClean at an idle home with no L2 copy recorded writes a dirty LLC line whose port has not failed to the 64 bytes of memory at
its line address, and every other byte of memory stays as it was; a clean line leaves every byte as it was. At the end of a clean
walk over an idle slice that holds one line with no L2 copy, the line is in the LLC and clean, and BUSY is 0; at the end of a
flush walk over such a slice with the line unlocked, the line is gone. (06_llc_scratchpad.md, 10_memory_ports.md) -/
def Obligations.CleanedLinesReachMemory : Prop :=
  (∀ (s : State) (m : Msg) (g a k : Nat) (h : Holder) (l : LlcLine), let d := s.dev
    llcLine d a k = some l → AtHome d m m.addr g a k h DirEnt.empty [] → portState d (portOf d (keyAddr k)).1 ≠ 6 →
    Completes (.cmocleanMsg m) s fun t =>
      (∀ i, i < 64 → l.dirty = true → memByte t (keyAddr k + i) = byteOf l.data.toNat i)
      ∧ (∀ b, (l.dirty = true → b < keyAddr k ∨ keyAddr k + 64 ≤ b) → memByte t b = memByte d b)) ∧
  (∀ (s : State) (g : SliceId) (a k : Nat) (l : LlcLine), let d := s.dev
    sliceArray d g = a → HomeServes d a a [] → homeKeys d a = [k] → llcLine d a k = some l → dirEnt d a k = DirEnt.empty →
    sfld d a Reg.SLICE_MAINT Fl.SLICE_MAINT_BUSY = 1 →
    (sfld d a Reg.SLICE_MAINT Fl.SLICE_MAINT_OP = 0 → Completes (.maintComplete g) s fun t =>
      llcLine t a k = some { l with dirty := false } ∧ sfld t a Reg.SLICE_MAINT Fl.SLICE_MAINT_BUSY = 0)
    ∧ (sfld d a Reg.SLICE_MAINT Fl.SLICE_MAINT_OP = 1 → l.lock = none → Completes (.maintComplete g) s fun t =>
      llcLine t a k = none ∧ sfld t a Reg.SLICE_MAINT Fl.SLICE_MAINT_BUSY = 0))

/-- At a home with no open transaction WbDirty marks the entry as awaiting its write-back; the data that follows goes dirty into the
LLC, the holder leaves the entry and WbAck is sent; EvictClean removes the holder and is acknowledged; a keeper's eviction removes
its package bit, with dirty data going into the LLC. CompAck closes a granted transaction. The last answer to a recall closes the
eviction and empties the entry; an answer that is not the last leaves the transaction waiting for the others; snooped data is kept
for the requester. (07_coherence.md) -/
def Obligations.WriteBacksAndSnoopAnswersAtAHome : Prop :=
  ∀ (s : State) (m : Msg) (g a k : Nat) (h : Holder) (e : DirEnt), let d := s.dev
    (AtHome d m m.addr g a k h e [] →
      (Completes (.wbdirty m) s fun t => Sent d t m .wbDirty a [] ∧ dirEnt t a k = { e with wbp := true } ∧ (homeSt t a).llc = (homeSt d a).llc)
      ∧ (Completes (.evictclean m) s fun t => Sent d t m .evictClean a [m.reply .wbAck (.home a)]
        ∧ dirEnt t a k = (if (e.remove h).any then e.remove h else DirEnt.empty) ∧ (homeSt t a).llc = (homeSt d a).llc)
      ∧ (∀ l, llcLine d a k = some l → Completes (.keeperevict m) s fun t => Sent d t m .keeperEvict a []
        ∧ dirEnt t a k = (if (e.remove h).any then e.remove h else DirEnt.empty)
        ∧ llcLine t a k = some (if m.arg = 1 then { l with data := m.line, poison := m.poison, dirty := true } else l))
      ∧ (∀ l r, llcLine d a k = some l → e.wbp = true → r = { e.remove h with wbp := false } → Completes (.wbdata m) s fun t =>
        Sent d t m .wbData a [m.reply .wbAck (.home a)] ∧ dirEnt t a k = (if r.any then r else DirEnt.empty)
        ∧ llcLine t a k = some { l with data := m.line, poison := m.poison, dirty := true }))
    ∧ (∀ x, AtHome d m m.addr g a k h e [x] → x.key = k →
      (x.phase = .ack → Completes (.compack m) s fun t => Sent d t m .compAck a [] ∧ dirEnt t a k = e ∧ (homeSt t a).txns = [])
      ∧ (x.req = none → x.wait = [m.src] → x.wbFrom = [] → x.got = none → x.phase = .inval → m.st = stI → m.arg = 0 →
        Completes (.snpresp m) s fun t => Sent d t m .snpResp a [] ∧ dirEnt t a k = DirEnt.empty ∧ (homeSt t a).txns = [])
      ∧ (m.src ∈ x.wait → x.wait.erase m.src ≠ [] → e.owner ≠ some h → m.st = stI → m.arg = 0 →
        Completes (.snpresp m) s fun t => Sent d t m .snpResp a [] ∧ dirEnt t a k = e.remove h
          ∧ (homeSt t a).txns = [{ x with wait := x.wait.erase m.src }])
      ∧ (x.wait ≠ [] → Completes (.snpdata m) s fun t => Sent d t m .snpData a [] ∧ dirEnt t a k = e
        ∧ (homeSt t a).txns = [{ x with wbFrom := x.wbFrom.erase m.src, got := some (m.line, m.poison),
                                        gotDirty := x.gotDirty || m.st == Machine.stM || m.st == stO }]))

/-- A core without a running dwell answers at once. SnpShared: M becomes O and E becomes S, with data to the requester; O and S stay.
SnpUnique, SnpInv and Recall: the line leaves; SnpUnique sends data of M, O and E, Recall writes dirty data back. SnpPeek: the
line stays and its data is sent. SnpClean: M becomes E and O becomes S, with the data to the home. A core with the line neither in
L2 nor in the victim buffer nor lost answers I. While a dwell runs the snoop is held. When the dwell has run out it is removed,
and a held snoop is answered as if it came then. (07_coherence.md) -/
def Obligations.SnoopsAtACore : Prop :=
  ∀ (s : State) (m : Msg) (c k : Nat), let d := s.dev
    (m.dst = .core c → lineKey m.addr m.who.ns = k →
      (∀ l tgt, dwelling d c k = false → l2Line d c k = some l → SnpTarget c m tgt → ∀ (i : Instr) (op : COp) (r : Option L2Line) (ms : List Msg), (i, op, r, ms) ∈ [
          (.snpshared m, COp.snpShared, (match l.st with | .M => some { l with st := .O } | .E => some { l with st := .S } | _ => some l),
            (match l.st with
             | .M | .O => [snpLine c m tgt .snpData l stS, snpAnswer c m stO 1]
             | .E => [snpLine c m tgt .snpData l stS, snpAnswer c m stS 1]
             | .S => [snpAnswer c m stS 0])),
          (.snpunique m, COp.snpUnique, none,
            (match l.st with
             | .M | .O => [snpLine c m tgt .snpData l Machine.stM, snpAnswer c m stI 1]
             | .E => [snpLine c m tgt .snpData l stE, snpAnswer c m stI 1]
             | .S => [snpAnswer c m stI 0])),
          (.snpinv m, COp.snpInv, none, [snpAnswer c m stI 0]),
          (.snppeek m, COp.snpPeek, some l, [snpLine c m m.src .snpData l (if l.st = .M ∨ l.st = .O then Machine.stM else stE),
            snpAnswer c m (if l.st = .O then stO else stE) 1]),
          (.snpclean m, COp.snpClean, (match l.st with | .M => some { l with st := .E } | .O => some { l with st := .S } | _ => some l),
            (match l.st with
             | .M => [snpLine c m m.src .snpData l Machine.stM, snpAnswer c m stE 1]
             | .E => [snpAnswer c m stE 0]
             | .O => [snpLine c m m.src .snpData l Machine.stM, snpAnswer c m stS 1]
             | .S => [snpAnswer c m stS 0])),
          (.recall m, COp.recall, none, (if l.st = .M ∨ l.st = .O then [snpLine c m m.src .wbData l Machine.stM, snpAnswer c m stI 1]
            else [snpAnswer c m stI 0]))] →
        Completes i s fun t => CoreSent d t m op c ms ∧ l2Line t c k = r ∧ (∀ k', k' ≠ k → l2Line t c k' = l2Line d c k'))
      ∧ (∀ (i : Instr) (op : COp), (i, op) ∈ [(.snpshared m, COp.snpShared), (.snpunique m, COp.snpUnique), (.snpinv m, COp.snpInv),
            (.snppeek m, COp.snpPeek), (.snpclean m, COp.snpClean), (.recall m, COp.recall)] →
        (dwelling d c k = false → l2Line d c k = none → (∀ e ∈ (cacheSt d c).vict, e.1 ≠ k) → absentResult d c k = stI →
          Completes i s fun t => CoreSent d t m op c [snpAnswer c m stI 0] ∧ cacheSt t c = cacheSt d c)
        ∧ (dwelling d c k = true → (cacheSt d c).held.length < 16 → Completes i s fun t => CoreSent d t m op c []
          ∧ cacheSt t c = { cacheSt d c with held := (cacheSt d c).held ++ [{ m with op := op }] })))
    ∧ (∀ (n : CoreId) (e : Nat × Nat), n = c → (cacheSt d n).dwell.find? (fun x => x.1 == k) = some e → e.2 ≤ nowOf d (coreDie n) →
      ((∀ x ∈ (cacheSt d n).held, lineKey x.addr x.who.ns ≠ k) → Completes (.dwellEnd n k) s fun t =>
        t.net = d.net ∧ (cacheSt t n).dwell = (cacheSt d n).dwell.filter (fun x => x.1 != k) ∧ (cacheSt t n).l2 = (cacheSt d n).l2)
      ∧ (∀ x rest, (cacheSt d n).held = x :: rest → lineKey x.addr x.who.ns = k → (∀ y ∈ rest, lineKey y.addr y.who.ns ≠ k) →
        Completes (.dwellEnd n k) s fun t => t = genSync d (run (answerSnoop n x
          (updCache n (fun y => { y with held := rest }) (dwellStop n k d))))))

/-- Comp and RespData become the result of the request with their TXN. Grant makes the line M, starts its dwell, closes the request
and is acknowledged. Data in a granted state fills L2 (and L1D for a load's request) into the first free way and is acknowledged;
data that grants nothing becomes the request's result. WbAck frees the line's victim-buffer entry and sends the requests parked on
it. Defer notes the credit; Resume sends the request again. (07_coherence.md, 05_core.md) -/
def Obligations.RepliesAtACore : Prop :=
  ∀ (s : State) (m : Msg) (c k : Nat), let d := s.dev
    m.dst = .core c → lineKey m.addr m.who.ns = k →
    (∀ (i : Instr) (op : COp), (i, op) ∈ [(.comp m, COp.comp), (.respdata m, COp.respData)] → Completes i s fun t => CoreSent d t m op c []
      ∧ cacheSt t c = { cacheSt d c with miss := (cacheSt d c).miss.map (fun y => if y.req.txn == m.txn then { y with result := some { m with op := op } } else y) })
    ∧ (∀ x l, findMiss d c m.txn = some x → l2Line d c k = some l → (cacheSt d c).sb = [] → Completes (.grant m) s fun t =>
      CoreSent d t m .grant c [Msg.mk' .compAck (.core c) x.req.dst m.txn m.addr m.who] ∧ l2Line t c k = some { l with st := .M }
        ∧ (cacheSt t c).dwell = (k, dwellEnd d c) :: (cacheSt d c).dwell.filter (fun y => y.1 != k)
        ∧ (cacheSt t c).miss = (cacheSt d c).miss.filter (fun y => y.req.txn != m.txn))
    ∧ (∀ x st w, findMiss d c m.txn = some x → grantedState m.st = some st → x.req.op = .rdShared → l2Line d c k = none →
      (List.range 16).find? (fun w => !(l2SetLines d c (Config.l2Set k % 1024)).any (fun e => e.2.way == w)
        && !(cacheSt d c).off.contains (Config.l2Set k % 1024, w)) = some w →
      ∀ (i : Instr) (op : COp), (i, op) ∈ [(.data m, COp.data), (.snpdata m, COp.snpData)] → Completes i s fun t =>
        CoreSent d t m op c [Msg.mk' .compAck (.core c) x.req.dst m.txn m.addr m.who]
        ∧ l2Line t c k = some ⟨st, m.line, if m.poison then 0xFF#8 else 0#8, Config.l2Set k % 1024, w, x.req.dst⟩ ∧ k ∈ (cacheSt t c).l1d
        ∧ (cacheSt t c).miss = (cacheSt d c).miss.filter (fun y => y.req.txn != m.txn))
    ∧ (∀ x, findMiss d c m.txn = some x → grantedState m.st = none → Completes (.data m) s fun t => CoreSent d t m .data c []
      ∧ cacheSt t c = { cacheSt d c with miss := (cacheSt d c).miss.map (fun y => if y.req.txn == m.txn then { y with result := some { m with op := .data } } else y) })
    ∧ (Completes (.wback m) s fun t =>
      CoreSent d t m .wbAck c (((cacheSt d c).miss.filter (fun x => x.parked && lineKey x.req.addr x.req.who.ns == k)).map (·.req))
        ∧ (cacheSt t c).vict = (cacheSt d c).vict.filter (fun e => e.1 != k) ∧ (cacheSt t c).l2 = (cacheSt d c).l2)
    ∧ (Completes (.defer m) s fun t => CoreSent d t m .defer c []
      ∧ cacheSt t c = { cacheSt d c with miss := (cacheSt d c).miss.map (fun y => if y.req.txn == m.txn then { y with deferred := some m.arg } else y) })
    ∧ (∀ x, findMiss d c m.txn = some x → Completes (.resume m) s fun t => CoreSent d t m .resume c [x.req]
      ∧ cacheSt t c = { cacheSt d c with miss := (cacheSt d c).miss.map (fun y => if y.req.txn == m.txn then { y with deferred := none } else y) })

/-- An AtomicMem that the port's firewall admits, of an unpoisoned line of a port that has not failed, returns the old value and
stores the line with the new one; no byte outside the line changes; one that it does not admit returns poison and changes no byte.
A message with an unlisted opcode leaves a corrected record with code 0x1E at its receiver. A single-bit directory error leaves a
corrected record with code 0x01 and the directory as it was; after a double-bit error of a line that no core or other package can
hold the entry is empty. (07_coherence.md, 10_memory_ports.md) -/
def Obligations.AtomicsAtAPortAndStrayMessages : Prop :=
  ∀ (s : State), let d := s.dev
    (∀ (m : Msg) (n : Nat) (x : Atom) (v : LineData) (la o : Nat), m.dst = .port n → m.atom = some x → la = m.addr / 64 * 64 → o = m.addr % 64 →
      (dramAdmits d m.who .rw m.addr = true → lineValue d la = (v, false) → portState d (portOf d la).1 ≠ 6 → Completes (.atomicmem m) s fun t =>
        t.net = d.net.erase { m with op := .atomicMem } ++ [{ m.reply .respData (.port n) with line := BitVec.ofNat 512 (lineGet v o x.size) }]
        ∧ (∀ i, i < 64 → memByte t (la + i) = byteOf (linePut v o x.size (x.apply (lineGet v o x.size))).toNat i)
        ∧ (∀ b, b < la ∨ la + 64 ≤ b → memByte t b = memByte d b) ∧ t.homes = d.homes ∧ t.caches = d.caches ∧ t.cores = d.cores)
      ∧ (dramAdmits d m.who .rw m.addr = false → Completes (.atomicmem m) s fun t =>
        t.net = d.net.erase { m with op := .atomicMem } ++ [{ m.reply .respData (.port n) with poison := true }]
        ∧ t.mem = d.mem ∧ t.homes = d.homes ∧ t.caches = d.caches ∧ t.cores = d.cores))
    ∧ (∀ (a : Agent) (u : Nat × Nat × Nat), agentUnit a = u → HoldRoom d u.1 → Completes (.unrecognisedMessage a) s fun t =>
      Recorded d t u.1 (ErrRec.mk' 0 u.2.1 u.2.2 0x1E) ∧ t.net = d.net ∧ t.homes = d.homes ∧ t.caches = d.caches ∧ t.regs = d.regs)
    ∧ (∀ (g : SliceId) (a k : Nat), sliceArray d g = a →
      (HoldRoom d (sliceDie a) → Completes (.directoryError g k false) s fun t =>
        Recorded d t (sliceDie a) { ErrRec.mk' 0 0x02 (sliceLog a) 0x01 with addr := some (keyAddr k) } ∧ t.homes = d.homes ∧ t.caches = d.caches)
      ∧ (HomeServes d g a [] → pkgCores d (slicePkg a) = [] → (∀ q, q < 4 → q ≠ slicePkg a → d.cfg.ndie q = 0) →
        Completes (.directoryError g k true) s fun t => dirEnt t a k = DirEnt.empty ∧ (homeSt t a).txns = []))

/-- A pace credit shows the effective rate (none without a cap, else the smaller of RATE while EN is 1 and a nonzero PKG_CAP, raised
to FLOOR and to 64) and adds it to the core's tokens up to the burst depth. A write of ARBREC_CTL with a permitted mode writes the
mode and the other fields, and ACTIVE follows; a mode that may not be written leaves the mode off with DENIED set. A replay that
times out sets DIVERGED, turns the mode off and raises event 506. A debugger's halt request ends a WFE and halts a running core
whose world it may control. Nothing else of these changes. (R39) -/
def Obligations.PaceRecordingAndDebugHalt : Prop :=
  ∀ (s : State), let d := s.dev
    (∀ (c : CoreId) (ctl : Word) (off : Nat) (e : Nat × Bool), ctl = rg d (coreDie c) (Reg.PACE_CTL (coreTile d c)) →
      off = Reg.PACE_STATUS (coreTile d c) → e = paceEffective ctl (fld d (coreDie c) off Fl.PACE_STATUS_PKG_CAP) →
      Completes (.paceCredit c) s fun t =>
        (let en := getB Fl.PACE_CTL_EN ctl; let rate := getF Fl.PACE_CTL_RATE ctl; let cap := fld d (coreDie c) off Fl.PACE_STATUS_PKG_CAP
         fld t (coreDie c) off Fl.PACE_STATUS_EFFECTIVE = if en = false ∧ cap = 0 then 0 else
          max 64 (max (getF Fl.PACE_CTL_FLOOR ctl) (if en = false then cap else if cap = 0 then rate else min rate cap))) ∧
        coreSt t c = { coreSt d c with tokens := min (paceDepth ctl) ((coreSt d c).tokens + (e.1 : Int)) } ∧ CoresBut d t c
        ∧ fld t (coreDie c) off Fl.PACE_STATUS_EFFECTIVE = e.1 ∧ (e.2 = true → flg t (coreDie c) off Fl.PACE_STATUS_CLAMPED = true)
        ∧ RegsBut d t [regKey (coreDie c) off] ∧ t.caches = d.caches ∧ t.homes = d.homes ∧ t.queues = d.queues ∧ t.mem = d.mem)
    ∧ (∀ (D : Die) (v : Word) (i : Instr) (m : Nat), (i, m) ∈ [(.arbrecOff D v, 0), (.arbrecRecord D v, 1), (.arbrecReplay D v, 2)] →
      Completes i s fun t => RegsBut d t [regKey D Reg.ARBREC_CTL, regKey D Reg.ARBREC_STATUS] ∧ Quiet d t
        ∧ (∀ f ∈ [Fl.ARBREC_CTL_GROUP, Fl.ARBREC_CTL_QID, Fl.ARBREC_CTL_REPLAY_TO], fld t D Reg.ARBREC_CTL f = getF f v)
        ∧ fld t D Reg.ARBREC_CTL Fl.ARBREC_CTL_MODE = (if arbAllowed d m then m else 0)
        ∧ flg t D Reg.ARBREC_STATUS Fl.ARBREC_STATUS_ACTIVE = (arbAllowed d m && m != 0)
        ∧ (arbAllowed d m = false → flg t D Reg.ARBREC_STATUS Fl.ARBREC_STATUS_DENIED = true))
    ∧ (∀ (D : Die), fld d D Reg.ARBREC_CTL Fl.ARBREC_CTL_MODE = 2 → Completes (.replayTimeout D) s fun t =>
        fld t D Reg.ARBREC_CTL Fl.ARBREC_CTL_MODE = 0 ∧ flg t D Reg.ARBREC_STATUS Fl.ARBREC_STATUS_DIVERGED = true
        ∧ flg t D Reg.ARBREC_STATUS Fl.ARBREC_STATUS_ACTIVE = false ∧ Raised t D 506
        ∧ RegsBut d t [regKey D Reg.ARBREC_CTL, regKey D Reg.ARBREC_STATUS] ∧ Quiet d t)
    ∧ (∀ (c : CoreId), Completes (.debugHaltRequest c) s fun t =>
        coreSt t c = { coreSt d c with
          wfe := none, halted := (coreSt d c).halted || (dbgControl d (!nsOf d c) && (coreSt d c).run) } ∧ CoresBut d t c ∧ t.regs = d.regs
          ∧ t.caches = d.caches ∧ t.homes = d.homes ∧ t.queues = d.queues ∧ t.mem = d.mem)

/-- An error in L1 drops the line from L1 and counts L1_ERR; a single-bit L2 data error counts L2_CE, a first tag error L2_TAG_RETRY;
a double-bit error of a dirty L2 line poisons the granule; a second tag error drops the lines of the way and disables it; a
register error stops the core with its state lost. Each leaves the error record of its class and code. A bind request while a bind
is in progress is ignored; a refused one sets REFUSED and its REASON and changes no core; an accepted one puts both tiles in the
binding state with each other as partner and copies the leader's registers to the checker. An unbind of stopped cores returns both
tiles to the unbound state and clears the checker mark; of running ones it is refused with reason 1. Equal signatures release the
group's stores and make its registers the restart point; different ones stop both cores, drop the group's stores, restore the
leader's registers, set MISMATCH, leave a record and raise event k = 6. (05_core.md, 17_reliability.md) -/
def Obligations.CoreArraysAndCheckedPairs : Prop :=
  (∀ (s : State) (c : CoreId) (off D : Nat), let d := s.dev
    D = coreDie c → off = Reg.CORE_ERR (coreTile d c) → HoldRoom d D →
    (∀ (k : Nat) (e : CoreErr) (code : Nat), (e, code) ∈ [(.l1i k, 0x03), (.l1dOne k, 0x01), (.l1dTwo k, 0x02), (.l1dTag k, 0x03)] →
      Completes (.coreArrayError c e) s fun t => k ∉ (cacheSt t c).l1d ∧ k ∉ (cacheSt t c).l1i ∧ (cacheSt t c).l2 = (cacheSt d c).l2
        ∧ rg t D off = satAdd Fl.CORE_ERR_L1_ERR 1 (rg d D off) ∧ RegsBut d t [regKey D off]
        ∧ Recorded d t D { coreRec d c 0 code with addr := some (keyAddr k) } ∧ t.cores = d.cores ∧ t.homes = d.homes)
    ∧ (∀ (k : Nat) (e : CoreErr) (f : Fld) (code : Nat), (e, f, code) ∈ [(.l2One k, Fl.CORE_ERR_L2_CE, 0x01), (.l2TagOnce k, Fl.CORE_ERR_L2_TAG_RETRY, 0x03)] →
      Completes (.coreArrayError c e) s fun t => rg t D off = satAdd f 1 (rg d D off) ∧ RegsBut d t [regKey D off] ∧ Quiet d t
        ∧ Recorded d t D { coreRec d c 0 code with addr := some (keyAddr k) })
    ∧ (∀ (k : Nat) (g : Fin 8) (l : L2Line), l2Line d c k = some l → l.st.dirty = true → Completes (.coreArrayError c (.l2Two k g)) s fun t =>
        l2Line t c k = some { l with poison := l.poison ||| BitVec.ofNat 8 (2 ^ g.val) } ∧ t.regs = d.regs ∧ t.cores = d.cores
        ∧ Recorded d t D { coreRec d c 1 0x02 with addr := some (keyAddr k + 8 * g.val) })
    ∧ (∀ (set : Fin 1024) (way : Fin 16), Completes (.coreArrayError c (.l2TagTwice set way)) s fun t =>
        (∀ k l, l2Line d c k = some l → l.set = set.val → l.way = way.val → l2Line t c k = none) ∧ (set.val, way.val) ∈ (cacheSt t c).off
        ∧ fld t D off Fl.CORE_ERR_L2_WAYS_OFF = min 15 (cacheSt t c).off.length ∧ RegsBut d t [regKey D off] ∧ t.cores = d.cores
        ∧ Recorded d t D { coreRec d c 1 0x03 with info0 := set.val * 16 + way.val })
    ∧ (Completes (.coreArrayError c .regs) s fun t => (coreSt t c).run = false ∧ arch t c = Arch.init ∧ CoresBut d t c
        ∧ Recorded d t D (coreRec d c 2 0x03) ∧ t.caches = d.caches ∧ t.regs = d.regs)) ∧
  (∀ (s : State), let d := s.dev
    (∀ (D : Die) (x : Fin 44) (p : BitVec 6),
      (pairState d D x = 1 → Completes (.bind D x p) s fun t => t.regs = d.regs ∧ Quiet d t)
      ∧ (pairState d D x ≠ 1 → bindRefusal d D x p.toNat ≠ 0 → Completes (.bind D x p) s fun t =>
          flg t D (Reg.PAIR_STATUS x) Fl.PAIR_STATUS_REFUSED = true ∧ fld t D (Reg.PAIR_STATUS x) Fl.PAIR_STATUS_REASON = bindRefusal d D x p.toNat
          ∧ pairState t D x = pairState d D x ∧ RegsBut d t [regKey D (Reg.PAIR_CTL x), regKey D (Reg.PAIR_STATUS x)] ∧ Quiet d t)
      ∧ (∀ l k, bindRefusal d D x p.toNat = 0 → tileCore d D x = some l → tileCore d D p.toNat = some k → Completes (.bind D x p) s fun t =>
          pairState t D x = 1 ∧ pairState t D p.toNat = 1 ∧ fld t D (Reg.PAIR_STATUS x) Fl.PAIR_STATUS_PARTNER = p.toNat
          ∧ fld t D (Reg.PAIR_STATUS p.toNat) Fl.PAIR_STATUS_PARTNER = x.val ∧ arch t k = arch d l ∧ CoresBut d t k ∧ t.caches = d.caches))
    ∧ (∀ (D : Die) (x : Fin 44) (o : Nat), fld d D (Reg.PAIR_STATUS x) Fl.PAIR_STATUS_PARTNER = o → 2 ≤ pairState d D x →
      ((∀ y ∈ [x.val, o], ∀ c, tileCore d D y = some c → (coreSt d c).run = false) → Completes (.unbind D x) s fun t =>
        pairState t D x = 0 ∧ pairState t D o = 0 ∧ t.cores = d.cores
        ∧ (∀ y ∈ [x.val, o], ∀ c, tileCore d D y = some c → flg t D (Reg.LCORE (coreLog c)) Fl.LCORE_CHECKER = false))
      ∧ (∀ y ∈ [x.val, o], ∀ c, tileCore d D y = some c → (coreSt d c).run = true → Completes (.unbind D x) s fun t =>
        flg t D (Reg.PAIR_STATUS x) Fl.PAIR_STATUS_REFUSED = true ∧ fld t D (Reg.PAIR_STATUS x) Fl.PAIR_STATUS_REASON = 1
        ∧ pairState t D x = pairState d D x ∧ Quiet d t))
    ∧ (∀ (c : CoreId), isLeader d c = true → (coreSt d c).run = true →
      (Completes (.pairSignatureCompare c true) s fun t =>
        coreSt t c = { coreSt d c with snap := some (arch d c), grp := 0 } ∧ CoresBut d t c ∧ (cacheSt t c).sbHeld = 0
        ∧ (cacheSt t c).sb = (cacheSt d c).sb ∧ t.regs = d.regs)
      ∧ (∀ D x o k, D = coreDie c → x = coreTile d c → fld d D (Reg.PAIR_STATUS x) Fl.PAIR_STATUS_PARTNER = o → tileCore d D o = some k →
        HoldRoom d D → Completes (.pairSignatureCompare c false) s fun t =>
          (coreSt t c).run = false ∧ (coreSt t k).run = false ∧ arch t c = (coreSt d c).snap.getD (arch d c)
          ∧ (cacheSt t c).sb = (cacheSt d c).sb.take ((cacheSt d c).sb.length - (cacheSt d c).sbHeld)
          ∧ flg t D (Reg.PAIR_STATUS x) Fl.PAIR_STATUS_MISMATCH = true ∧ Recorded d t D (coreRec d c 2 0x13) ∧ Raised t D (8 * coreLog c + 6))))

/-- When the timer of a core in the secure world reaches TIMEOUT, EXPIRED is set, the time of expiry is kept and the expiry event of
the core's slot is pending. When GRACE has passed since then, the forced exit restores the program counter, PSTATE and registers
of the world entry record, with g3 telling that the service is unavailable unless an event made the entry; it disarms the timer,
sets FORCED, counts it and leaves a record of class 2 with code 0x14. (12_isolation.md) -/
def Obligations.ServiceTimerAndForcedExit : Prop :=
  ∀ (s : State) (c : CoreId) (D st : Nat), let d := s.dev
    D = coreDie c → st = Reg.SVC_STATUS (coreLog c) → nsOf d c = false →
    (∀ t0, (coreSt d c).armedAt = some t0 → (coreSt d c).expiredAt = none → t0 + usNs (fld d D Reg.SVC_CTL Fl.SVC_CTL_TIMEOUT) 1 ≤ nowOf d D →
      Completes (.serviceTimerExpiry c) s fun t => (coreSt t c).expiredAt = some (nowOf d D) ∧ flg t D st Fl.SVC_STATUS_EXPIRED = true
        ∧ flg t D (Reg.EVC_ROUTE (8 * coreLog c + 5)) Fl.EVC_ROUTE_PENDING = true ∧ CoresBut d t c ∧ t.caches = d.caches ∧ t.mem = d.mem)
    ∧ (∀ t0 w, (coreSt d c).expiredAt = some t0 → (coreSt d c).world = some w → t0 + usNs (fld d D Reg.SVC_CTL Fl.SVC_CTL_GRACE) 10 ≤ nowOf d D →
      HoldRoom d D → Completes (.forcedExit c) s fun t =>
        pcOf t c = w.epc ∧ pstate t c = w.epstate &&& 0x7F#64 ∧ (arch t c).f = w.f ∧ (coreSt t c).armedAt = none ∧ (coreSt t c).expiredAt = none
        ∧ (flg d D st Fl.SVC_STATUS_BY_EVENT = true → (arch t c).g = w.g)
        ∧ (flg d D st Fl.SVC_STATUS_BY_EVENT = false → gReg t c 3 = svcUnavailable)
        ∧ flg t D st Fl.SVC_STATUS_FORCED = true ∧ flg t D st Fl.SVC_STATUS_ARMED = false ∧ flg t D st Fl.SVC_STATUS_EXPIRED = false
        ∧ fld t D st Fl.SVC_STATUS_FORCED_COUNT = min (fld d D st Fl.SVC_STATUS_FORCED_COUNT + 1) 65535 ∧ CoresBut d t c
        ∧ ∃ r, Recorded d t D r ∧ r.cls = 2 ∧ r.code = 0x14)

/-- A write of SPAD_CTL while a conversion runs only sets SPAD_IGNORED; by a higher count it starts a conversion; by a lower count the
released scratchpad is empty at once. When a conversion of a slice with no line in an L2 ends, the ways join the window as zeros,
and LLC lines of those ways are gone. CLR releases the locks of the named partition, CLR_ALL every lock, and every line stays. A
maintenance request starts a walk unless one runs; its end clears BUSY with SET at 3072. A single-bit data error of a line or of
scratchpad counts DATA_CE, a tag error in one copy TAG_FIX, and a double-bit error of a dirty line or of scratchpad poisons it and
counts DATA_POISON. A tag error in both copies drops the lines of the way, disables it and stops every running core of the package
whose partition homes data in the slice. Each leaves its error record. (06_llc_scratchpad.md, 17_reliability.md) -/
def Obligations.ScratchpadLocksAndSliceArrays : Prop :=
  (∀ (s : State) (g : SliceId) (v : Word) (a D x : Nat), let d := s.dev
    sliceArray d g = a → D = sliceDie a → x = arrTile d a →
    (fld d D (Reg.SLICE_STATUS x) Fl.SLICE_STATUS_SPAD_BUSY = 1 → Completes (.spadCtlWrite g v) s fun t =>
      fld t D (Reg.SLICE_STATUS x) Fl.SLICE_STATUS_SPAD_IGNORED = 1 ∧ RegsBut d t [regKey D (Reg.SLICE_STATUS x)] ∧ Quiet d t)
    ∧ (∀ n, fld d D (Reg.SLICE_STATUS x) Fl.SLICE_STATUS_SPAD_BUSY ≠ 1 → sliceLocked d g = false → n = min 8 (getF Fl.SPAD_CTL_WAYS v) →
      (spadWays d a < n → Completes (.spadCtlWrite g v) s fun t =>
        (homeSt t a) = { homeSt d a with conv := some n } ∧ fld t D (Reg.SLICE_STATUS x) Fl.SLICE_STATUS_SPAD_BUSY = 1
        ∧ fld t D (Reg.SPAD_CTL x) Fl.SPAD_CTL_WAYS = n ∧ spadWays t a = spadWays d a)
      ∧ (n < spadWays d a → Completes (.spadCtlWrite g v) s fun t =>
        spadWays t a = n ∧ (∀ u, spadLine t a u = if n * 3072 ≤ u then (0, false) else spadLine d a u) ∧ (homeSt t a).llc = (homeSt d a).llc))
    ∧ (∀ n, (homeSt d a).conv = some n → n < 16 → (∀ e ∈ (homeSt d a).llc, (dirEnt d a e.1).any = false) →
      Completes (.scratchpadConversion g) s fun t =>
        (homeSt t a).conv = none ∧ spadWays t a = n ∧ fld t D (Reg.SLICE_STATUS x) Fl.SLICE_STATUS_SPAD_BUSY = 0
        ∧ (∀ u, spadWays d a * 3072 ≤ u → spadLine t a u = (0, false))
        ∧ (∀ k l, llcLine d a k = some l → 16 - n ≤ l.way → llcLine t a k = none))
    ∧ (getB Fl.LOCK_CTL_CLR_ALL v = false → Completes (.clr g v) s fun t => ∀ k, llcLine t a k = (llcLine d a k).map (fun l =>
        { l with lock := if l.lock.map BitVec.toNat = some (getF Fl.LOCK_CTL_CLR_PART v) then none else l.lock }))
    ∧ (Completes (.clrAll g v) s fun t => (∀ k, llcLine t a k = (llcLine d a k).map (fun l => { l with lock := none }))
        ∧ fld t D (Reg.LOCK_STAT x) Fl.LOCK_STAT_LOCKED = 0)
    ∧ (∀ (i : Instr) (op : Nat), (i, op) ∈ [(.maintClean g, 0), (.maintFlush g, 1)] → fld d D (Reg.SLICE_MAINT x) Fl.SLICE_MAINT_BUSY ≠ 1 →
      Completes i s fun t => fld t D (Reg.SLICE_MAINT x) Fl.SLICE_MAINT_OP = op ∧ fld t D (Reg.SLICE_MAINT x) Fl.SLICE_MAINT_BUSY = 1
        ∧ fld t D (Reg.SLICE_MAINT x) Fl.SLICE_MAINT_SET = 0 ∧ RegsBut d t [regKey D (Reg.SLICE_MAINT x)] ∧ Quiet d t)
    ∧ (fld d D (Reg.SLICE_MAINT x) Fl.SLICE_MAINT_BUSY = 1 → homeKeys d a = [] → Completes (.maintComplete g) s fun t =>
        fld t D (Reg.SLICE_MAINT x) Fl.SLICE_MAINT_BUSY = 0 ∧ fld t D (Reg.SLICE_MAINT x) Fl.SLICE_MAINT_SET = 3072
        ∧ RegsBut d t [regKey D (Reg.SLICE_MAINT x)] ∧ Quiet d t)) ∧
  (∀ (s : State) (g : SliceId) (a D off : Nat), let d := s.dev
    sliceArray d g = a → D = sliceDie a → off = Reg.SLICE_ERR (arrTile d a) → HoldRoom d D →
    (∀ (e : SliceErr) (f : Fld) (r : ErrRec), ((∃ k, (e, f, r) = (.dataOne k, Fl.SLICE_ERR_DATA_CE, { sliceRec a 0 0x01 with addr := some (keyAddr k) }))
        ∨ (∃ k, (e, f, r) = (.tagOne k, Fl.SLICE_ERR_TAG_FIX, { sliceRec a 0 0x03 with addr := some (keyAddr k) }))
        ∨ (∃ u, (e, f, r) = (.spadOne u, Fl.SLICE_ERR_DATA_CE, sliceRec a 0 0x01))) →
      Completes (.sliceArrayError g e) s fun t => rg t D off = satAdd f 1 (rg d D off) ∧ RegsBut d t [regKey D off] ∧ Recorded d t D r ∧ Quiet d t)
    ∧ (∀ k l, llcLine d a k = some l → l.dirty = true → Completes (.sliceArrayError g (.dataTwo k)) s fun t =>
        llcLine t a k = some { l with poison := true } ∧ (∀ j, j ≠ k → llcLine t a j = llcLine d a j)
        ∧ rg t D off = satAdd Fl.SLICE_ERR_DATA_POISON 1 (rg d D off) ∧ Recorded d t D { sliceRec a 1 0x02 with addr := some (keyAddr k) })
    ∧ (∀ (u : Fin 24576), Completes (.sliceArrayError g (.spadTwo u)) s fun t =>
        spadLine t a u = ((spadLine d a u).1, true) ∧ (∀ j, j ≠ u.val → spadLine t a j = spadLine d a j)
        ∧ rg t D off = satAdd Fl.SLICE_ERR_DATA_POISON 1 (rg d D off) ∧ Recorded d t D (sliceRec a 1 0x02))
    ∧ (∀ (set : Fin 3072) (way : Fin 16), Completes (.sliceArrayError g (.tagTwo set way)) s fun t =>
        (∀ k l, llcLine d a k = some l → l.set = set.val → l.way = way.val → llcLine t a k = none) ∧ (set.val, way.val) ∈ (homeSt t a).off
        ∧ (∀ c, corePkg c = slicePkg g → homesIn d g (partId d c).toNat = true → (coreSt t c).run = false)
        ∧ Recorded d t D { sliceRec a 2 0x03 with info0 := set.val * 16 + way.val }))

/-- For registers of every block whose write has no effect of its own: a write by partition 0 of the secure world to a present die
changes the register as its access codes say (writable fields take the value, W1C bits written with 1 clear, W1S bits set, all
else stays) and changes no other register; a write by any other requester, to an absent die or to an offset that is not 8-byte
aligned changes nothing. (01_device_overview.md, 12_isolation.md) -/
def Obligations.RegisterWritesThatSetFields : Prop :=
  ∀ (s : State) (D : Die) (off : BitVec 32) (v : Word) (w : Who), let d := s.dev
    off.toNat ∈ [Reg.COH_CTL, Reg.SRCQOS 0, Reg.TIM_CTL, Reg.PKG_LIMIT, Reg.PWR_ENTRY 3, Reg.BRG_CTL 1, Reg.HSP_MODE, Reg.DB_CTL, Reg.ECC_CTL 2,
      Reg.WAYPART 4 1, Reg.SVC_CTL, Reg.LOG_CTL] →
    (d.cfg.present D = true → ∃ r, regRow? off.toNat = some r
      ∧ SetsReg (.registerWrite D off v Who.platform) s D off.toNat (accWrite r (rg d D off.toNat) v))
    ∧ ((w ≠ Who.platform ∨ d.cfg.present D = false) → Completes (.registerWrite D off v w) s fun t => t.regs = d.regs ∧ Quiet d t)
    ∧ (∀ o : BitVec 32, o.toNat % 8 ≠ 0 → Completes (.registerWrite D o v w) s fun t => t.regs = d.regs ∧ Quiet d t)

/-- With no hold set, a request for another state that R366 refuses writes the reason to RESULT and changes neither the state nor
anything else; one for the present state gives DONE at once; one that is permitted starts the transition to that state and shows
it in REQ; one that comes during a transition is held in place of an earlier held one, whose outcome is REPLACED. (14_power.md) -/
def Obligations.SecureDomainRequests : Prop :=
  ∀ (s : State) (D : Die) (i : Fin 101) (x : Instr) (req : Nat), let d := s.dev
    (x, req) ∈ [(.domainOn D i, 0), (.domainRetention D i, 1), (.domainOff D i, 2)] → flg d D (Reg.DOM_CTL i) Fl.DOM_CTL_SECURE_HOLD = false →
    (domState d D i = req → Completes x s fun t => fld t D (Reg.DOM_STATUS i) Fl.DOM_STATUS_RESULT = 0
      ∧ fld t D (Reg.DOM_CTL i) Fl.DOM_CTL_REQ = req ∧ domState t D i = req
      ∧ RegsBut d t [regKey D (Reg.DOM_CTL i), regKey D (Reg.DOM_STATUS i)] ∧ Quiet d t)
    ∧ (∀ code, domState d D i ≠ req → domRefusal d D i req false = some code → Completes x s fun t =>
      fld t D (Reg.DOM_STATUS i) Fl.DOM_STATUS_RESULT = code ∧ domState t D i = domState d D i
      ∧ fld t D (Reg.DOM_CTL i) Fl.DOM_CTL_REQ = fld d D (Reg.DOM_CTL i) Fl.DOM_CTL_REQ
      ∧ RegsBut d t [regKey D (Reg.DOM_CTL i), regKey D (Reg.DOM_STATUS i)] ∧ Quiet d t)
    ∧ (domState d D i ≠ req → domRefusal d D i req false = none → ¬ (i.val = 95 ∧ hspMode d D = 3) →
      (domState d D i < 3 → Completes x s fun t => domState t D i = (if req = 0 then 5 else if req = 1 then 3 else 4)
        ∧ fld t D (Reg.DOM_CTL i) Fl.DOM_CTL_REQ = req ∧ (domSt t D i).cur = some ⟨req, 0, 0, 0xFFF, 0⟩ ∧ (domSt t D i).was = domState d D i
        ∧ RegsBut d t [regKey D (Reg.DOM_CTL i), regKey D (Reg.DOM_STATUS i)] ∧ Quiet d t)
      ∧ (3 ≤ domState d D i → domState d D i ≤ 5 → (∀ h, (domSt d D i).held = some h → h.side = 0) → Completes x s fun t =>
        domState t D i = domState d D i ∧ (domSt t D i).held = some ⟨req, 0, 0, 0xFFF, 0⟩ ∧ fld t D (Reg.DOM_CTL i) Fl.DOM_CTL_REQ = req
        ∧ ((domSt d D i).held.isSome = true → fld t D (Reg.DOM_STATUS i) Fl.DOM_STATUS_RESULT = 6) ∧ Quiet d t))

/-- Setting SECURE_HOLD on a domain that is on and was asked to be on sets the bit; on a domain in retention or off it also starts its
wake; it cancels a normal-side transition from on that has not been committed, with event 483. A voltage write within what the
operating point needs sets VOLT; one below it is refused with ORDER and event 488. A normal-side request of an impossible domain
number gives outcome 4; a denied one gives outcome 1 and event 483 and leaves the state; a permitted one of an idle domain starts
its transition and shows no outcome yet. (14_power.md) -/
def Obligations.HoldsVoltageAndNormalRequests : Prop :=
  ∀ (s : State) (D : Die), let d := s.dev
    (∀ (i : Fin 101), i.val < 99 → flg d D (Reg.DOM_CTL i) Fl.DOM_CTL_SECURE_HOLD = false →
      (domState d D i = 0 → fld d D (Reg.DOM_CTL i) Fl.DOM_CTL_REQ = 0 → Completes (.secureHold D i) s fun t =>
        flg t D (Reg.DOM_CTL i) Fl.DOM_CTL_SECURE_HOLD = true ∧ domState t D i = 0 ∧ Quiet d t)
      ∧ (domState d D i = 1 ∨ domState d D i = 2 → domRefusal d D i 0 false = none → ¬ (i.val = 95 ∧ hspMode d D = 3) →
        Completes (.secureHold D i) s fun t => flg t D (Reg.DOM_CTL i) Fl.DOM_CTL_SECURE_HOLD = true ∧ domState t D i = 5
          ∧ (domSt t D i).cur = some ⟨0, 0, 3, 0xFFF, 0⟩ ∧ Quiet d t)
      ∧ (∀ r, domState d D i = 3 ∨ domState d D i = 4 → (domSt d D i).cur = some r → r.side = 1 → (domSt d D i).was = 0 →
        (domSt d D i).held = none → Completes (.secureHold D i) s fun t => flg t D (Reg.DOM_CTL i) Fl.DOM_CTL_SECURE_HOLD = true
          ∧ domState t D i = 0 ∧ (domSt t D i).cur = none ∧ Raised t D 483 ∧ Quiet d t))
    ∧ (∀ (i : Fin 101) (mv : BitVec 12), i.val ≠ 100 → flg d D (Reg.DOM_CTL i) Fl.DOM_CTL_SECURE_HOLD = false →
      fld d D (Reg.DOM_CTL i) Fl.DOM_CTL_REQ = domState d D i → mv.toNat ≠ fld d D (Reg.DOM_CTL i) Fl.DOM_CTL_VOLT →
      (¬ (domClocked i = true ∧ mv.toNat < oppMin i (fld d D (Reg.DOM_CTL i) Fl.DOM_CTL_OPP)) → Completes (.voltWrite D i mv) s fun t =>
        fld t D (Reg.DOM_CTL i) Fl.DOM_CTL_VOLT = mv.toNat ∧ domState t D i = domState d D i ∧ Quiet d t)
      ∧ (domClocked i = true → mv.toNat < oppMin i (fld d D (Reg.DOM_CTL i) Fl.DOM_CTL_OPP) → Completes (.voltWrite D i mv) s fun t =>
        fld t D (Reg.DOM_CTL i) Fl.DOM_CTL_VOLT = fld d D (Reg.DOM_CTL i) Fl.DOM_CTL_VOLT
        ∧ fld t D (Reg.DOM_STATUS i) Fl.DOM_STATUS_RESULT = 5 ∧ Raised t D 488 ∧ Quiet d t))
    ∧ (∀ (i : BitVec 7) (req : BitVec 2),
      (101 ≤ i.toNat → Completes (.nsDomreq D i req) s fun t =>
        flg t D Reg.NS_DOMRES Fl.NS_DOMRES_DONE = true ∧ fld t D Reg.NS_DOMRES Fl.NS_DOMRES_RESULT = 4 ∧ RegsBut d t [regKey D Reg.NS_DOMRES])
      ∧ (i.toNat < 101 → domRefusal d D i.toNat req.toNat true = some 1 → Completes (.nsDomreq D i req) s fun t =>
        flg t D Reg.NS_DOMRES Fl.NS_DOMRES_DONE = true ∧ fld t D Reg.NS_DOMRES Fl.NS_DOMRES_RESULT = 1 ∧ Raised t D 483
        ∧ domState t D i.toNat = domState d D i.toNat)
      ∧ (i.toNat < 101 → domRefusal d D i.toNat req.toNat true = none → domState d D i.toNat < 3 → domState d D i.toNat ≠ req.toNat →
        ¬ (i.toNat = 95 ∧ hspMode d D = 3) → Completes (.nsDomreq D i req) s fun t =>
        domState t D i.toNat = (if req.toNat = 0 then 5 else if req.toNat = 1 then 3 else 4)
        ∧ (domSt t D i.toNat).cur = some ⟨req.toNat, 1, 0, 0xFFF, (dieSt d D).nsSeq + 1⟩
        ∧ flg t D Reg.NS_DOMRES Fl.NS_DOMRES_DONE = false ∧ Quiet d t))

/-- With no request held and nothing waiting at the ports of the package: a domain on its way to retention or off reaches that state
when its entry condition is met, with outcome DONE for a secure-side request, and stays on its way when it is not; a core, port or
bridge domain waking from off is on, with the wake recorded and event 487 raised, and a core that was to run runs. (14_power.md) -/
def Obligations.TransitionsEnd : Prop :=
  ∀ (s : State) (D : Die) (i : Fin 101) (vlow : Nat) (lost : List Nat), let d := s.dev
    (∀ E, E / 8 = D.val / 8 → (hspSt d E).inq = []) → i.val ≠ 95 →
    (∀ (off : Bool) (e : Dev) (r : DomReq), domState d D i = (if off then 4 else 3) → domEnter D i off d = (e, true) → e.hsps = d.hsps → e.cfg = d.cfg →
      (domSt e D i).cur = some r → (domSt e D i).held = none → r.side = 0 → Completes (.domainTransitionEnd D i vlow lost) s fun t =>
        domState t D i = (if off then 2 else 1) ∧ (domSt t D i).cur = none ∧ fld t D (Reg.DOM_STATUS i) Fl.DOM_STATUS_RESULT = 0
        ∧ t.caches = e.caches ∧ t.homes = e.homes ∧ t.cores = e.cores ∧ t.mem = e.mem)
    ∧ (∀ (off : Bool) (e : Dev), domState d D i = (if off then 4 else 3) → domEnter D i off d = (e, false) → e.hsps = d.hsps → e.cfg = d.cfg →
      Completes (.domainTransitionEnd D i vlow lost) s fun t => domState t D i = domState e D i ∧ t.regs = e.regs ∧ t.doms = e.doms
        ∧ t.caches = e.caches ∧ t.homes = e.homes ∧ t.cores = e.cores)
    ∧ (∀ r, domState d D i = 5 → (i.val < 44 ∨ 88 ≤ i.val) → (domSt d D i).was = 2 → (domSt d D i).held = none → (domSt d D i).cur = some r →
      r.side ≠ 1 → Completes (.domainTransitionEnd D i vlow lost) s fun t =>
        domState t D i = 0 ∧ (domSt t D i).cur = none ∧ Raised t D 487 ∧ fld t D Reg.LAST_WAKE_SRC Fl.LAST_WAKE_SRC_DOM = i.val
        ∧ fld t D (Reg.DOM_STATUS i) Fl.DOM_STATUS_LOST_BANKS = 0 ∧ t.caches = d.caches ∧ t.homes = d.homes ∧ t.mem = d.mem
        ∧ (∀ c, i.val < 44 → tileCore d D i = some c → (coreSt d c).wantRun = true → (coreSt t c).run = true))

/-- Given by a requester whose command it is, to a logical number that holds a core: RUN of a stopped core whose domain is on starts
it, with its kept state or else as after reset at the address of PWR.ENTRY; RUN of one whose domain is off starts the wake and
remembers to run it; STOP stops a running core with its state kept, to be waked by events if so asked; STOP_RELEASE stops it and
discards its state. RESULT reads 0. A command to a number without a core gives RESULT 2; an admitted requester's command that is
not its own to give, RESULT 1; one of a requester that is not admitted is not performed. (14_power.md) -/
def Obligations.RunAndStopCommands : Prop :=
  ∀ (s : State) (c : CoreId) (w : Who) (D n : Nat), let d := s.dev
    D = coreDie c → n = coreLog c →
    (∀ (i : Instr) (cmd : Nat) (b : Bool), (i, cmd) ∈ [(.run c w, 1), (.stop c b w, 2), (.stopRelease c w, 3)] →
      (runParty d c w = false → Completes i s fun t => t.regs = d.regs ∧ Quiet d t)
      ∧ (runParty d c w = true → flg d D (Reg.LCORE n) Fl.LCORE_VALID = false → Completes i s fun t =>
        fld t D (Reg.RUNCTL n) Fl.RUNCTL_RESULT = 2 ∧ RegsBut d t [regKey D (Reg.RUNCTL n)] ∧ Quiet d t)
      ∧ (runParty d c w = true → flg d D (Reg.LCORE n) Fl.LCORE_VALID = true → runAllowed d c cmd w = false → Completes i s fun t =>
        fld t D (Reg.RUNCTL n) Fl.RUNCTL_RESULT = 1 ∧ RegsBut d t [regKey D (Reg.RUNCTL n)] ∧ Quiet d t))
    ∧ (runParty d c w = true → flg d D (Reg.LCORE n) Fl.LCORE_VALID = true →
      (runAllowed d c 1 w = true → (coreSt d c).run = false →
        (domOn d D (coreTile d c) = true → pairState d D (coreTile d c) = 0 → Completes (.run c w) s fun t =>
          (coreSt t c).run = true ∧ (coreSt t c).kept = false ∧ CoresBut d t c ∧ fld t D (Reg.RUNCTL n) Fl.RUNCTL_RESULT = 0
          ∧ arch t c = (if (coreSt d c).kept then arch d c else
              { Arch.init with pc := rg d D (Reg.PWR_ENTRY n) &&& 0xFFFFFFFFFFFFFFFC#64 })
          ∧ RegsBut d t [regKey D (Reg.RUNCTL n)])
        ∧ (domState d D (coreTile d c) = 2 → domRefusal d D (coreTile d c) 0 false = none → (coreTile d c) < 44 → Completes (.run c w) s fun t =>
          (coreSt t c).run = false ∧ (coreSt t c).wantRun = true ∧ CoresBut d t c ∧ domState t D (coreTile d c) = 5
          ∧ fld t D (Reg.RUNCTL n) Fl.RUNCTL_RESULT = 0))
      ∧ (∀ b, runAllowed d c 2 w = true → (coreSt d c).run = true → Completes (.stop c b w) s fun t =>
        (coreSt t c).run = false ∧ (coreSt t c).kept = true ∧ (coreSt t c).wakeEv = b ∧ arch t c = arch d c ∧ CoresBut d t c
        ∧ fld t D (Reg.RUNCTL n) Fl.RUNCTL_RESULT = 0 ∧ RegsBut d t [regKey D (Reg.RUNCTL n)])
      ∧ (runAllowed d c 3 w = true → Completes (.stopRelease c w) s fun t =>
        (coreSt t c).run = false ∧ (coreSt t c).kept = false ∧ arch t c = Arch.init ∧ CoresBut d t c
        ∧ fld t D (Reg.RUNCTL n) Fl.RUNCTL_RESULT = 0 ∧ RegsBut d t [regKey D (Reg.RUNCTL n)]))

/-- A governor step shows the measured power on every die of the package and, with GOV_EN set, writes the new common cap to every
core. A current above ICC_MAX sets the cap 64, FAST_CLAMP and event 482; one that is not changes no register. A junction sample
shows the hottest junction and its sensor, with event 480 at the warning threshold and 481 at 110 degrees, each once. A trip
asserts THERMTRIP_N and starts the entry into Reserve mode with cause 2. A failed phase leaves service, a spare takes its place
while one is left, with event 486 and a record. (14_power.md) -/
def Obligations.GovernorClampAndThermal : Prop :=
  ∀ (s : State), let d := s.dev
    (∀ (p : Pkg) (w hi : Nat), d.cfg.ndie p ≠ 0 →
      (Completes (.governorStep p w hi) s fun t => (∀ D ∈ d.cfg.diesOf p, fld t D Reg.PKG_STATUS Fl.PKG_STATUS_POWER_W = min w 0xFFFF) ∧ Quiet d t
        ∧ (flg d (p * 8) Reg.PKG_LIMIT Fl.PKG_LIMIT_GOV_EN = true → ∀ D ∈ d.cfg.diesOf p, ∀ x, x < 44 →
          fld t D (Reg.PACE_STATUS x) Fl.PACE_STATUS_PKG_CAP = min (govCap (pkgField d p Fl.PKG_STATUS_CAP) w (govLimit d p w) hi) 0xFFFF)))
    ∧ (∀ (p : Pkg) (amps : Nat), d.cfg.ndie p ≠ 0 →
      (amps ≤ min 640 (fld d (p * 8) Reg.PKG_LIMIT Fl.PKG_LIMIT_ICC_MAX) → Completes (.fastClamp p amps) s fun t => t.regs = d.regs ∧ Quiet d t)
      ∧ (min 640 (fld d (p * 8) Reg.PKG_LIMIT Fl.PKG_LIMIT_ICC_MAX) < amps → Completes (.fastClamp p amps) s fun t =>
        (pkgSt t p).clamped = true ∧ Raised t (crownDie d p) 482 ∧ Quiet d t ∧ ∀ D ∈ d.cfg.diesOf p,
          flg t D Reg.PKG_STATUS Fl.PKG_STATUS_FAST_CLAMP = true ∧ ∀ x, x < 44 → fld t D (Reg.PACE_STATUS x) Fl.PACE_STATUS_PKG_CAP = 64))
    ∧ (∀ (D : Die) (sensor v : BitVec 8), Completes (.thermalSample D sensor v) s fun t =>
        fld t D Reg.THERM_STATUS Fl.THERM_STATUS_TJ_MAX = v.toNat ∧ fld t D Reg.THERM_STATUS Fl.THERM_STATUS_SENSOR = sensor.toNat
        ∧ RegsBut d t [regKey D Reg.THERM_STATUS] ∧ Quiet d t
        ∧ ((dieSt d D).warnArmed = true → fld d D Reg.THERM_CTL Fl.THERM_CTL_WARN ≤ v.toNat →
          Raised t D 480 ∧ (dieSt t D).warnArmed = false ∧ flg t D Reg.THERM_STATUS Fl.THERM_STATUS_WARN_SEEN = true)
        ∧ ((dieSt d D).tripArmed = true → 110 ≤ v.toNat →
          Raised t D 481 ∧ (dieSt t D).tripArmed = false ∧ flg t D Reg.THERM_STATUS Fl.THERM_STATUS_NEAR_TRIP = true))
    ∧ (∀ (D : Die) (sensor : BitVec 8), d.cfg.ndie (D / 8) ≠ 0 → (pkgSt d (D / 8)).resv = none → pkgReserve d (D / 8) = false →
      Completes (.thermalTrip D sensor) s fun t => (pkgSt t (D / 8)).thermtrip = true ∧ (pkgSt t (D / 8)).resv = some 2
        ∧ fld t D Reg.THERM_STATUS Fl.THERM_STATUS_TJ_MAX = max 115 (fld d D Reg.THERM_STATUS Fl.THERM_STATUS_TJ_MAX) ∧ Quiet d t)
    ∧ (∀ (D : Die) (ph : Fin 36) (left : Nat), left = fld d D Reg.PHASE_STATUS Fl.PHASE_STATUS_SPARES_LEFT → left ≤ 4 → HoldRoom d D →
      (rg d D Reg.PHASE_STATUS).getLsbD ph = true → (∀ j, j < left → (rg d D Reg.PHASE_STATUS).getLsbD (36 - (j + 1)) = false) →
      Completes (.phaseFailure D ph) s fun t =>
        (rg t D Reg.PHASE_STATUS).getLsbD ph = false ∧ (left ≠ 0 → (rg t D Reg.PHASE_STATUS).getLsbD (36 - left) = true)
        ∧ fld t D Reg.PHASE_STATUS Fl.PHASE_STATUS_SPARES_LEFT = left - 1 ∧ Raised t D 486
        ∧ Recorded d t D { ErrRec.mk' 0 0x09 ph 0x17 with info1 := if left = 0 then 0 else 36 - left } ∧ Quiet d t)

/-- While a link direction is paused a handshake changes nothing. Otherwise a good one clears the count of refusals; a corrected one
counts CE; a refused one counts REPEATS, and the third in a row pauses and fails the direction with event 473. A spare wire found
for a paused direction whose group has one left is used, the direction resumes, event 472 is raised and a record written; with
none found a direction that has not failed resumes. A BWRES write of a sealed partition changes nothing, one that would exceed 60
shares sets REFUSED, any other is written with the new total on every die of the package. A good frame in sequence with none held
is delivered and acknowledged; a bad one counts CRC_ERR. A negative acknowledgement sends again from its frame and counts REPLAYS.
A failed margin check starts a module's training. A module that has retrained within four lanes is up with its repaired lanes
shown; one that has not is out of service. When a bridge is down, injection is paused for exactly the pairs of dies whose route
changes; when the old routes are empty every die has its new table, nothing is paused and event 474 is raised.
(09_mesh_bridges_reins.md) -/
def Obligations.LinksBridgesAndRoutes : Prop :=
  (∀ (s : State) (D : Die), let d := s.dev
    (∀ (i : Fin 194) (st : Nat), st = Reg.LNK_STATUS i →
      (flg d D st Fl.LNK_STATUS_PAUSED = true → ∀ c, Completes (.handshake D i c) s fun t => t.regs = d.regs ∧ t.lnks = d.lnks ∧ Quiet d t)
      ∧ (flg d D st Fl.LNK_STATUS_PAUSED = false →
        (Completes (.handshake D i .good) s fun t => (lnkSt t D i).refusals = 0 ∧ t.regs = d.regs ∧ Quiet d t)
        ∧ (∀ g w, Completes (.handshake D i (.corrected g w)) s fun t => (lnkSt t D i).refusals = 0
          ∧ fld t D st Fl.LNK_STATUS_CE = min (fld d D st Fl.LNK_STATUS_CE + 1) 65535 ∧ RegsBut d t [regKey D st] ∧ Quiet d t)
        ∧ (Completes (.handshake D i .bad) s fun t => (lnkSt t D i).refusals = (lnkSt d D i).refusals + 1
          ∧ fld t D st Fl.LNK_STATUS_REPEATS = min (fld d D st Fl.LNK_STATUS_REPEATS + 1) 65535 ∧ RegsBut d t [regKey D st] ∧ Quiet d t
          ∧ (2 ≤ (lnkSt d D i).refusals → flg t D st Fl.LNK_STATUS_PAUSED = true ∧ flg t D st Fl.LNK_STATUS_FAILED = true ∧ Raised t D 473)))
      ∧ (∀ (g : Fin 16) (found : Bool) (u : Nat), flg d D st Fl.LNK_STATUS_PAUSED = true → u = fld d D st Fl.LNK_STATUS_SPARE_USED →
        (found = true → u.testBit g = false → HoldRoom d D → Completes (.spareWireSwitch D i g found) s fun t =>
          fld t D st Fl.LNK_STATUS_SPARE_USED = u + 2 ^ g.val ∧ flg t D st Fl.LNK_STATUS_PAUSED = false
          ∧ flg t D st Fl.LNK_STATUS_FAILED = false ∧ Raised t D 472 ∧ Recorded d t D { ErrRec.mk' 0 0x04 i 0x06 with info0 := g.val }
          ∧ RegsBut d t [regKey D st] ∧ Quiet d t)
        ∧ ((found && !u.testBit g) = false → flg d D st Fl.LNK_STATUS_FAILED = false → Completes (.spareWireSwitch D i g found) s fun t =>
          flg t D st Fl.LNK_STATUS_PAUSED = false ∧ RegsBut d t [regKey D st] ∧ Quiet d t)))
    ∧ (∀ (p : BitVec 6) (v new : Word) (total : Nat), new = v &&& 0x800000003FFFFFFF#64 →
      total = bwTotal d D - bwShares (rg d D (Reg.BWRES p.toNat)) + bwShares new →
      (isSealed d p.toNat = true → Completes (.bwresWrite D p v) s fun t => t.regs = d.regs ∧ Quiet d t)
      ∧ (isSealed d p.toNat = false → 60 < total → Completes (.bwresWrite D p v) s fun t =>
        flg t D Reg.BWSTAT Fl.BWSTAT_REFUSED = true ∧ RegsBut d t [regKey D Reg.BWSTAT] ∧ Quiet d t)
      ∧ (isSealed d p.toNat = false → total ≤ 60 → Completes (.bwresWrite D p v) s fun t =>
        rg t D (Reg.BWRES p.toNat) = new ∧ (∀ E ∈ d.cfg.diesOf (D / 8), fld t E Reg.BWSTAT Fl.BWSTAT_TOTAL = total) ∧ Quiet d t))) ∧
  (∀ (s : State), let d := s.dev
    (∀ (D : Die) (b : Fin 3) (st : Nat), st = Reg.BRG_STATUS b →
      (domOn d D (96 + b) = true → fld d D st Fl.BRG_STATUS_STATE = 2 → ∀ (seq : Nat) (ms : List Msg),
        (Completes (.bridgeFrame D b seq false ms) s fun t =>
          fld t D (Reg.BRG_ERR b) Fl.BRG_ERR_CRC_ERR = min (fld d D (Reg.BRG_ERR b) Fl.BRG_ERR_CRC_ERR + 1) 65535
          ∧ (∀ e ∈ (brgSt t D b).hold, e.1 < seq) ∧ RegsBut d t [regKey D (Reg.BRG_ERR b)] ∧ Quiet d t)
        ∧ (∀ x e, seq = (brgSt d D b).expect → (brgSt d D b).hold = [] → x = updBrg D b (fun y => { y with expect := seq + 1, hold := [] }) d →
          e = deliverAll ms x → brgSt e D b = brgSt x D b → e.brgs = x.brgs → Completes (.bridgeFrame D b seq true ms) s fun t =>
            (brgSt t D b).expect = seq + 1 ∧ t.net = e.net ∧ t.homes = e.homes ∧ t.caches = e.caches ∧ t.cores = e.cores ∧ t.mem = e.mem))
      ∧ (∀ (m : Fin 2) (seq : Nat), HoldRoom d D → Completes (.negativeAcknowledgement D b m seq) s fun t => (brgSt t D b).unack = some seq
          ∧ fld t D (Reg.BRG_ERR b) Fl.BRG_ERR_REPLAYS = min (fld d D (Reg.BRG_ERR b) Fl.BRG_ERR_REPLAYS + 1) 65535
          ∧ RegsBut d t [regKey D (Reg.BRG_ERR b)] ∧ Quiet d t)
      ∧ (∀ (m : Fin 2), (Completes (.marginCheck D b m true) s fun t => t.regs = d.regs ∧ t.brgs = d.brgs ∧ Quiet d t)
        ∧ (fld d D (Reg.BRG_CTL b) Fl.BRG_CTL_MARGIN_PERIOD ≠ 0 → (fld d D st Fl.BRG_STATUS_MOD_UP).testBit m = true →
          Completes (.marginCheck D b m false) s fun t => m.val ∈ (brgSt t D b).training ∧ t.regs = d.regs ∧ Quiet d t))
      ∧ (∀ (m : Fin 2) (lanes : Nat) (low ok : Bool), m.val ∈ (brgSt d D b).training →
        (ok = true → lanes ≤ 4 → Completes (.moduleRetrain D b m lanes low ok) s fun t =>
          fld t D st Fl.BRG_STATUS_STATE = 2 ∧ (fld t D st Fl.BRG_STATUS_MOD_UP).testBit m = true
          ∧ fld t D st (if m.val = 0 then Fl.BRG_STATUS_REP0 else Fl.BRG_STATUS_REP1) = lanes ∧ m.val ∉ (brgSt t D b).training
          ∧ Raised t D (448 + 8 * b) ∧ Quiet d t)
        ∧ (ok = false ∨ 4 < lanes → Completes (.moduleRetrain D b m lanes low ok) s fun t =>
          (fld t D st Fl.BRG_STATUS_MOD_UP).testBit m = false ∧ m.val ∉ (brgSt t D b).training ∧ Raised t D (448 + 8 * b) ∧ Quiet d t)))
    ∧ (∀ (D : Die) (b : Fin 3) (p : Nat), p = D / 8 → fld d D (Reg.BRG_STATUS b) Fl.BRG_STATUS_STATE = 3 → Completes (.reroute D b) s fun t =>
        (∀ i j, i < d.cfg.ndie p → j < d.cfg.ndie p →
          ((i, j) ∈ (pkgSt t p).paused ↔ fld d (p * 8 + i) Reg.ROUTE Fl.ROUTE_DIE_BR / 4 ^ j % 4 ≠ routeEntry d p i j))
        ∧ ((∃ j, j < d.cfg.ndie p ∧ j ≠ 0 ∧ routeEntry d p 0 j = 3) → (pkgSt t p).fatal = true) ∧ Quiet d t)
    ∧ (∀ (p : Pkg), (pkgSt d p).paused ≠ [] → Completes (.rerouteDrainComplete p) s fun t => (pkgSt t p).paused = [] ∧ Quiet d t
        ∧ ∀ i, i < d.cfg.ndie p → fld t (p * 8 + i) Reg.ROUTE Fl.ROUTE_DIE_BR = routeTable d p i ∧ Raised t (p * 8 + i) 474))

/-- An identity frame that is refused leaves the rein refused with its reason, one that is accepted leaves it trained with the partner
shown; each raises event 431. A good flit in sequence is acknowledged, and on an active rein its messages are delivered. A
recovery that ends at full width and rate restores the rein's state; any other leaves it down with event 432. A failed rein that
is replaced is down and inactive, and with no other rein of the pair left the loss is fatal. A heartbeat of a Crown that has not
failed is noted by every die of the package. A die that has had none for its timeout claims the next epoch: it becomes the package
Crown, the former Crown has failed and event 501 is raised. A claim for a later epoch, or for the same with a lower number, is
accepted; a live Crown of a lower number answers a claim for the next epoch by its own; any other claim changes nothing.
(09_mesh_bridges_reins.md) -/
def Obligations.ReinsAndSuccession : Prop :=
  (∀ (s : State) (D : Die), let d := s.dev
    (∀ (f : IdFrame), hspMode d D = 2 → d.cfg.present D = true →
      Completes (.identityFrame D f) s fun t =>
        fld t D Reg.REIN_STATUS Fl.REIN_STATUS_FAR_PKG = f.pkg.val ∧ fld t D Reg.REIN_STATUS Fl.REIN_STATUS_FAR_DIE = f.die.val
        ∧ fld t D Reg.REIN_STATUS Fl.REIN_STATUS_REFUSE = idRefusal d D f ∧ Raised t D 431 ∧ Quiet d t
        ∧ (idRefusal d D f ≠ 0 → reinState t D = 5 ∧ flg t D Reg.KPR_STATUS Fl.KPR_STATUS_ACTIVE = false)
        ∧ (idRefusal d D f = 0 → (reinState t D = 3 ∨ reinState t D = 4) ∧ fld t D Reg.KPR_STATUS Fl.KPR_STATUS_FAR_PKG = f.pkg.val))
    ∧ (∀ (seq : Nat) (ms : List Msg) (x : Dev), seq = (reinSt d D).expect →
        x = updRein (reinFarDie d D) (fun x => { x with unack := match x.unack with | some u => if u ≤ seq then none else some u | none => none })
          (updRein D (fun x => { x with expect := x.expect + 1 }) d) →
      (reinState d D = 3 → Completes (.reinFlit D seq true ms) s fun t => t.net = (deliverAll ms x).net ∧ t.homes = (deliverAll ms x).homes
        ∧ t.caches = (deliverAll ms x).caches ∧ t.cores = (deliverAll ms x).cores ∧ t.reins = (deliverAll ms x).reins)
      ∧ (reinState d D = 4 → Completes (.reinFlit D seq true ms) s fun t => (reinSt t D).expect = seq + 1 ∧ t.regs = d.regs ∧ Quiet d t))
    ∧ (∀ (st : Nat) (ok x8 low : Bool), (reinSt d D).was = some st → st = 3 ∨ st = 4 → Completes (.reinRecovery D ok x8 low) s fun t =>
        reinState t D = (if ok && !x8 && !low then st else 6) ∧ (reinSt t D).was = none
        ∧ fld t D Reg.REIN_ERR Fl.REIN_ERR_RETRAINS = min (fld d D Reg.REIN_ERR Fl.REIN_ERR_RETRAINS + 1) 65535
        ∧ ((ok && !x8 && !low) = false → Raised t D 432 ∧ (reinSt t D).failed = (st == 3) ∧ flg t D Reg.KPR_STATUS Fl.KPR_STATUS_ACTIVE = false)
        ∧ Quiet d t)
    ∧ (∀ (p q : Nat), p = D / 8 → q = reinFar d D → (reinSt d D).failed = true → Completes (.spareReinReplacement D) s fun t =>
        reinState t D = 6 ∧ flg t D Reg.KPR_STATUS Fl.KPR_STATUS_ACTIVE = false ∧ (reinSt t D).failed = false ∧ Quiet d t
        ∧ ((∀ E ∈ d.cfg.diesOf p, E = D.val ∨ E = reinFarDie d D ∨ (reinState d E ≠ 3 ∧ reinState d E ≠ 4) ∨ reinFar d E ≠ q) →
          (pkgSt t p).fatal = true))) ∧
  (∀ (s : State), let d := s.dev
    (∀ (p : Pkg), (dieSt d (crownDie d p)).crownDown = false → Completes (.heartbeat p) s fun t =>
        (∀ D ∈ d.cfg.diesOf p, (dieSt t D).hbAt = nowOf d D) ∧ t.regs = d.regs ∧ Quiet d t)
    ∧ (∀ (D : Die) (p : Nat), p = D / 8 → d.cfg.present D = true → crownDie d p ≠ D → (dieSt d D).crownDown = false →
      (dieSt d D).hbAt + hbTimeout d D ≤ nowOf d D → HoldRoom d D → Completes (.heartbeatTimeout D) s fun t =>
        fld t D Reg.SUCC Fl.SUCC_EPOCH = (fld d D Reg.SUCC Fl.SUCC_EPOCH + 1) % 65536 ∧ fld t D Reg.SUCC Fl.SUCC_MASTER = D % 8
        ∧ flg t D Reg.SUCC Fl.SUCC_DEGRADED = true ∧ (pkgSt t p).crown = D % 8 ∧ (dieSt t (crownDie d p)).crownDown = true ∧ Raised t D 501
        ∧ RegsBut d t [regKey D Reg.SUCC] ∧ Quiet d t)
    ∧ (∀ (D : Die) (e : BitVec 16) (k : Fin 8) (E M : Nat), E = fld d D Reg.SUCC Fl.SUCC_EPOCH → M = fld d D Reg.SUCC Fl.SUCC_MASTER →
      (¬ (E < e.toNat ∨ (E = e.toNat ∧ k.val < M)) → Completes (.claim D e k) s fun t => t.regs = d.regs ∧ Quiet d t
        ∧ (pkgSt t (D / 8)).crown = (pkgSt d (D / 8)).crown)
      ∧ ((E < e.toNat ∨ (E = e.toNat ∧ k.val < M)) → Completes (.claim D e k) s fun t =>
        fld t D Reg.SUCC Fl.SUCC_EPOCH = e.toNat ∧ Quiet d t
        ∧ fld t D Reg.SUCC Fl.SUCC_MASTER = (if e.toNat = E + 1 ∧ D % 8 < k.val ∧ (dieSt d D).crownDown = false ∧ d.cfg.present D = true then D.val % 8 else k.val)
        ∧ (pkgSt t (D / 8)).crown = fld t D Reg.SUCC Fl.SUCC_MASTER)))

/-- A read that the port's firewall refuses is answered by poison and changes no byte. A read admitted by a trained port with a slot
for its source takes a slot with the line's value; a whole-line write takes a slot and stores its line, and no other byte; a
request of a source that may take no further slot joins the hold. Issuing a command on a channel without requests changes no slot;
with one request that may be issued, the request leaves its slot and a read's value is delivered. (10_memory_ports.md) -/
def Obligations.RequestsAtAMemoryPort : Prop :=
  ∀ (s : State), let d := s.dev
    (∀ (src : Agent) (tag pa k la : Nat) (who : Who) (qos : BitVec 4) (mk : MemOp → MemReq), k = (portOf d pa).1 → la = pa / 64 * 64 →
        mk = (fun op => ⟨src, tag, op, 0, pa, who, qos.toNat, 0, none⟩) →
      (dramAdmits d who .r pa = false → Completes (.memoryRequest src tag .read pa who qos) s fun t =>
        (portSt t k).done = (portSt d k).done ++ [(tag, 0, true)] ∧ (portSt t k).slots = (portSt d k).slots ∧ Quiet d t)
      ∧ (portState d k = 3 → (portSt d k).hold.length < 64 →
        (dramAdmits d who .r pa = true → mayTake d k who = false → Completes (.memoryRequest src tag .read pa who qos) s fun t =>
          (portSt t k).hold = (portSt d k).hold ++ [mk .read] ∧ (portSt t k).slots = (portSt d k).slots ∧ t.regs = d.regs ∧ Quiet d t)
        ∧ (mayTake d k who = true → slotFor d k who.part.toNat = true → (portOf d la).1 = k →
          (dramAdmits d who .r pa = true → Completes (.memoryRequest src tag .read pa who qos) s fun t =>
            (portSt t k).slots = (portSt d k).slots
                ++ [{ mk .read with d := (portOf d la).2, at' := nowOf d (portDie k), val := some (lineValue d la) }]
              ∧ t.homes = d.homes ∧ t.caches = d.caches ∧ t.cores = d.cores ∧ t.net = d.net
              ∧ ∀ b, b < la ∨ la + 64 ≤ b → memByte t b = memByte d b)
          ∧ (∀ data po, dramAdmits d who .w pa = true → Completes (.memoryRequest src tag (.write data po) pa who qos) s fun t =>
            (portSt t k).slots = (portSt d k).slots
                ++ [{ mk (.write data po) with d := (portOf d la).2, at' := nowOf d (portDie k), val := none }]
              ∧ t.homes = d.homes ∧ t.caches = d.caches ∧ t.cores = d.cores ∧ t.net = d.net
              ∧ (∀ i, i < 64 → memByte t (la + i) = byteOf data.toNat i) ∧ ∀ b, b < la ∨ la + 64 ≤ b → memByte t b = memByte d b))))
    ∧ (∀ (k : PortId) (chan : Fin 4), portState d k = 3 →
      ((∀ r ∈ (portSt d k).slots, (splitD d k r.d).chan ≠ chan.val) → Completes (.commandIssue k chan) s fun t =>
        (portSt t k).slots = (portSt d k).slots ∧ (portSt t k).done = (portSt d k).done ∧ t.regs = d.regs ∧ Quiet d t)
      ∧ (∀ r, (portSt d k).slots = [r] → (portSt d k).hold = [] → (splitD d k r.d).chan = chan.val → gapOk d k r = true → shareOk d k r = true →
        Completes (.commandIssue k chan) s fun t => (portSt t k).slots = [] ∧ Quiet d t
          ∧ (portSt t k).done = (portSt d k).done ++ (match r.val with | some v => [(r.tag, v.1, v.2)] | none => [])))

/-- The window clear empties the activation tables; the end of throttles keeps only those still running; a refresh closes the bank's
row; drift tracking changes nothing that is modelled. Conditions outside the training window retrain the port with event k = 0,
and inside it change nothing. A mask write is ignored once the map is locked, refused with MASK_REFUSED if it is malformed, else
written; a reservation write is ignored while its partition is sealed, refused beyond 256 slots or 48 transfers, else written.
LOCK stays set. A row is remapped by a free entry and spare with event k = 3; with none left REMAP_FULL is set. A takeover starts
with the spare copying and the port mirrored; its switch makes the spare serve the logical port and fails the old one; a port
failure with a spare does the same at once, and with none leaves the port failed. A due repair rewrite is counted and leaves the
entry rewritten. The scrubber moves on by one line. A check-cache error is corrected, read again or loses its line as R299 gives.
A conversion step moves the fence on by one group; a complete conversion writes the new code. (10_memory_ports.md,
11_memory_integrity.md) -/
def Obligations.PortUpkeepRemapAndIntegrity : Prop :=
  (∀ (s : State), let d := s.dev
    (∀ (k : PortId), (Completes (.rdWindowClear k) s fun t => portSt t k = { portSt d k with rd := [] } ∧ t.regs = d.regs ∧ Quiet d t)
      ∧ ((portSt d k).hold = [] → Completes (.throttleEnd k) s fun t => t.regs = d.regs ∧ Quiet d t
          ∧ portSt t k = { portSt d k with throttles := (portSt d k).throttles.filter (fun x => decide (nowOf d (portDie k) < x.endAt)) })
      ∧ (∀ (c : Fin 4) (b : Fin 16), Completes (.perBankRefresh k c b) s fun t => t.regs = d.regs ∧ Quiet d t
          ∧ ∀ j, KMap.look none (portSt t k).openRow j = if j = c.val * 16 + b.val then none else KMap.look none (portSt d k).openRow j)
      ∧ (∀ (c : Fin 4), Completes (.driftTracking k c) s fun t => t.regs = d.regs ∧ t.ports = d.ports ∧ Quiet d t)
      ∧ (∀ (cur : BitVec 16) (temp : BitVec 8) (D n : Nat) (inside : Prop), D = portDie k → n = portNum k → portState d k = 3 →
          inside = (apart cur.toNat (fld d D (Reg.TRAIN_REC n) Fl.TRAIN_REC_CAP_CURRENT) ≤ 10 * max 1 (fld d D (Reg.TRAIN_CTL n) Fl.TRAIN_CTL_CUR_WIN)
            ∧ apart temp.toNat (fld d D (Reg.TRAIN_REC n) Fl.TRAIN_REC_CAP_TEMP) ≤ max 1 (fld d D (Reg.TRAIN_CTL n) Fl.TRAIN_CTL_TEMP_WIN)) →
        (inside → Completes (.conditionRetrain k cur temp) s fun t => t.regs = d.regs ∧ Quiet d t)
        ∧ (¬ inside → Completes (.conditionRetrain k cur temp) s fun t =>
          fld t D (Reg.TRAIN_REC n) Fl.TRAIN_REC_CAP_CURRENT = cur.toNat ∧ fld t D (Reg.TRAIN_REC n) Fl.TRAIN_REC_CAP_TEMP = temp.toNat
          ∧ Raised t D (352 + 8 * n) ∧ RegsBut d t [regKey D (Reg.TRAIN_REC n)] ∧ Quiet d t)))
    ∧ (∀ (D : Die) (n : Fin 7) (i : Fin 6) (v : Word),
      (mapLocked d D = true → Completes (.maskWrite D n i v) s fun t => t.regs = d.regs ∧ Quiet d t)
      ∧ (mapLocked d D = false → maskBad i v = true → Completes (.maskWrite D n i v) s fun t =>
        flg t D (Reg.PORT_STATUS n) Fl.PORT_STATUS_MASK_REFUSED = true ∧ RegsBut d t [regKey D (Reg.PORT_STATUS n)] ∧ Quiet d t)
      ∧ (mapLocked d D = false → maskBad i v = false →
        SetsReg (.maskWrite D n i v) s D (if i.val < 2 then Reg.CHMASK n i else Reg.BAMASK n (i - 2)) (v &&& 0xFFFFFFFFFFFF#64)))
    ∧ (∀ (D : Die) (n : Fin 7) (m : Fin 4) (v : Word) (sum : Fld → Nat),
        sum = (fun f => (((List.range 4).map (fun i => if i = m.val then v &&& 0xFFFF7F#64 else rg d D (Reg.PORT_RESV n i))).filter
          (getB Fl.PORT_RESV_EN)).foldl (fun a w => a + getF f w) 0) →
      (isSealed d (fld d D (Reg.PORT_RESV n m) Fl.PORT_RESV_PART) = true → Completes (.resvWrite D n m v) s fun t => t.regs = d.regs ∧ Quiet d t)
      ∧ (isSealed d (fld d D (Reg.PORT_RESV n m) Fl.PORT_RESV_PART) = false →
        (256 < sum Fl.PORT_RESV_SLOTS ∨ 48 < sum Fl.PORT_RESV_SHARE → Completes (.resvWrite D n m v) s fun t =>
          flg t D (Reg.PORT_STATUS n) Fl.PORT_STATUS_RESV_REFUSED = true ∧ RegsBut d t [regKey D (Reg.PORT_STATUS n)] ∧ Quiet d t)
        ∧ (sum Fl.PORT_RESV_SLOTS ≤ 256 → sum Fl.PORT_RESV_SHARE ≤ 48 → SetsReg (.resvWrite D n m v) s D (Reg.PORT_RESV n m) (v &&& 0xFFFF7F#64))))
    ∧ (∀ (D : Die), Completes (.lockMemmap D) s fun t => mapLocked t D = true ∧ RegsBut d t [regKey D Reg.MEMMAP] ∧ Quiet d t)) ∧
  (∀ (s : State), let d := s.dev
    (∀ (k : PortId) (chan : Fin 4) (bank : Fin 16) (row : BitVec 16) (D n : Nat) (x : Nat × Nat), D = portDie k → n = portNum k →
        x = rowTarget d k chan bank row.toNat → HoldRoom d D →
      (∀ e y, (List.range 64).find? (fun e => !flg d D (Reg.REMAP n (chan * 64 + e)) Fl.REMAP_VALID) = some e → freeSpare d k chan x.1 = some y →
        Completes (.rowRemap k chan bank row) s fun t =>
          rg t D (Reg.REMAP n (chan * 64 + e)) = BitVec.ofNat 64 (1 + x.1 * 4 + x.2 * 64 + y.1 * 2 ^ 22 + y.2 * 2 ^ 26)
          ∧ RegsBut d t [regKey D (Reg.REMAP n (chan * 64 + e))] ∧ Raised t D (352 + 8 * n + 3) ∧ t.cores = d.cores ∧ t.homes = d.homes)
      ∧ (freeSpare d k chan x.1 = none → Completes (.rowRemap k chan bank row) s fun t =>
          flg t D (Reg.PORT_STATUS n) Fl.PORT_STATUS_REMAP_FULL = true ∧ RegsBut d t [regKey D (Reg.PORT_STATUS n)]
          ∧ Raised t D (352 + 8 * n + 3) ∧ Quiet d t))
    ∧ (∀ (D : Die) (n : Fin 6) (o k z : Nat), o = fld d D Reg.MEMPORT ⟨3 * n + 2, 3 * n⟩ → o < 7 → k = physPort d D n → z < 7 → z ≠ o →
      (spareOf d D = some z → portState d k = 3 → inReserve d D = false → Completes (.sparePortTakeover D n) s fun t =>
        fld t D (Reg.PORT_STATUS z) Fl.PORT_STATUS_STATE = 8 ∧ flg t D (Reg.PORT_STATUS o) Fl.PORT_STATUS_MIRROR = true
        ∧ flg t D (Reg.PORT_COPY o) Fl.PORT_COPY_ACTIVE = true ∧ fld t D (Reg.PORT_COPY o) Fl.PORT_COPY_TARGET = z
        ∧ Raised t D (352 + 8 * o + 7) ∧ Quiet d t)
      ∧ (flg d D (Reg.PORT_COPY o) Fl.PORT_COPY_ACTIVE = true → fld d D (Reg.PORT_COPY o) Fl.PORT_COPY_TARGET = z →
        Completes (.takeoverSwitch D n) s fun t => fld t D Reg.MEMPORT ⟨3 * n + 2, 3 * n⟩ = z ∧ fld t D (Reg.PORT_STATUS z) Fl.PORT_STATUS_STATE = 3
        ∧ fld t D (Reg.PORT_STATUS o) Fl.PORT_STATUS_STATE = 6 ∧ flg t D Reg.MEMPORT Fl.MEMPORT_SPARE_OK = false
        ∧ rg t D (Reg.PORT_COPY o) = 0 ∧ Raised t D (352 + 8 * o + 7) ∧ t.cores = d.cores ∧ t.homes = d.homes ∧ t.caches = d.caches))
    ∧ (∀ (k : PortId) (D o : Nat), D = portDie k → o = portNum k → portState d k ≠ 0 → portState d k ≠ 6 →
      (∀ n, lportOf d k = some n → flg d D (Reg.PORT_COPY o) Fl.PORT_COPY_ACTIVE = false →
        (∀ z, spareOf d D = some z → z ≠ o → Completes (.portFailure k) s fun t =>
          physPort t D n = D * 7 + z ∧ fld t D (Reg.PORT_STATUS z) Fl.PORT_STATUS_STATE = 3 ∧ portState t k = 6
          ∧ (portSt t (D * 7 + z)).allPoison = true ∧ (portSt t (D * 7 + z)).written = [] ∧ t.cores = d.cores ∧ t.homes = d.homes)
        ∧ (spareOf d D = none → flg d D Reg.SPARE_CTL Fl.SPARE_CTL_PORT_LOSS_RESERVE = false → Completes (.portFailure k) s fun t =>
          portState t k = 6 ∧ (portSt t k).slots = [] ∧ (portSt t k).hold = [] ∧ Raised t D (352 + 8 * o + 7) ∧ Quiet d t)))
    ∧ (∀ (k : PortId) (dd : Nat) (e : TrackEnt) (D n : Nat), D = portDie k → n = portNum k → trackFind d k dd = some e → e.st = .repairDue →
        HoldRoom d D → Completes (.repairRewrite k dd) s fun t => (trackFind t k dd).map (·.st) = some .rewritten
          ∧ rg t D (Reg.TRACK_STAT n) = satAdd Fl.TRACK_STAT_REWRITES 1 (rg d D (Reg.TRACK_STAT n)) ∧ Recorded d t D (portRec k 0 0x0C dd)
          ∧ (∀ data a b, decodeLine d e.pa = .corrected data a b → data.length = 64 → ∀ i, i < 64 → memByte t (e.pa + i) = data.getD i 0)
          ∧ RegsBut d t [regKey D (Reg.TRACK_STAT n)] ∧ t.cores = d.cores ∧ t.homes = d.homes)
    ∧ (∀ (k : PortId) (D n i : Nat), D = portDie k → n = portNum k → i = fld d D (Reg.SCRUB_STATUS n) Fl.SCRUB_STATUS_LINE → portState d k = 3 →
        (lportOf d k).isSome = true → flg d D (Reg.ECC_CTL n) Fl.ECC_CTL_SCRUB_EN = true → i + 1 < 2 ^ Fl.SCRUB_STATUS_LINE.width →
        Completes (.patrolScrub k) s fun t =>
          fld t D (Reg.SCRUB_STATUS n) Fl.SCRUB_STATUS_LINE = (if i + 1 < blocksOf d k * 64 * 256 then i + 1 else 0)
          ∧ t.cores = d.cores ∧ t.homes = d.homes ∧ t.caches = d.caches)
    ∧ (∀ (k : PortId) (cl D n st : Nat), D = portDie k → n = portNum k → st = KMap.look 0 (portSt d k).ccache cl → st ≠ 0 →
      (SetsReg (.checkCacheError k cl false) s D (Reg.CCACHE_ERR n) (satAdd Fl.CCACHE_ERR_CE 1 (rg d D (Reg.CCACHE_ERR n))))
      ∧ (st = 1 → Completes (.checkCacheError k cl true) s fun t => KMap.look 0 (portSt t k).ccache cl = 0
          ∧ rg t D (Reg.CCACHE_ERR n) = satAdd Fl.CCACHE_ERR_REREAD 1 (rg d D (Reg.CCACHE_ERR n)) ∧ Quiet d t)
      ∧ (st = 2 → HoldRoom d D → Completes (.checkCacheError k cl true) s fun t => KMap.look 0 (portSt t k).ccache cl = 0
          ∧ rg t D (Reg.CCACHE_ERR n) = satAdd Fl.CCACHE_ERR_LOST 1 (rg d D (Reg.CCACHE_ERR n)) ∧ Raised t D (352 + 8 * n + 5)
          ∧ Recorded d t D { ErrRec.mk' 1 0x07 n 0x09 with info0 := cl } ∧ t.cores = d.cores ∧ t.homes = d.homes))
    ∧ (∀ (k : PortId) (D n g : Nat), D = portDie k → n = portNum k → g = fld d D (Reg.CONV_FENCE n) Fl.CONV_FENCE_GROUP →
        flg d D (Reg.CONV_FENCE n) Fl.CONV_FENCE_ACTIVE = true → flg d D Reg.CODE_CONV Fl.CODE_CONV_BUSY = true → portState d k = 3 →
        g + 1 < 2 ^ Fl.CONV_FENCE_GROUP.width → Completes (.conversionGroup k) s fun t =>
          fld t D (Reg.CONV_FENCE n) Fl.CONV_FENCE_GROUP = g + 1
          ∧ flg t D (Reg.CONV_FENCE n) Fl.CONV_FENCE_ACTIVE = decide (g + 1 < blocksOf d k * 1024)
          ∧ t.cores = d.cores ∧ t.homes = d.homes ∧ t.caches = d.caches)
    ∧ (∀ (p : Pkg) (D e : Nat), D = p * 8 → e = Reg.CODE_REG (fld d D Reg.CODE_CONV Fl.CODE_CONV_REGION) →
        flg d D Reg.CODE_CONV Fl.CODE_CONV_BUSY = true → fld d D Reg.CODE_CONV Fl.CODE_CONV_PORTS_LEFT = 0 →
        Completes (.conversionComplete p) s fun t => flg t D Reg.CODE_CONV Fl.CODE_CONV_BUSY = false
          ∧ flg t D e Fl.CODE_REG_CODE = flg d D Reg.CODE_CONV Fl.CODE_CONV_NEWCODE ∧ flg t D e Fl.CODE_REG_CONV = false
          ∧ RegsBut d t [regKey D Reg.CODE_CONV, regKey D e] ∧ Quiet d t))

/-- A write of a region of a present die that no sealed partition locks changes exactly that register in its writable bits; one of the
package's DRAM table also shows PENDING and drops every TLB entry of an address in that package's DRAM. A write to a locked
region, or one of a mask that names a sealed partition, changes nothing. When every copy has applied the write PENDING is clear on
every die of the package. A command to partition 0 or in a state that does not admit it gives RESULT 1 and changes nothing else.
BUILD takes a FREE partition to BUILDING in the world named; OPEN and SEAL take it on, SEAL only when every check passes, and
otherwise with the first failing check as the result; TEARDOWN with cores running gives 2, and without cores, slices or queues
left ends with no core in the partition and none of its translations cached; FREE with something still naming it gives 9, else the
partition is FREE. (12_isolation.md) -/
def Obligations.FirewallsAndPartitions : Prop :=
  (∀ (s : State), let d := s.dev
    (∀ (D : Die) (f : Fin 45) (r : Fin 32) (w : Fin 3) (v new : Word) (off : Nat),
      (w, off, new) ∈ [((0 : Fin 3), Reg.FW_CFG f r, v &&& 0xFFFFFFE0000F#64), (1, Reg.FW_LIMIT f r, v &&& 0xFFFFFFE00000#64), (2, Reg.FW_MASK f r, v)] →
      (d.cfg.present D = false ∨ regionLocked d D f r = true ∨ (w = 2 ∧ namesSealed d v = true) → Completes (.firewallWrite D f r w v) s fun t =>
        t.regs = d.regs ∧ Quiet d t)
      ∧ (d.cfg.present D = true → regionLocked d D f r = false → (w = 2 → namesSealed d v = false) →
        (f ≠ 0 → SetsReg (.firewallWrite D f r w v) s D off new)
        ∧ (f = 0 → Completes (.firewallWrite D f r w v) s fun t => rg t D off = new ∧ flg t D (Reg.FW_STATUS 0) Fl.FW_STATUS_PENDING = true
          ∧ RegsBut d t [regKey D off, regKey D (Reg.FW_STATUS 0)] ∧ (∀ c, arch t c = arch d c) ∧ t.caches = d.caches ∧ t.mem = d.mem
          ∧ ∀ c, ∀ e ∈ (coreSt t c).tlb, ∀ o, regionOf e.pa ≠ .dram (D / 8) o)))
    ∧ (∀ (p : Pkg), Completes (.firewallWriteApplied p) s fun t => Quiet d t
        ∧ ∀ D ∈ d.cfg.diesOf p, flg t D (Reg.FW_STATUS 0) Fl.FW_STATUS_PENDING = false)) ∧
  (∀ (s : State) (p : BitVec 6) (n : Nat), let d := s.dev
    n = p.toNat →
    (∀ (i : Instr) (ok : Nat → Prop), (i, ok) ∈ [(.buildS p, fun x => x = 0), (.buildNs p, fun x => x = 0), (.partOpen p, fun x => x = 1),
        (.partSeal p, fun x => x = 1), (.partTeardown p, fun x => x = 2 ∨ x = 3), (.partFree p, fun x => x = 4)] →
      n = 0 ∨ ¬ ok (partState d n) → Completes i s fun t => fld t 0 (Reg.PART n) Fl.PART_RESULT = 1 ∧ partState t n = partState d n
        ∧ RegsBut d t [regKey 0 (Reg.PART n)] ∧ Quiet d t)
    ∧ (n ≠ 0 →
      (∀ (i : Instr) (b : Bool), (i, b) ∈ [(.buildS p, false), (.buildNs p, true)] → partState d n = 0 → Completes i s fun t =>
        partState t n = 1 ∧ flg t 0 (Reg.PART n) Fl.PART_WORLD = b ∧ fld t 0 (Reg.PART n) Fl.PART_RESULT = 0
        ∧ RegsBut d t [regKey 0 (Reg.PART n)] ∧ Quiet d t)
      ∧ (partState d n = 1 → Completes (.partOpen p) s fun t => partState t n = 2 ∧ fld t 0 (Reg.PART n) Fl.PART_RESULT = 0
        ∧ RegsBut d t [regKey 0 (Reg.PART n)] ∧ Quiet d t)
      ∧ (partState d n = 1 → sealResult d n ≠ 0 → Completes (.partSeal p) s fun t => partState t n = 1
        ∧ fld t 0 (Reg.PART n) Fl.PART_RESULT = sealResult d n ∧ RegsBut d t [regKey 0 (Reg.PART n)] ∧ Quiet d t)
      ∧ (partState d n = 1 → sealResult d n = 0 → Completes (.partSeal p) s fun t => partState t n = 3 ∧ fld t 0 (Reg.PART n) Fl.PART_RESULT = 0
        ∧ flg t 0 (Reg.PART n) Fl.PART_OWN_PORTS = (sealMemory d n).2 ∧ RegsBut d t [regKey 0 (Reg.PART n)] ∧ (∀ c, arch t c = arch d c)
        ∧ ∀ c ∈ coresIn d n, (coreSt t c).pred = Pred.flushed)
      ∧ (partState d n = 2 ∨ partState d n = 3 →
        (partRuns d n = true → Completes (.partTeardown p) s fun t => fld t 0 (Reg.PART n) Fl.PART_RESULT = 2 ∧ partState t n = partState d n ∧ Quiet d t)
        ∧ (partRuns d n = false → ownSlices d n = [] → (∀ e ∈ d.queues, ∀ q, e.2 = some q → q.owner.toNat ≠ n) →
          Completes (.partTeardown p) s fun t => partState t n = 4 ∧ fld t 0 (Reg.PART n) Fl.PART_RESULT = 0
          ∧ flg t 0 (Reg.PART n) Fl.PART_OWN_PORTS = false ∧ (∀ c ∈ coresIn d n, (partId t c).toNat = 0)
          ∧ (∀ c, ∀ e ∈ (coreSt t c).tlb, e.part ≠ n) ∧ t.queues = d.queues ∧ t.mem = d.mem))
      ∧ (partState d n = 4 →
        (inUse d n = true → Completes (.partFree p) s fun t => fld t 0 (Reg.PART n) Fl.PART_RESULT = 9 ∧ partState t n = 4 ∧ Quiet d t)
        ∧ (inUse d n = false → Completes (.partFree p) s fun t => fld t 0 (Reg.PART n) Fl.PART_RESULT = 0 ∧ partState t n = 0 ∧ Quiet d t))))

/-- A raised event that arrives is pending; one that was not raised changes no register. A route write sets the route's fields and
leaves PENDING; a service-expiry route is not changed. CIF_TAKE puts the best event of its group on the stack and makes a source's
event active and no longer pending; with none it changes nothing. CIF_FINISH with the event's value removes it and ends its
activity, with any other value it notes an error. A permitted CIF_RAISE raises the event, another one notes the refusal. CIF_TCMP
sets the compare value; the comparator raises the timer's event once when it is due. An edge advances TIM.NOW by the increment
(plus FREQ on the reference die) with its fraction kept, and by one nanosecond more while an error is slewed in whose interval has
passed; with the reference stopped it changes nothing. An exchange with the leader measures the error, and SYNCED follows the
bound with event 504 at each change. A PPS edge that is used is captured with event 503; its loss raises event 502. Writes of
TIM.ADJ take effect on the reference die only, writes of REF_CFG on every die. A resumed reference adds the gap to TIM.NOW, counts
the stop and raises event 505. (13_events_timebase.md) -/
def Obligations.EventsAndTheTimeBase : Prop :=
  (∀ (s : State), let d := s.dev
    (∀ (D : Die) (n : Fin 511), (n.val ∉ (dieSt d D).raised → Completes (.eventArrival D n) s fun t => t.regs = d.regs ∧ Quiet d t)
      ∧ (n.val ∈ (dieSt d D).raised → Completes (.eventArrival D n) s fun t =>
          flg t D (Reg.EVC_ROUTE n) Fl.EVC_ROUTE_PENDING = true ∧ t.caches = d.caches ∧ t.mem = d.mem)
      ∧ (∀ v, n.val < 320 → n.val % 8 = 5 → flg d D (Reg.EVC_ROUTE n) Fl.EVC_ROUTE_PENDING = false → Completes (.routeWrite D n v) s fun t =>
          t.regs = d.regs ∧ Quiet d t)
      ∧ (∀ v, ¬ (n.val < 320 ∧ n.val % 8 = 5) → Completes (.routeWrite D n v) s fun t =>
          (∀ f ∈ [Fl.EVC_ROUTE_EN, Fl.EVC_ROUTE_PRIO, Fl.EVC_ROUTE_TLVL, Fl.EVC_ROUTE_DIE, Fl.EVC_ROUTE_CORE],
            fld t D (Reg.EVC_ROUTE n) f = getF f v)
          ∧ flg t D (Reg.EVC_ROUTE n) Fl.EVC_ROUTE_PENDING = flg d D (Reg.EVC_ROUTE n) Fl.EVC_ROUTE_PENDING
          ∧ (secureLocal n = true → flg t D (Reg.EVC_ROUTE n) Fl.EVC_ROUTE_GROUP = flg d D (Reg.EVC_ROUTE n) Fl.EVC_ROUTE_GROUP) ∧ t.mem = d.mem))
    ∧ (∀ (c : CoreId) (ns : Bool),
      (bestOfGroup d c ns = none → Completes (.cifTake c ns) s fun t => t.cifs = d.cifs ∧ t.regs = d.regs ∧ Quiet d t)
      ∧ (∀ e, bestOfGroup d c ns = some e → e.ns = ns → Completes (.cifTake c ns) s fun t =>
          (cifSt t c ns).stack = (e.key, e.prio) :: (cifSt d c ns).stack ∧ Quiet d t
          ∧ (e.virt = false → flg t e.die (Reg.EVC_ROUTE e.num) Fl.EVC_ROUTE_ACTIVE = true
            ∧ flg t e.die (Reg.EVC_ROUTE e.num) Fl.EVC_ROUTE_PENDING = false)
          ∧ (e.virt = true → e.num ∈ (cifSt t c ns).vact ∧ t.regs = d.regs))
      ∧ (∀ e r v, (cifSt d c ns).stack = e :: r →
        (v = BitVec.ofNat 64 (e.1 + e.2 * 8192) → Completes (.cifFinish c ns v) s fun t => (cifSt t c ns).stack = r
          ∧ (e.1 < 4096 → flg t (corePkg c * 8 + e.1 / 512) (Reg.EVC_ROUTE (e.1 % 512)) Fl.EVC_ROUTE_ACTIVE = false)
          ∧ (4096 ≤ e.1 → (cifSt t c ns).vact = (cifSt d c ns).vact.erase (e.1 % 4096)) ∧ Quiet d t)
        ∧ (v ≠ BitVec.ofNat 64 (e.1 + e.2 * 8192) → Completes (.cifFinish c ns v) s fun t =>
          cifSt t c ns = { cifSt d c ns with finishErr := true } ∧ t.regs = d.regs ∧ Quiet d t))
      ∧ (∀ v, (cacheSt d c).sb = [] →
        (cifRaiseOk d c ns (partId d c) v = true → Completes (.cifRaise c ns v) s fun t =>
          Raised t (corePkg c * 8 + bitsOf v 11 9) (bitsOf v 8 0) ∧ t.regs = d.regs ∧ Quiet d t)
        ∧ (cifRaiseOk d c ns (partId d c) v = false → Completes (.cifRaise c ns v) s fun t =>
          cifSt t c ns = { cifSt d c ns with raiseRefused := true } ∧ t.regs = d.regs ∧ Quiet d t))
      ∧ (∀ v, Completes (.cifTcmpWrite c ns v) s fun t => cifSt t c ns = { cifSt d c ns with tcmp := v, fired := false } ∧ t.regs = d.regs ∧ Quiet d t)
      ∧ (∀ due : Bool, due = (bitOf (cifSt d c ns).cfg 0 && !(cifSt d c ns).fired && decide ((cifSt d c ns).tcmp.toNat ≤ nowOf d (coreDie c))) →
        Completes (.timerComparator c ns) s fun t => (cifSt t c ns).fired = ((cifSt d c ns).fired || due) ∧ t.regs = d.regs ∧ Quiet d t
          ∧ (due = true → Raised t (coreDie c) (8 * coreLog c + (if ns then 1 else 2)))))) ∧
  (∀ (s : State), let d := s.dev
    (∀ (D : Die),
      ((pkgSt d (D / 8)).refStop = true → Completes (.referenceEdge D) s fun t => t.regs = d.regs ∧ Quiet d t)
      ∧ (∀ (inc : Int) (u : Nat), d.cfg.present D = true → (pkgSt d (D / 8)).refStop = false →
          inc = max 0 ((fld d D Reg.REF_CFG Fl.REF_CFG_INCR : Int) + (if D.val = refDie d then sfieldOf Fl.TIM_ADJ_FREQ (rg d D Reg.TIM_ADJ) else 0)) →
        (slewLeft d D = 0 → u = inc.toNat + (dieSt d D).nowFrac → Completes (.referenceEdge D) s fun t =>
          rg t D Reg.TIM_NOW = rg d D Reg.TIM_NOW + BitVec.ofNat 64 (u / 2 ^ 24) ∧ (dieSt t D).nowFrac = u % 2 ^ 24
          ∧ RegsBut d t [regKey D Reg.TIM_NOW] ∧ Quiet d t)
        ∧ (0 < slewLeft d D → D.val ≠ refDie d → max 1 (fld d D Reg.TIM_CTL Fl.TIM_CTL_SLEW_US) * 1000 ≤ (dieSt d D).slewAge →
          u = (inc + 2 ^ 24).toNat + (dieSt d D).nowFrac → Completes (.referenceEdge D) s fun t =>
          rg t D Reg.TIM_NOW = rg d D Reg.TIM_NOW + BitVec.ofNat 64 (u / 2 ^ 24) ∧ (dieSt t D).slew = slewLeft d D - 1
          ∧ (dieSt t D).slewAge = u / 2 ^ 24 ∧ Quiet d t))
      ∧ (∀ e : Int, e = (nowOf d (leaderOf d D) : Int) - (nowOf d D : Int) → d.cfg.present D = true → D.val ≠ refDie d →
        Completes (.timestampExchange D) s fun t => (dieSt t D).slew = e ∧ synced t D = decide (e.natAbs ≤ alignBound D)
          ∧ (synced d D ≠ synced t D → Raised t D 504) ∧ RegsBut d t [regKey D Reg.TIM_QUALITY] ∧ Quiet d t)
      ∧ (synced d D = true → D.val ≠ refDie d → Completes (.alignmentLost D) s fun t => synced t D = false ∧ Raised t D 504
          ∧ RegsBut d t [regKey D Reg.TIM_QUALITY] ∧ Quiet d t)
      ∧ (∀ v, (D.val = refDie d → SetsReg (.adjWrite D v) s D Reg.TIM_ADJ (v &&& 0xFFFFFFFFFFFFFF#64))
        ∧ (D.val ≠ refDie d → Completes (.adjWrite D v) s fun t => t.regs = d.regs ∧ Quiet d t)
        ∧ SetsReg (.incrWrite D v) s D Reg.REF_CFG (v &&& 0xFFFFFFFFF#64)))
    ∧ (∀ R, R = refDie d →
      (flg d R Reg.TIM_CTL Fl.TIM_CTL_PPS_EN = false → Completes .ppsEdge s fun t => t.regs = d.regs ∧ Quiet d t)
      ∧ (flg d R Reg.TIM_CTL Fl.TIM_CTL_PPS_EN = true → Completes .ppsEdge s fun t => rg t R Reg.PPS_CAP = rg d R Reg.TIM_NOW
          ∧ flg t R Reg.TIM_QUALITY Fl.TIM_QUALITY_PPS_LOCKED = true ∧ (dieSt t R).ppsAt = some (nowOf d R) ∧ Raised t R 503
          ∧ RegsBut d t [regKey R Reg.PPS_CAP, regKey R Reg.TIM_QUALITY] ∧ Quiet d t)
      ∧ (∀ x, (dieSt d R).ppsAt = some x → flg d R Reg.TIM_CTL Fl.TIM_CTL_PPS_EN = true → x + 1100000000 < nowOf d R →
        Completes .ppsLoss s fun t => flg t R Reg.TIM_QUALITY Fl.TIM_QUALITY_PPS_LOCKED = false ∧ (dieSt t R).ppsAt = none ∧ Raised t R 502
          ∧ RegsBut d t [regKey R Reg.TIM_QUALITY] ∧ Quiet d t))
    ∧ (∀ (p : Pkg), (Completes (.referenceStop p) s fun t => (pkgSt t p).refStop = true ∧ t.regs = d.regs ∧ Quiet d t)
      ∧ (∀ ticks, (pkgSt d p).refStop = true → Completes (.referenceResume p ticks) s fun t => (pkgSt t p).refStop = false ∧ Quiet d t
          ∧ ∀ D ∈ d.cfg.diesOf p, rg t D Reg.TIM_NOW = rg d D Reg.TIM_NOW + BitVec.ofNat 64 (gapNs ticks)
            ∧ rg t D Reg.LAST_GAP = BitVec.ofNat 64 (ticks % 2 ^ 32) ∧ Raised t D 505
            ∧ fld t D Reg.TIM_QUALITY Fl.TIM_QUALITY_STOPS = min (fld d D Reg.TIM_QUALITY Fl.TIM_QUALITY_STOPS + 1) 65535)))

/-- A link that may train comes up at its width and rate with the operating point of the rate and event 416; one that is up retrains
with event 417; one that goes down is in L3 with event 416. PERST_N asserted takes an endpoint's link down and returns every
configuration space and function to its reset state with event 428; deasserted it releases WAKE_N. PME_Turn_Off is answered; a PME
request where PME_En is set sends a PME message, or drives WAKE_N in L2. An exit from electrical idle wakes a domain in retention
and returns L1 to L0. A root port raises events 434 to 436 and 438 for the messages it receives, and ROOT_RST holds its link down.
(15_host_port.md, 18_reset_boot.md) -/
def Obligations.PortLinksAndResets : Prop :=
  ∀ (s : State) (D : Die) (w : Fin 17) (rate : Fin 7) (flit : Bool), let d := s.dev
    (linkUp d D = false → mayTrain d D = true → Completes (.linkUp D w rate flit) s fun t => linkUp t D = true
      ∧ fld t D Reg.HSP_MODE Fl.HSP_MODE_WIDTH = w ∧ fld t D Reg.HSP_MODE Fl.HSP_MODE_RATE = rate
      ∧ flg t D Reg.HSP_MODE Fl.HSP_MODE_FLIT = flit ∧ fld t D Reg.HSP_MODE Fl.HSP_MODE_LSTATE = 0 ∧ hspMode t D = hspMode d D
      ∧ fld t D (Reg.DOM_CTL 95) Fl.DOM_CTL_OPP = rate - 3 ∧ Raised t D 416
      ∧ RegsBut d t [regKey D Reg.HSP_MODE, regKey D (Reg.DOM_CTL 95)] ∧ Quiet d t)
    ∧ (linkUp d D = true → Completes (.linkRetrain D w rate flit) s fun t => linkUp t D = true
      ∧ fld t D Reg.HSP_MODE Fl.HSP_MODE_WIDTH = w ∧ fld t D Reg.HSP_MODE Fl.HSP_MODE_RATE = rate
      ∧ flg t D Reg.HSP_MODE Fl.HSP_MODE_FLIT = flit ∧ fld t D (Reg.DOM_CTL 95) Fl.DOM_CTL_OPP = rate - 3 ∧ Raised t D 417
      ∧ RegsBut d t [regKey D Reg.HSP_MODE, regKey D (Reg.DOM_CTL 95)] ∧ Quiet d t)
    ∧ (linkUp d D = true → Completes (.linkDown D) s fun t => linkUp t D = false ∧ fld t D Reg.HSP_MODE Fl.HSP_MODE_LSTATE = 3
      ∧ Raised t D 416 ∧ RegsBut d t [regKey D Reg.HSP_MODE] ∧ Quiet d t)
    ∧ (hspEnd d D = true → perstOn d D = false → Completes (.perstNAssert D) s fun t => perstOn t D = true ∧ linkUp t D = false
      ∧ fld t D Reg.HSP_MODE Fl.HSP_MODE_LSTATE = (if (hspSt d D).toAck then 2 else 3) ∧ Raised t D 428 ∧ (hspSt t D).outs = []
      ∧ ∀ f, f < 66 → (rg t D (Reg.FN_STATUS f)).toNat % 2 ^ 32 = 0
        ∧ ∀ dw, dw < 1024 → cfgStored t D f dw = (cfgWord (fnKind d D f) dw 30).reset)
    ∧ (hspEnd d D = true → perstOn d D = true → Completes (.perstNDeassert D) s fun t => perstOn t D = false
      ∧ fld t D Reg.HSP_MODE Fl.HSP_MODE_LSTATE = 3 ∧ (hspSt t D).toAck = false ∧ (hspSt t D).wakeN = false ∧ Raised t D 428
      ∧ RegsBut d t [regKey D Reg.HSP_MODE] ∧ Quiet d t)
    ∧ (hspEnd d D = true → linkUp d D = true → Completes (.pmeTurnOff D) s fun t => Tlp.pmeToAck ∈ (hspSt t D).sent
      ∧ (hspSt t D).toAck = true ∧ Raised t D 424 ∧ t.regs = d.regs ∧ Quiet d t)
    ∧ (∀ (f : Fin 66), hspEnd d D = true → fnExists d D f = true → cfgStored d D (pfOf f) 17 / 256 % 2 = 1 →
      (linkUp d D = true → Completes (.pmeReq D f) s fun t => Tlp.pme f ∈ (hspSt t D).sent ∧ t.regs = d.regs ∧ Quiet d t)
      ∧ (linkUp d D = false → fld d D Reg.HSP_MODE Fl.HSP_MODE_LSTATE = 2 → Completes (.pmeReq D f) s fun t =>
        (hspSt t D).wakeN = true ∧ t.regs = d.regs ∧ Quiet d t))
    ∧ (domState d D 95 ≠ 1 → linkUp d D = true → fld d D Reg.HSP_MODE Fl.HSP_MODE_LSTATE = 2 →
      Completes (.electricalIdleExit D) s fun t => fld t D Reg.HSP_MODE Fl.HSP_MODE_LSTATE = 0 ∧ linkUp t D = true
        ∧ RegsBut d t [regKey D Reg.HSP_MODE] ∧ Quiet d t)
    ∧ (domState d D 95 = 1 → Completes (.electricalIdleExit D) s fun t => domState t D 95 = 5
        ∧ fld t D (Reg.DOM_CTL 95) Fl.DOM_CTL_REQ = 0 ∧ Quiet d t)
    ∧ (hspRoot d D = true →
      (∀ sev : Fin 3, Completes (.errorMessageReceived D sev) s fun t => Raised t D (434 + sev) ∧ t.regs = d.regs ∧ Quiet d t
        ∧ cfgStored t D 0 76 = (BitVec.ofNat 32 (cfgStored d D 0 76) ||| (if sev = 0 then 1#32 else if sev = 1 then 0x24#32 else 0x54#32)).toNat)
      ∧ (Completes (.pmeMessageReceived D) s fun t => Raised t D 438 ∧ t.regs = d.regs ∧ Quiet d t)
      ∧ (Completes (.rootRstWrite D true) s fun t => flg t D Reg.ROOT_RST Fl.ROOT_RST_ASSERT = true ∧ linkUp t D = false
        ∧ (hspSt t D).outs = [] ∧ t.caches = d.caches ∧ t.homes = d.homes ∧ t.mem = d.mem)
      ∧ (Completes (.rootRstWrite D false) s fun t => flg t D Reg.ROOT_RST Fl.ROOT_RST_ASSERT = false
        ∧ RegsBut d t [regKey D Reg.ROOT_RST] ∧ Quiet d t))

/-- An enable that is set shows in FN_STATUS. Clearing Bus Master Enable halts the function's running channels, drops its requests'
completions and quiesces with event 422, and the last request that ends clears QUIESCING. A Function Level Reset clears the
enables at its start and at its end returns the configuration space, halts the channels and raises event 423. D3hot pauses
channels and all functions in it put the link into L1. A configuration read answers the word, a full write of a word without
effects changes its writable bits, one before release is told to retry. Completions and timeouts close their requests. A commit
makes the shadow windows live, or is held behind one that is pending. (15_host_port.md) -/
def Obligations.PortFunctions : Prop :=
  ∀ (s : State) (D : Die), let d := s.dev
    (∀ (f : Fin 66) (st : Nat), st = Reg.FN_STATUS f →
      (hspEnd d D = true → fnExists d D f = true →
        (Completes (.enableSet D f 0) s fun t => fnFlg t D f Fl.FN_STATUS_BME = true ∧ RegsBut d t [regKey D st] ∧ Quiet d t)
        ∧ (Completes (.enableSet D f 1) s fun t => fnFlg t D f Fl.FN_STATUS_MSE = true ∧ RegsBut d t [regKey D st] ∧ Quiet d t)
        ∧ (f = 1 → fnFlg d D 1 Fl.FN_STATUS_VF_EN = false → Completes (.enableSet D f 2) s fun t =>
          fnFlg t D 1 Fl.FN_STATUS_VF_EN = true ∧ Raised t D 429 ∧ RegsBut d t [regKey D st] ∧ Quiet d t)
        ∧ (Completes (.flr D f) s fun t => fnFlg t D f Fl.FN_STATUS_FLR_BUSY = true ∧ fnFlg t D f Fl.FN_STATUS_BME = false
          ∧ fnFlg t D f Fl.FN_STATUS_MSE = false ∧ (f ≠ 1 → RegsBut d t [regKey D st]) ∧ Quiet d t
          ∧ (f = 1 → fnFlg t D 1 Fl.FN_STATUS_VF_EN = false
            ∧ (fnFlg d D 1 Fl.FN_STATUS_VF_EN = true → ∀ v, v < 64 → fnFlg t D (2 + v) Fl.FN_STATUS_FLR_BUSY = true)))
        ∧ (∀ d3 : Bool, (fnFld d D f Fl.FN_STATUS_DSTATE == 3) = !d3 → Completes (.dStateChange D f d3) s fun t =>
          fnFld t D f Fl.FN_STATUS_DSTATE = (if d3 then 3 else 0) ∧ Raised t D 424 ∧ Quiet d t
          ∧ (∀ ch, ch < 16 → chanFn d D ch = f → chanState t D ch =
              (if d3 = true ∧ chanState d D ch = 1 then 2 else if d3 = false ∧ chanState d D ch = 2 then 1 else chanState d D ch))
          ∧ (linkUp d D = true → (∀ g, g < 66 → fnExists t D g = true → fnFld t D g Fl.FN_STATUS_DSTATE = 3) →
              fld t D Reg.HSP_MODE Fl.HSP_MODE_LSTATE = 2)))
      ∧ (fnFlg d D f Fl.FN_STATUS_BME = true → Completes (.bmeClear D f) s fun t => fnFlg t D f Fl.FN_STATUS_BME = false
        ∧ fnFlg t D f Fl.FN_STATUS_QUIESCING = true ∧ Raised t D 422 ∧ Quiet d t ∧ (∀ o ∈ (hspSt t D).outs, o.fn = f → o.drop = true)
        ∧ ∀ ch, ch < 16 → chanFn d D ch = f → chanState d D ch = 1 ∨ chanState d D ch = 2 →
          chanState t D ch = 3 ∧ chanSt t D ch = ChanSt.init ∧ Raised t D 427)
      ∧ (fnFlg d D f Fl.FN_STATUS_QUIESCING = true → (∀ o ∈ (hspSt d D).outs, o.fn ≠ f) → Completes (.quiesceEnd D f) s fun t =>
        fnFlg t D f Fl.FN_STATUS_QUIESCING = false ∧ Raised t D 422 ∧ RegsBut d t [regKey D st] ∧ Quiet d t)
      ∧ (fnFlg d D f Fl.FN_STATUS_FLR_BUSY = true → Completes (.flrComplete D f) s fun t => fnFlg t D f Fl.FN_STATUS_FLR_BUSY = false
        ∧ fnFlg t D f Fl.FN_STATUS_QUIESCING = false ∧ fnFld t D f Fl.FN_STATUS_DSTATE = 0 ∧ Raised t D 423
        ∧ fnFlg t D f Fl.FN_STATUS_BME = fnFlg d D f Fl.FN_STATUS_BME ∧ fnFlg t D f Fl.FN_STATUS_MSE = fnFlg d D f Fl.FN_STATUS_MSE
        ∧ (∀ o ∈ (hspSt t D).outs, o.fn ≠ f) ∧ (∀ dw, dw < 1024 → cfgStored t D f dw = (cfgWord (fnKind d D f) dw 30).reset)
        ∧ ∀ ch, ch < 16 → chanFn d D ch = f → chanState d D ch = 1 ∨ chanState d D ch = 2 ∨ chanState d D ch = 3 → chanState t D ch = 4))
    ∧ (∀ (f : Fin 66) (dw : Fin 1024) (tag : Nat), hspEnd d D = true → linkUp d D = true → domOn d D 95 = true →
      (fnExists d D f = false → ∀ w, Completes (.configurationRequest D f dw w tag) s fun t =>
        Tlp.cpl f tag 1 false [] ∈ (hspSt t D).sent ∧ t.regs = d.regs ∧ Quiet d t)
      ∧ (fnExists d D f = true → inReserve d D = false → f ≠ 0 → released d (D / 8) = false → ∀ w,
        Completes (.configurationRequest D f dw w tag) s fun t => Tlp.cpl f tag 2 false [] ∈ (hspSt t D).sent ∧ t.regs = d.regs ∧ Quiet d t)
      ∧ (fnExists d D f = true → f = 0 ∨ inReserve d D = false ∧ released d (D / 8) = true →
        (Completes (.configurationRequest D f dw none tag) s fun t =>
          Tlp.cpl f tag 0 false (toBytes 4 (cfgRead d D f dw)) ∈ (hspSt t D).sent ∧ t.regs = d.regs ∧ Quiet d t)
        ∧ (∀ (v o r c : BitVec 32), dw.val ∉ [1, 17, 20, 26, 174] → o = BitVec.ofNat 32 (cfgStored d D f dw) →
          r = BitVec.ofNat 32 (cfgWord (fnKind d D f) dw (bar4Lg d D)).rw → c = BitVec.ofNat 32 (cfgWord (fnKind d D f) dw (bar4Lg d D)).w1c →
          Completes (.configurationRequest D f dw (some (v, 0xF)) tag) s fun t => Tlp.cpl f tag 0 false [] ∈ (hspSt t D).sent
            ∧ cfgStored t D f dw = (((o &&& ~~~ r) ||| (v &&& r)) &&& ~~~ (v &&& c)).toNat ∧ t.regs = d.regs ∧ Quiet d t)))
    ∧ (∀ (tag : Nat) (o : OutReq), outAt d D tag = some o →
      (∀ (st : Fin 8) (ep : Bool) (data : List Byte), o.drop = true → Completes (.completionReceived D tag st ep data) s fun t =>
        fld t D (Reg.FN_STATUS o.fn) Fl.FN_STATUS_CPL_DISCARD = min (fld d D (Reg.FN_STATUS o.fn) Fl.FN_STATUS_CPL_DISCARD + 1) 65535
        ∧ (o.len ≤ o.got + data.length ∨ st ≠ 0 → outAt t D tag = none) ∧ t.mem = d.mem ∧ t.caches = d.caches ∧ t.homes = d.homes)
      ∧ (∀ (c : Nat) (data : List Byte), o.drop = false → o.by' = .core c → Completes (.completionReceived D tag 0 false data) s fun t =>
        outAt t D tag = none ∧ t.mem = d.mem ∧ t.caches = d.caches ∧ t.homes = d.homes ∧ CoresBut d t c ∧ arch t c = arch d c
        ∧ (coreSt t c).win = (coreSt d c).win.map (fun w => if w.die == D.val && w.off == winOffOf o && w.n == o.len && w.res.isNone then
            { w with res := some (some (ofBytes (data.take o.len), false)) } else w))
      ∧ (∀ (ch : Nat) (st : Fin 8) (data : List Byte), o.drop = false → o.by' = .chan ch → st ≠ 0 →
        Completes (.completionReceived D tag st false data) s fun t => outAt t D tag = none ∧ Quiet d t
          ∧ (chanSt t D ch).status = if (chanSt d D ch).status = 0 then 1 else (chanSt d D ch).status)
      ∧ (nowOf d D < o.at' + cplTimeout d D o.fn → Completes (.completionTimeout D tag) s fun t => t.regs = d.regs ∧ Quiet d t)
      ∧ (o.at' + cplTimeout d D o.fn ≤ nowOf d D → Completes (.completionTimeout D tag) s fun t => outAt t D tag = none ∧ Raised t D 421
        ∧ t.mem = d.mem ∧ t.caches = d.caches ∧ t.homes = d.homes))
    ∧ (∀ n, n = Reg.WIN_STATUS →
      (flg d D n Fl.WIN_STATUS_PENDING = false → Completes (.go D) s fun t => (hspSt t D).live = shadowSet d D
        ∧ flg t D n Fl.WIN_STATUS_PENDING = true ∧ fld t D n Fl.WIN_STATUS_COMMITS = min (fld d D n Fl.WIN_STATUS_COMMITS + 1) 65535
        ∧ Raised t D 426 ∧ RegsBut d t [regKey D n] ∧ Quiet d t)
      ∧ (flg d D n Fl.WIN_STATUS_PENDING = true →
        (Completes (.go D) s fun t => (hspSt t D).live = (hspSt d D).live ∧ (hspSt t D).commits = (hspSt d D).commits ++ [shadowSet d D]
          ∧ flg t D n Fl.WIN_STATUS_HELD = true ∧ RegsBut d t [regKey D n] ∧ Quiet d t)
        ∧ ((hspSt d D).commits = [] → Completes (.winCommitComplete D) s fun t => flg t D n Fl.WIN_STATUS_PENDING = false
          ∧ (hspSt t D).live = (hspSt d D).live ∧ RegsBut d t [regKey D n] ∧ Quiet d t)
        ∧ (∀ m r, (hspSt d D).commits = m :: r → Completes (.winCommitComplete D) s fun t => (hspSt t D).live = m ∧ (hspSt t D).commits = r
          ∧ flg t D n Fl.WIN_STATUS_PENDING = true ∧ flg t D n Fl.WIN_STATUS_HELD = !r.isEmpty ∧ Raised t D 426
          ∧ RegsBut d t [regKey D n] ∧ Quiet d t)))

/-- With nothing waiting at a port's input, an inbound read is answered with the data of its BAR0 word or window, with zeros on a
doorbell page, and else with the error status of its function; a refusal at a window counts. An inbound write through a window
acts as the port's write of those bytes, and one to an MSI-X table writes the entry. A doorbell write puts its pushes into the
tail buffer or is discarded with event 425; its release puts the first entry into its queue. A DMA channel takes its descriptor,
sends its next read or write, pushes its completion entry and ends; a halted one resumes or is left. An MSI-X vector is sent or
held pending, and a captured interrupt becomes a virtual event or event 437. (15_host_port.md, 13_events_timebase.md) -/
def Obligations.PortTraffic : Prop :=
  ∀ (s : State) (D : Die), let d := s.dev
    (∀ (f : Fin 66) (tgt : HostTgt), tgtFits d D tgt = true → linkUp d D = true → domOn d D 95 = true → (hspSt d D).inq = [] →
      (∀ (len : Fin 4097) (tag : Nat), 0 < len.val →
        (∀ st, inGate d D f = some st → Completes (.inboundMemoryRead D f tgt len tag) s fun t =>
          Tlp.cpl f tag st false [] ∈ (hspSt t D).sent ∧ t.regs = d.regs ∧ Quiet d t)
        ∧ (inGate d D f = none → inOff d D f = true → Completes (.inboundMemoryRead D f tgt len tag) s fun t =>
          Tlp.cpl f tag 1 false [] ∈ (hspSt t D).sent ∧ Quiet d t)
        ∧ (inGate d D f = none → inOff d D f = false →
          (∀ off, inPlace d D f tgt = .bar0 off → len.val = 4 ∨ len.val = 8 → off % len.val = 0 →
            Completes (.inboundMemoryRead D f tgt len tag) s fun t => t.regs = d.regs ∧ Quiet d t
              ∧ Tlp.cpl f tag 0 false (toBytes len.val ((bar0Word d D f (off / 8 * 8)).toNat / 2 ^ (8 * (off % 8)))) ∈ (hspSt t D).sent)
          ∧ (∀ n, inPlace d D f tgt = .page n → Completes (.inboundMemoryRead D f tgt len tag) s fun t =>
            Tlp.cpl f tag 0 false (List.replicate len.val 0) ∈ (hspSt t D).sent ∧ t.regs = d.regs ∧ Quiet d t)
          ∧ (∀ w o, inPlace d D f tgt = .win w o →
            (winTranslate d D w o len.val = none → Completes (.inboundMemoryRead D f tgt len tag) s fun t =>
              Tlp.cpl f tag 1 false [] ∈ (hspSt t D).sent ∧ RegsBut d t [regKey D Reg.WIN_STATUS] ∧ Quiet d t
              ∧ fld t D Reg.WIN_STATUS Fl.WIN_STATUS_REFUSED = min (fld d D Reg.WIN_STATUS Fl.WIN_STATUS_REFUSED + 1) 65535)
            ∧ (∀ pa p a r, winTranslate d D w o len.val = some pa → regionOf pa = .dram p a → rangeAwake d D pa len.val = true →
              r = dmaFetch D (fnWho d D f) pa len.val d → Completes (.inboundMemoryRead D f tgt len tag) s fun t =>
                Tlp.cpl f tag 0 (r.2.2.1 || r.2.2.2) (if (r.2.2.1 || r.2.2.2) = true then List.replicate len.val 0 else r.2.1) ∈ (hspSt t D).sent
                ∧ t.mem = r.1.mem ∧ t.homes = r.1.homes ∧ t.caches = r.1.caches))))
      ∧ (∀ (data : List (Option Byte)) (ep : Bool), data ≠ [] → data.length ≤ 512 →
        (∀ st, inGate d D f = some st → Completes (.inboundMemoryWrite D f tgt data ep) s fun t => t.regs = d.regs ∧ Quiet d t)
        ∧ (inGate d D f = none → inOff d D f = false →
          (∀ off (v : BitVec 32) vec i, tgt = .bar 0 off → data = (toBytes 4 v.toNat).map some → f ≠ 0 → vec < msixCount f → i < 4 →
            off = (if f.val = 1 then 0x100000 else 0x8000) + 16 * vec + 4 * i → Completes (.inboundMemoryWrite D f tgt data ep) s fun t =>
              msixWord t D f vec i = v.toNat ∧ t.regs = d.regs ∧ Quiet d t)
          ∧ (∀ w o, inPlace d D f tgt = .win w o → (∀ a, tgt = .bus a → isMsi d D a data = false) →
            (winTranslate d D w o data.length = none → Completes (.inboundMemoryWrite D f tgt data ep) s fun t =>
              RegsBut d t [regKey D Reg.WIN_STATUS] ∧ Quiet d t
              ∧ fld t D Reg.WIN_STATUS Fl.WIN_STATUS_REFUSED = min (fld d D Reg.WIN_STATUS Fl.WIN_STATUS_REFUSED + 1) 65535)
            ∧ (∀ pa p a x, winTranslate d D w o data.length = some pa → regionOf pa = .dram p a → rangeAwake d D pa data.length = true →
              x = inStore D (fnWho d D f) pa data ep d → Completes (.inboundMemoryWrite D f tgt data ep) s fun t =>
                t.mem = x.mem ∧ t.homes = x.homes ∧ t.caches = x.caches ∧ t.queues = x.queues)))))
    ∧ (∀ (f : Fin 66) (n : Fin 256) (off : Fin 4096) (data : List (Option Byte)) (pg o : Nat), hspEnd d D = true → linkUp d D = true →
      domOn d D 95 = true → (hspSt d D).inq = [] → 1 ≤ f.val → data ≠ [] → data.length ≤ 512 → inGate d D f = none →
      pg = (if f.val = 1 then n.val else 256 + 16 * (f.val - 2) + n.val % 16) →
      o = (if f.val = 1 then 0x40000000 + n.val * 4096 else n.val % 16 * 4096) + off.val →
      (dbItems d D f pg o data = none → HoldRoom d D → Completes (.doorbellWrite D f n off data) s fun t =>
        fld t D (Reg.FN_STATUS f) Fl.FN_STATUS_DB_DISCARD = min (fld d D (Reg.FN_STATUS f) Fl.FN_STATUS_DB_DISCARD + 1) 255
        ∧ Raised t D 425 ∧ Recorded d t D { ErrRec.mk' 0 0x0B 0 0x1E with info0 := f } ∧ Quiet d t)
      ∧ (∀ it, dbItems d D f pg o data = some [it] → (hspSt d D).buf = [] → bufUse d D < 8 → Completes (.doorbellWrite D f n off data) s fun t =>
        (hspSt t D).buf = [(fld d D (Reg.DB_MAP pg) Fl.DB_MAP_QID, fnProd d D f, it)] ∧ (hspSt t D).inq = [] ∧ t.regs = d.regs ∧ Quiet d t))
    ∧ (∀ q p it r x y, (hspSt d D).inq = [] → (hspSt d D).buf = (q, p, it) :: r → x = updHsp D (fun z => { z with buf := r }) d →
      tailPush q p it x = some y → Completes (.doorbellRelease D) s fun t => (hspSt t D).buf = r ∧ t.queues = y.queues ∧ t.regs = d.regs
        ∧ t.mem = d.mem ∧ t.caches = d.caches)
    ∧ (∀ f q p it r t0, (hspSt d D).inq = [(.db f q p (it :: r), t0)] → bufAdd D q p it (updHsp D (fun z => { z with inq := [] }) d) = none →
      t0 + max 1 (fld d D Reg.DB_CTL Fl.DB_CTL_DB_TO) * 1000 ≤ nowOf d D → Completes (.doorbellTimeout D) s fun t => (hspSt t D).inq = []
        ∧ fld t D (Reg.FN_STATUS f) Fl.FN_STATUS_DB_DISCARD = min (fld d D (Reg.FN_STATUS f) Fl.FN_STATUS_DB_DISCARD + 1) 255
        ∧ Raised t D 425 ∧ Quiet d t)
    ∧ (∀ (ch : Fin 16) (f q : Nat), f = chanFn d D ch → q = fld d D (Reg.DMA_CFG ch) Fl.DMA_CFG_DQ →
      (∀ qs e r (w : Nat → Word), dmaReady d D ch = true → qFaults d qPOP (BitVec.ofNat 64 q) (fnWho d D f).ns (fnProd d D f) = false →
        queueAt d q = some qs → qs.packed = false → qs.framed = false → popWhy qs = none → qs.win = e :: r → e.poison = false →
        (∀ i, w i = BitVec.ofNat 64 (lineGet e.data (8 * i) 8)) → badDesc f w = false → Completes (.dmaDescriptorPop D ch) s fun t =>
          chanState t D ch = 1 ∧ chanSt t D ch = ChanSt.init ∧ (∀ i, i < 8 → dmaCur t D ch i = w i) ∧ t.queues = (popEntry q d).1.queues)
      ∧ (chanState d D ch = 1 → (chanSt d D ch).due = false → fnIssues d D f = true → (chanSt d D ch).pos < dmaLen d D ch →
        (∀ a n, dmaOp d D ch = 0 → (hspSt d D).outs.length < 512 → a = dmaHost d D ch + (chanSt d D ch).pos →
          n = min (maxRead d D f) (min (dmaLen d D ch - (chanSt d D ch).pos) (4096 - a % 4096)) → Completes (.dmaRead D ch) s fun t =>
            Tlp.memRd f ((hspSt d D).tag + 1) a n ∈ (hspSt t D).sent ∧ (chanSt t D ch).pos = (chanSt d D ch).pos + n
            ∧ ⟨(hspSt d D).tag + 1, f, .chan ch, a, n, 0, nowOf d D, false, false⟩ ∈ (hspSt t D).outs
            ∧ RegsBut d t [regKey D (Reg.FN_STATUS f)] ∧ Quiet d t)
        ∧ (∀ h a n r, dmaOp d D ch = 1 → h = dmaHost d D ch + (chanSt d D ch).pos → a = dmaDev d D ch + (chanSt d D ch).pos →
          n = min (maxPayload d D f) (min (dmaLen d D ch - (chanSt d D ch).pos) (4096 - h % 4096)) → unitAwake d D a = true →
          unitAwake d D (a + n - 1) = true → r = dmaFetch D (fnWho d D f) a n d → Completes (.dmaWrite D ch) s fun t =>
            Tlp.memWr f h (if (r.2.2.1 || r.2.2.2) = true then List.replicate n 0 else r.2.1) (r.2.2.1 || r.2.2.2) ∈ (hspSt t D).sent
            ∧ (chanSt t D ch).pos = (chanSt d D ch).pos + n ∧ ((chanSt t D ch).due = true ↔ dmaLen d D ch ≤ (chanSt d D ch).pos + n)))
      ∧ ((chanSt d D ch).due = true → chanState d D ch = 1 → (dmaPush D ch d).2 = true → Completes (.dmaCompletionPush D ch) s fun t =>
        t.queues = (dmaPush D ch d).1.queues ∧ (chanSt t D ch).due = false
        ∧ fld t D (Reg.DMA_STATUS ch) Fl.DMA_STATUS_LAST_STATUS = (chanSt d D ch).status % 16
        ∧ fld t D (Reg.DMA_STATUS ch) Fl.DMA_STATUS_DONE = min (fld d D (Reg.DMA_STATUS ch) Fl.DMA_STATUS_DONE + 1) 0xFFFFFFFF
        ∧ ((chanSt d D ch).status = 0 → chanState t D ch = 0 ∧ ∀ i, i < 8 → dmaCur t D ch i = 0))
      ∧ ((chanSt d D ch).due = false →
        (3 ≤ chanState d D ch → chanState d D ch ≤ 5 → Completes (.dmaResume D ch) s fun t => chanState t D ch = 1
          ∧ chanSt t D ch = ChanSt.init ∧ RegsBut d t [regKey D (Reg.DMA_STATUS ch)] ∧ Quiet d t)
        ∧ (chanState d D ch = 4 ∨ chanState d D ch = 5 → Completes (.abort D ch) s fun t => chanState t D ch = 0
          ∧ (∀ i, i < 8 → dmaCur t D ch i = 0) ∧ chanSt t D ch = ChanSt.init ∧ Quiet d t)))
    ∧ (∀ (f : Fin 66) (vec : BitVec 9), hspEnd d D = true → fnExists d D f = true → vec.toNat < msixCount f →
      (msixReady d D f vec.toNat = false → Completes (.fnMsixSend D f vec) s fun t => (f.val, vec.toNat) ∈ (hspSt t D).pend
        ∧ t.regs = d.regs ∧ Quiet d t)
      ∧ (msixReady d D f vec.toNat = true → f ≠ 0 → Completes (.fnMsixSend D f vec) s fun t => t.regs = d.regs ∧ Quiet d t
        ∧ Tlp.msix f vec.toNat (msixWord d D f vec.toNat 0 + msixWord d D f vec.toNat 1 * 2 ^ 32) (msixWord d D f vec.toNat 2) ∈ (hspSt t D).sent))
    ∧ (∀ (v : BitVec 32) (m : Word), hspRoot d D = true → flg d D Reg.MSI_CAP Fl.MSI_CAP_EN = true → linkUp d D = true → domOn d D 95 = true →
      (hspSt d D).inq = [] → m = rg d D (Reg.MSI_MAP (v.toNat % 2048)) →
      (getB Fl.MSI_MAP_EN m = true → Completes (.messageSignalledInterrupt D v) s fun t => getF Fl.MSI_MAP_VEC m ∈
          (cifSt t ((D / 8 * 8 + getF Fl.MSI_MAP_DIE m) * 40 + getF Fl.MSI_MAP_CORE m) (getB Fl.MSI_MAP_GROUP m)).vpend
          ∧ t.mem = d.mem ∧ t.caches = d.caches ∧ t.homes = d.homes)
      ∧ (getB Fl.MSI_MAP_EN m = false → Completes (.messageSignalledInterrupt D v) s fun t => Raised t D 437 ∧ t.regs = d.regs ∧ Quiet d t))
    ∧ (∀ (c : CoreId) (ns : Bool) (v : BitVec 8), Completes (.virtualEvent c ns v) s fun t => v.toNat ∈ (cifSt t c ns).vpend
        ∧ (∀ c' n', (c', n') ≠ (c.val, ns) → cifSt t c' n' = cifSt d c' n') ∧ t.mem = d.mem ∧ t.caches = d.caches ∧ t.homes = d.homes)

/-- A supply sample within 2.5 to 6.0 V shows on every die; the third in a row outside sets VIN_OOR, raises event 485 and starts the
entry with cause 1. The loss of the master package is a fatal fault with cause 3. The entry stops every core with its state
discarded, empties caches, slices and keepers, turns core, slice and mesh domains off and ports to retention, and shows IN and
CAUSE on every die; without VIN nothing is written back and WB_INCOMPLETE is set. The completed exit of every package clears IN
and EXITING and starts the monitor's core. (14_power.md, 17_reliability.md) -/
def Obligations.ReserveModeEntryAndExit : Prop :=
  ∀ (s : State), let d := s.dev
    (∀ (p : Pkg) (vin iin vsb : Nat) (oor : Nat), 0 < d.cfg.ndie p →
      (2500 ≤ vin → vin ≤ 6000 → Completes (.supplySample p vin iin vsb) s fun t => Quiet d t ∧ (dieSt t (p * 8)).vinBad = 0
        ∧ (pkgSt t p).resv = (pkgSt d p).resv ∧ ∀ D ∈ d.cfg.diesOf p,
          rg t D Reg.SUPPLY = BitVec.ofNat 64 (vin + min iin 0xFFFF * 2 ^ 16 + min vsb 0xFFFF * 2 ^ 32))
      ∧ (vin < 2500 ∨ 6000 < vin → oor = (if 2 ≤ (dieSt d (p * 8)).vinBad then 1 else 0) → Completes (.supplySample p vin iin vsb) s fun t =>
        Quiet d t ∧ (dieSt t (p * 8)).vinBad = min ((dieSt d (p * 8)).vinBad + 1) 3
        ∧ (∀ D ∈ d.cfg.diesOf p, rg t D Reg.SUPPLY =
            BitVec.ofNat 64 (min vin 0xFFFF + min iin 0xFFFF * 2 ^ 16 + min vsb 0xFFFF * 2 ^ 32 + oor * 2 ^ 48))
        ∧ (oor = 1 → flg d (p * 8) Reg.SUPPLY Fl.SUPPLY_VIN_OOR = false → (pkgSt d p).resv = none → pkgReserve d p = false →
            Raised t (crownDie d p) 485 ∧ (pkgSt t p).resv = some 1)))
    ∧ (∀ (p : Pkg), p ≠ d.cfg.master → 0 < d.cfg.ndie p → (pkgSt d p).xchgAt + 10000000 ≤ nowOf d (crownDie d p) →
      (pkgSt d p).resv = none → pkgReserve d p = false → Completes (.masterLoss p) s fun t => (pkgSt t p).fatal = true
        ∧ (pkgSt t p).resv = some 3 ∧ (∀ D ∈ d.cfg.diesOf p, ∀ i, i < 44 → fld t D (Reg.PACE_STATUS i) Fl.PACE_STATUS_PKG_CAP = 64)
        ∧ Quiet d t)
    ∧ (∀ (p : Pkg) (wb : Bool) (cause : Nat), (pkgSt d p).resv = some cause → cause < 8 → Completes (.reserveModeEntry p wb) s fun t =>
      (pkgSt t p).resv = none
      ∧ (∀ D ∈ d.cfg.diesOf p, inReserve t D = true ∧ fld t D Reg.RAS_RESERVE Fl.RAS_RESERVE_CAUSE = cause
        ∧ (wb = false → flg t D Reg.RAS_RESERVE Fl.RAS_RESERVE_WB_INCOMPLETE = true)
        ∧ (∀ i, i < 88 → domState t D i = 2 ∨ domState t D i = 6) ∧ (∀ i, 88 ≤ i → i < 95 → domState t D i = 1 ∨ domState t D i = 6))
      ∧ (∀ c ∈ coresOf d p, (coreSt t c).run = false ∧ (coreSt t c).kept = false ∧ arch t c = Arch.init
        ∧ (cacheSt t c).l2 = [] ∧ (cacheSt t c).sb = [])
      ∧ (∀ g ∈ pkgSlices d p, (homeSt t g).llc = [] ∧ (homeSt t g).dir = [] ∧ (homeSt t g).spad = [])
      ∧ (wb = false → t.mem = d.mem))
    ∧ (allExiting d = true → Completes .reserveExitComplete s fun t => (coreSt t (monitorCore d)).run = true
      ∧ ∀ p ∈ packages d, (pkgSt t p).thermtrip = false ∧ ∀ D ∈ d.cfg.diesOf p, inReserve t D = false
        ∧ flg t D Reg.RAS_RESERVE Fl.RAS_RESERVE_EXITING = false
        ∧ ∀ i, i < 44 → fld t D (Reg.PACE_STATUS i) Fl.PACE_STATUS_PKG_CAP = 0)

/-- A core with nothing in its caches that is restitched takes the lowest-numbered free spare tile: its number names the spare, its
registers and run state are kept, and its old tile is retired and off. With no spare left it is marked worn when wear is the
reason, and else loses its number and stops. A slice with a spare starts its background phase, the switch makes the spare serve
the number, and a redirected slice is served by another's array. A wear measurement shows the rate and island and sets WARN and
REPLACE once. The error bank's oldest record is pushed to its queue, and an admitted injection is armed.
(02_selftimed_operation.md, 06_llc_scratchpad.md, 17_reliability.md) -/
def Obligations.RestitchingWearAndRecords : Prop :=
  ∀ (s : State), let d := s.dev
    (∀ (c : CoreId) (why : RestitchWhy) (D l t0 : Nat), D = coreDie c → l = Reg.LCORE (coreLog c) → t0 = coreTile d c →
      flg d D l Fl.LCORE_VALID = true → inReserve d D = false → mayRestitch d D true why = true →
      (∀ sp r, spareCores d D = sp :: r → (cacheSt d c).l2 = [] → (cacheSt d c).sb = [] → (qEng d c).slots = [] →
        Completes (.coreRestitch c why) s fun t => coreTile t c = sp ∧ flg t D l Fl.LCORE_VALID = true ∧ t0 ∈ (dieSt t D).badCore
          ∧ (domState t D t0 = 2 ∨ domState t D t0 = 6) ∧ (coreSt t c).run = (coreSt d c).run ∧ arch t c = arch d c
          ∧ (coreSt t c).tlb = [] ∧ t.mem = d.mem)
      ∧ (spareCores d D = [] →
        (why = .wear → Completes (.coreRestitch c why) s fun t => t0 ∈ (dieSt t D).worn ∧ t.regs = d.regs ∧ Quiet d t)
        ∧ (why ≠ .wear → (cacheSt d c).l2 = [] → (cacheSt d c).sb = [] → (qEng d c).slots = [] → Completes (.coreRestitch c why) s fun t =>
          flg t D l Fl.LCORE_VALID = false ∧ (coreSt t c).run = false ∧ t0 ∈ (dieSt t D).badCore ∧ t.mem = d.mem)))
    ∧ (∀ (g : SliceId) (why : RestitchWhy) (D i : Nat), D = sliceDie g → i = sliceLog g → flg d D (Reg.LSLICE i) Fl.LSLICE_VALID = true →
      flg d D (Reg.LSLICE i) Fl.LSLICE_REDIRECTED = false → inReserve d D = false → (dieSt d D).moving = none →
      mayRestitch d D false why = true →
      (∀ sp r, spareSlices d D = sp :: r → (homeSt d g).dir = [] → (homeSt d g).llc = [] → Completes (.sliceRestitch g why) s fun t =>
        (dieSt t D).moving = some (i, sp) ∧ flg t D Reg.RAS_RESTITCH Fl.RAS_RESTITCH_ACTIVE = true
        ∧ fld t D Reg.RAS_RESTITCH Fl.RAS_RESTITCH_PHASE = 1 ∧ domOn t D (44 + sp) = true ∧ Quiet d t)
      ∧ (spareSlices d D = [] → why = .wear → Completes (.sliceRestitch g why) s fun t => 44 + sliceTile d g ∈ (dieSt t D).worn
        ∧ t.regs = d.regs ∧ Quiet d t))
    ∧ (∀ (D : Die) (i sp g : Nat), (dieSt d D).moving = some (i, sp) → i < 42 → sp < 44 → g = D * 42 + i →
      flg d D (Reg.LSLICE i) Fl.LSLICE_VALID = true → (homeSt d g).dir = [] → (homeSt d g).llc = [] → Completes (.sliceSwitch D) s fun t =>
        sliceTile t g = sp ∧ (dieSt t D).moving = none ∧ sliceTile d g ∈ (dieSt t D).badSlice ∧ (homeSt t g).spad = (homeSt d g).spad
        ∧ flg t D Reg.RAS_RESTITCH Fl.RAS_RESTITCH_ACTIVE = false ∧ t.mem = d.mem)
    ∧ (∀ (g : SliceId) (j : Fin 42) (D i tj : Nat), D = sliceDie g → i = sliceLog g → tj = fld d D (Reg.LSLICE j) Fl.LSLICE_PTILE → i ≠ j →
      flg d D (Reg.LSLICE i) Fl.LSLICE_VALID = true → flg d D (Reg.LSLICE i) Fl.LSLICE_REDIRECTED = false →
      flg d D (Reg.LSLICE j) Fl.LSLICE_VALID = true → flg d D (Reg.LSLICE j) Fl.LSLICE_REDIRECTED = false →
      flg d D (Reg.SLICE_STATUS tj) Fl.SLICE_STATUS_REDIRECT = false → spareSlices d D = [] → inReserve d D = false →
      (dieSt d D).moving = none → (homeSt d g).dir = [] → (homeSt d g).llc = [] → Completes (.sliceRedirect g j) s fun t =>
        flg t D (Reg.LSLICE i) Fl.LSLICE_REDIRECTED = true ∧ sliceTile t g = tj ∧ homeSt t g = HomeSt.init
        ∧ flg t D (Reg.SLICE_STATUS tj) Fl.SLICE_STATUS_REDIRECT = true ∧ sliceTile d g ∈ (dieSt t D).badSlice ∧ t.mem = d.mem)
    ∧ (∀ (D : Die) (x : Fin 44) (slice : Bool) (rate island : BitVec 16) (st : Nat) (ctl : Word) (below : Nat → Bool),
      st = Reg.WEAR_STATUS x (b2n slice) → ctl = rg d D (Reg.WEAR_CTL x (b2n slice)) →
      (∀ pct, below pct = decide (rate.toNat * 100 < fld d D (Reg.WEAR_BASE x (b2n slice)) Fl.WEAR_BASE_BASE * (100 - pct))) →
      Completes (.wearMeasurement D x slice rate island) s fun t => fld t D st Fl.WEAR_STATUS_RATE = rate.toNat
        ∧ fld t D st Fl.WEAR_STATUS_WORST_ISLAND = island.toNat
        ∧ flg t D st Fl.WEAR_STATUS_WARN = (below (getF Fl.WEAR_CTL_WARN_PCT ctl) || flg d D st Fl.WEAR_STATUS_WARN)
        ∧ flg t D st Fl.WEAR_STATUS_REPLACE = (below (getF Fl.WEAR_CTL_REPLACE_PCT ctl) || decide (rate.toNat < getF Fl.WEAR_CTL_REPLACE_MIN ctl)
            || flg d D st Fl.WEAR_STATUS_REPLACE)
        ∧ flg t D st Fl.WEAR_STATUS_BELOW_FLOOR = (!slice && decide (rate.toNat < 2900)) ∧ RegsBut d t [regKey D st] ∧ Quiet d t)
    ∧ (∀ (D : Die) (r : ErrRec) (rest : List ErrRec) (x : Dev), (dieSt d D).hold = r :: rest → (dieSt d D).holdDropped = false →
      flg d D Reg.LOG_CTL Fl.LOG_CTL_EN = true → inReserve d D = false →
      tailPush (fld d D Reg.LOG_CTL Fl.LOG_CTL_QID) ⟨4000 + D, false, 0, 0⟩ (.full (ofLineBytes r.bytes)) d = some x →
      Completes (.errorRecordPush D) s fun t => (dieSt t D).hold = rest ∧ t.queues = x.queues ∧ t.regs = d.regs ∧ t.mem = d.mem
        ∧ t.caches = d.caches ∧ t.homes = d.homes ∧ t.cores = d.cores)
    ∧ (∀ (D : Die) (v : Word) (ty : Nat), dbgControl d false = true → dbgControl d true = true → ty = getF Fl.RAS_INJECT_TYPE v → ty ≠ 0 →
      Completes (.injectGo D v) s fun t => (getF Fl.RAS_INJECT_KIND v, getF Fl.RAS_INJECT_UNIT v, ty) ∈ (dieSt t D).armed
        ∧ t.regs = d.regs ∧ Quiet d t ∧ (getF Fl.RAS_INJECT_KIND v = 7 → getF Fl.RAS_INJECT_UNIT v < 7 → ty < 3 →
          (portSt t (D * 7 + getF Fl.RAS_INJECT_UNIT v)).inject = some ty))

/-- A Crown that executes an instruction writes its result to its register, c0 staying zero, and goes on to the next instruction or to
the target of the branch whose slot it stands in: the 16-bit and 32-bit register operations, C.ADDI and C.LI, the immediate
operations with sign extension or, for the logic group, zero extension, and LUI. An aligned load from SRAM is zero-extended and an
8-byte one fills an even pair; an aligned store to SRAM writes its bytes and no others. A misaligned access traps with ALIGN and
an address of no place with BUS, and encodings that are not assigned trap with ILLEGAL. (16_crown.md) -/
def Obligations.CrownArithmeticAndMemory : Prop :=
  ∀ (s : State) (D : Die), let d := s.dev; let x := crnSt d D
    (∀ (func : BitVec 3) (rd rs : CReg) (a b : BitVec 32), a = crnReg x rd.toNat → b = crnReg x rs.toNat →
      CrnReady d D false [rd.toNat, rd.toNat, rs.toNat] → ¬ (func = 0 ∧ rd = 0 ∧ rs = 0) →
      ∀ v, (func.toNat, v) ∈ [(0, b), (1, a + b), (2, a - b), (3, a &&& b), (4, a ||| b), (5, a ^^^ b), (6, a <<< (b.toNat % 32)),
        (7, a >>> (b.toNat % 32))] → CrnWrites (.c16rAlu D func rd rs) s D 2 rd.toNat v)
    ∧ (CrnReady d D false [] → CrnTraps (.c16rAlu D 0 0 0) s D 1)
    ∧ (∀ (rd : CReg) (imm : BitVec 7),
      (CrnReady d D false [rd.toNat, rd.toNat] → CrnWrites (.cAddi D rd imm) s D 2 rd.toNat (crnReg x rd.toNat + imm.signExtend 32))
      ∧ (CrnReady d D false [rd.toNat] → CrnWrites (.cLi D rd imm) s D 2 rd.toNat (imm.signExtend 32)))
    ∧ (∀ (func : BitVec 13) (rd rs1 rs2 : CReg) (a b : BitVec 32), a = crnReg x rs1.toNat → b = crnReg x rs2.toNat →
      (CrnReady d D false [rd.toNat, rs1.toNat, rs2.toNat] → ∀ v, (func.toNat, v) ∈ [(0, a + b), (1, a - b), (2, a &&& b), (3, a ||| b),
        (4, a ^^^ b), (5, a <<< (b.toNat % 32)), (6, a >>> (b.toNat % 32)), (7, a.sshiftRight (b.toNat % 32)),
        (8, if a.toInt < b.toInt then 1 else 0), (9, if a.toNat < b.toNat then 1 else 0), (10, a * b),
        (11, BitVec.ofNat 32 (a.toNat * b.toNat / 2 ^ 32))] → CrnWrites (.c32rAlu D func rd rs1 rs2) s D 4 rd.toNat v)
      ∧ (CrnReady d D false [] → 12 ≤ func.toNat → CrnTraps (.c32rAlu D func rd rs1 rs2) s D 1))
    ∧ (∀ (op : CrnImm) (rd rs1 : CReg) (imm : BitVec 17) (a v : BitVec 32), a = crnReg x rs1.toNat → CrnReady d D false [rd.toNat, rs1.toNat] →
      (op, v) ∈ [(CrnImm.addi, a + imm.signExtend 32), (.andi, a &&& imm.zeroExtend 32), (.ori, a ||| imm.zeroExtend 32),
        (.xori, a ^^^ imm.zeroExtend 32), (.slti, if a.toInt < (imm.signExtend 32).toInt then 1 else 0), (.lui, imm.zeroExtend 32 <<< 15)] →
      CrnWrites (.c32iImmediate D op rd rs1 imm) s D 4 rd.toNat v)
    ∧ (∀ (i : Instr) (len n a o : Nat) (rd rs1 : CReg),
      (∃ imm : BitVec 7, i = .cLw D rd imm ∧ len = 2 ∧ n = 4 ∧ rs1 = 14 ∧ a = (crnReg x 14 + BitVec.ofNat 32 (4 * imm.toNat)).toNat)
        ∨ (∃ (lg : Fin 4) (off : BitVec 15), i = .crownLd D lg rd rs1 off ∧ len = 4 ∧ lg ≠ 3 ∧ n = 2 ^ lg.val
          ∧ a = (crnReg x rs1.toNat + off.signExtend 32).toNat) →
      CrnReady d D false [rd.toNat, rs1.toNat] →
      (a % n = 0 → crnPlace a n = .sram o → CrnWrites i s D len rd.toNat (BitVec.ofNat 32 (crnSramRead x o n)))
      ∧ (a % n ≠ 0 → CrnTraps i s D 3) ∧ (a % n = 0 → crnPlace a n = .none' → CrnTraps i s D 2))
    ∧ (∀ (rd rs1 : CReg) (off : BitVec 15) (a o : Nat), a = (crnReg x rs1.toNat + off.signExtend 32).toNat →
      (rd.toNat % 2 = 0 → CrnReady d D false [rd.toNat, rd.toNat + 1, rs1.toNat] → a % 8 = 0 → crnPlace a 8 = .sram o →
        Completes (.crownLd D 3 rd rs1 off) s fun t =>
          crnReg (crnSt t D) rd.toNat = (if rd = 0 then 0 else BitVec.ofNat 32 (crnSramRead x o 4))
          ∧ crnReg (crnSt t D) (rd.toNat + 1) = BitVec.ofNat 32 (crnSramRead x (o + 4) 4)
          ∧ CrnRegs d t D [rd.toNat, rd.toNat + 1] ∧ CrnNext d t D 4)
      ∧ (rd.toNat % 2 = 1 → CrnReady d D false [] → CrnTraps (.crownLd D 3 rd rs1 off) s D 1))
    ∧ (∀ (i : Instr) (len n a o v : Nat) (rs rs1 : CReg) (l : List Nat),
      (∃ imm : BitVec 7, i = .cSw D rs imm ∧ len = 2 ∧ n = 4 ∧ l = [rs.toNat, 14]
          ∧ a = (crnReg x 14 + BitVec.ofNat 32 (4 * imm.toNat)).toNat ∧ v = (crnReg x rs.toNat).toNat)
        ∨ (∃ (lg : Fin 4) (off : BitVec 15), i = .crownSt D lg rs rs1 off ∧ len = 4 ∧ n = 2 ^ lg.val
          ∧ a = (crnReg x rs1.toNat + off.signExtend 32).toNat
          ∧ ((lg ≠ 3 ∧ l = [rs.toNat, rs1.toNat] ∧ v = (crnReg x rs.toNat).toNat)
            ∨ (lg = 3 ∧ rs.toNat % 2 = 0 ∧ l = [rs.toNat, rs.toNat + 1, rs1.toNat]
              ∧ v = (crnReg x rs.toNat).toNat + (crnReg x (rs.toNat + 1)).toNat * 2 ^ 32))) →
      CrnReady d D false l →
      (a % n = 0 → crnPlace a n = .sram o → Completes i s fun t => (crnSt t D).pc = crnNext x len ∧ (crnSt t D).slot = none
        ∧ (∀ k, k < n → KMap.look 0#8 (crnSt t D).sram (o + k) = BitVec.ofNat 8 (v / 256 ^ k))
        ∧ (∀ k, k < o ∨ o + n ≤ k → KMap.look 0#8 (crnSt t D).sram k = KMap.look 0#8 x.sram k) ∧ CrnRegs d t D [] ∧ CrnOnly d t D)
      ∧ (a % n ≠ 0 → CrnTraps i s D 3) ∧ (a % n = 0 → crnPlace a n = .none' → CrnTraps i s D 2))

/-- A conditional branch or a jump outside a slot is followed by its slot, and then by its target if it is taken; CALL and JALR link
the address after the slot, and a control instruction in a slot traps with ILLEGAL. A long operation is placed in a free station,
an MRD with the value its register read gives; it completes with its outcome and its effect, and WAITT puts the outcome into
CR.RSSTAT and frees the station. CSRR and CSRW read and write the control registers, FLUSHI empties the fetch and branch-target
buffers, SLEEP sleeps while no event is pending, RETI goes to CR.EPC and TRAP traps. An event becomes pending and is taken with IE
set outside a slot, and an SRAM error restarts from ROM. (16_crown.md) -/
def Obligations.CrownControlAndStations : Prop :=
  ∀ (s : State) (D : Die), let d := s.dev; let x := crnSt d D
    (∀ (i : Instr) (len : Nat) (l : List Nat) (test an : Bool) (off : Int),
      (∃ (rs : CReg) (o6 : BitVec 6), l = [rs.toNat] ∧ len = 2 ∧ off = o6.toInt
          ∧ ((i = .cBeqz D rs an o6 ∧ test = decide (crnReg x rs.toNat = 0)) ∨ (i = .cBnez D rs an o6 ∧ test = decide (crnReg x rs.toNat ≠ 0))))
        ∨ (∃ (c : CrnCond) (r1 r2 : CReg) (o16 : BitVec 16) (a b : BitVec 32), i = .crownBranch D c an r1 r2 o16 ∧ l = [r1.toNat, r2.toNat]
          ∧ len = 4 ∧ off = o16.toInt ∧ a = crnReg x r1.toNat ∧ b = crnReg x r2.toNat
          ∧ (c, test) ∈ [(CrnCond.beq, decide (a = b)), (.bne, decide (a ≠ b)), (.blt, decide (a.toInt < b.toInt)),
            (.bge, decide (b.toInt ≤ a.toInt)), (.bltu, decide (a.toNat < b.toNat)), (.bgeu, decide (b.toNat ≤ a.toNat))]) →
      CrnReady d D true l → CrnBranches i s D len test ((((x.pc : Int) + 2 * off) % 2 ^ 32).toNat) an [])
    ∧ (∀ (rs : CReg), CrnReady d D true [rs.toNat] → CrnBranches (.cJr D 0 rs) s D 2 true (crnReg x rs.toNat).toNat false [])
    ∧ (∀ (off : BitVec 24) (w : Bool),
      (CrnReady d D true [] → CrnBranches (.j D off) s D 4 true ((((x.pc : Int) + 2 * off.toInt) % 2 ^ 32).toNat) false [])
      ∧ (CrnReady d D true [15] → CrnBranches (.call D off w) s D 4 true ((((x.pc : Int) + 2 * off.toInt) % 2 ^ 32).toNat) false [15]
        ∧ Completes (.call D off w) s fun t => crnReg (crnSt t D) 15 = BitVec.ofNat 32 (x.pc + 4 + (if w then 4 else 2))))
    ∧ (∀ (rd rs1 : CReg) (w : Bool), CrnReady d D true [rd.toNat, rs1.toNat] →
      CrnBranches (.crownJalr D rd rs1 w) s D 4 true (crnReg x rs1.toNat).toNat false [rd.toNat]
      ∧ Completes (.crownJalr D rd rs1 w) s fun t =>
        crnReg (crnSt t D) rd.toNat = if rd = 0 then 0 else BitVec.ofNat 32 (x.pc + 4 + (if w then 4 else 2)))
    ∧ (∀ (i : Instr), x.slot.isSome = true → CrnReady d D false [] → i ∈ [.j D 0, .trap D, .reti D] → CrnTraps i s D 1)
    ∧ (∀ (rd rs1 : CReg) (tag : Fin 4) (imm : BitVec 15) (st : Station), KMap.look none x.stations tag = none →
      st.rd = rd.toNat → st.addr = (crnReg x rs1.toNat).toNat → st.dst = (crnReg x rd.toNat).toNat → st.imm = imm.toNat → st.done = none →
      (∀ (i : Instr) (o : CrnLong), (i, o) ∈ [(.fread D rd rs1 tag imm, CrnLong.fread), (.crypt D rd rs1 tag imm, .crypt),
          (.mbx D rd rs1 tag imm, .mbx), (.fprog D rd rs1 tag imm, .fprog)] → CrnReady d D false [rd.toNat, rs1.toNat] → st.op = o →
        st.val = 0 → st.ok = true → Completes i s fun t => KMap.look none (crnSt t D).stations tag = some st
          ∧ (crnSt t D).pc = crnNext x 4 ∧ (crnSt t D).slot = none ∧ (crnSt t D).sram = x.sram ∧ CrnRegs d t D [] ∧ CrnOnly d t D)
      ∧ (∀ (e o : Nat), CrnReady d D false [rd.toNat, rd.toNat + 1, rs1.toNat] → rd.toNat % 2 = 0 → e = x.mseg % 4 * 8 + x.mseg / 4 % 8 →
        o = ((crnReg x rs1.toNat).toNat + 8 * imm.toNat) % 2 ^ 32 → o % 8 = 0 →
        (∀ d1 v, regRead none e o Who.platform (updCrn D (crnFetch 4) d) = (d1, .val v) → st.op = .mrd → st.val = v → st.ok = true →
          crnSt d1 D = crnFetch 4 x → Completes (.mrd D rd rs1 tag imm) s fun t => KMap.look none (crnSt t D).stations tag = some st
            ∧ (crnSt t D).pc = crnNext x 4 ∧ CrnRegs d t D [])
        ∧ (∀ d1, regWrite none e o (BitVec.ofNat 64 ((crnReg x rd.toNat).toNat + (crnReg x (rd.toNat + 1)).toNat * 2 ^ 32)) Who.platform
            (updCrn D (crnFetch 4) d) = (d1, false) → st.op = .mwr → st.val = 0 → st.ok = true → crnSt d1 D = crnFetch 4 x →
          Completes (.mwr D rd rs1 tag imm) s fun t => KMap.look none (crnSt t D).stations tag = some st ∧ t.regs = d1.regs
            ∧ (crnSt t D).pc = crnNext x 4 ∧ CrnRegs d t D [])))
    ∧ (∀ (tag : Fin 4) (st : Station), KMap.look none x.stations tag = some st →
      (∀ (out : BitVec 4) (data : BitVec 32) (len : BitVec 18) (bytes : List (BitVec 8)), st.done = none → d.cfg.present D = true →
        (st.op = .crypt ∨ st.op = .mbx → Completes (.stationComplete D tag out data len bytes) s fun t =>
          KMap.look none (crnSt t D).stations tag = some { st with done := some out.toNat } ∧ CrnRegs d t D [st.rd] ∧ CrnOnly d t D
          ∧ (out = 0 → st.rd ≠ 0 → crnReg (crnSt t D) st.rd = data))
        ∧ (st.op = .mrd → st.ok = true → st.rd ≠ 0 → Completes (.stationComplete D tag out data len bytes) s fun t =>
          KMap.look none (crnSt t D).stations tag = some { st with done := some 0 } ∧ CrnRegs d t D [st.rd, st.rd + 1] ∧ CrnOnly d t D
          ∧ crnReg (crnSt t D) st.rd = BitVec.ofNat 32 st.val.toNat ∧ crnReg (crnSt t D) (st.rd + 1) = BitVec.ofNat 32 (st.val.toNat / 2 ^ 32)))
      ∧ (CrnReady d D false [] →
        (∀ c, st.done = some c → Completes (.waitt D tag) s fun t => KMap.look none (crnSt t D).stations tag = none
          ∧ (crnSt t D).rsstat / 16 ^ tag.val % 16 = c % 16 ∧ (crnSt t D).pc = crnNext x 4 ∧ CrnRegs d t D [] ∧ CrnOnly d t D)
        ∧ (st.done = none → Completes (.waitt D tag) s fun t => (crnSt t D).pc = x.pc ∧ (crnSt t D).stations = x.stations
          ∧ CrnRegs d t D [] ∧ CrnOnly d t D)))
    ∧ (∀ (r : CReg) (n : BitVec 4), CrnReady d D false [r.toNat] →
      (∀ v, (n.toNat, v) ∈ [(1, BitVec.ofNat 32 x.epc), (2, BitVec.ofNat 32 x.ecause), (3, BitVec.ofNat 32 x.mseg), (4, BitVec.ofNat 32 x.rsstat),
          (5, BitVec.ofNat 32 (nowOf d D)), (6, BitVec.ofNat 32 x.timeHi), (7, BitVec.ofNat 32 x.evpend)] →
        CrnWrites (.csrr D r n) s D 4 r.toNat v)
      ∧ (n.toNat < 8 → Completes (.csrw D n r) s fun t => CrnRegs d t D [] ∧ CrnNext d t D 4
        ∧ (n = 1 → (crnSt t D).epc = (crnReg x r.toNat).toNat) ∧ (n = 0 → (crnSt t D).ie = (crnReg x r.toNat).getLsbD 0)
        ∧ (n = 3 → (crnSt t D).mseg = (crnReg x r.toNat).toNat % 32) ∧ (n ≠ 0 → (crnSt t D).ie = x.ie) ∧ (n ≠ 1 → (crnSt t D).epc = x.epc))
      ∧ (8 ≤ n.toNat → CrnTraps (.csrr D r n) s D 1 ∧ CrnTraps (.csrw D n r) s D 1))
    ∧ (CrnReady d D false [] →
      (Completes (.flushi D) s fun t => (crnSt t D).fbuf = [] ∧ (crnSt t D).btb = [] ∧ CrnRegs d t D [] ∧ CrnNext d t D 4)
      ∧ (Completes (.sleep D) s fun t => ((crnSt t D).asleep = true ↔ x.evpend = 0) ∧ CrnRegs d t D [] ∧ CrnNext d t D 4))
    ∧ (CrnReady d D true [] →
      (Completes (.reti D) s fun t => (crnSt t D).pc = x.epc ∧ (crnSt t D).slot = none ∧ CrnRegs d t D [] ∧ CrnOnly d t D)
      ∧ CrnTraps (.trap D) s D 5)
    ∧ (d.cfg.present D = true → (dieSt d D).crownDown = false →
      (∀ e : CrownEvt, Completes (.crownEvent D e) s fun t => (crnSt t D).evpend = x.evpend ||| 2 ^ CrownEvt.bit e
        ∧ (crnSt t D).asleep = false ∧ CrnRegs d t D [] ∧ CrnOnly d t D
        ∧ (x.ie = true → x.slot = none → (crnSt t D).pc = 0x10000000 ∧ (crnSt t D).epc = x.pc ∧ (crnSt t D).ecause = 0 ∧ (crnSt t D).ie = false)
        ∧ (x.ie = false ∨ x.slot ≠ none → (crnSt t D).pc = x.pc ∧ (crnSt t D).slot = x.slot))
      ∧ (Completes (.sramUe D) s fun t => (crnSt t D).ecause = 4 ∧ (crnSt t D).pc = 0 ∧ (crnSt t D).asleep = false
        ∧ (crnSt t D).stations = [] ∧ CrnRegs d t D [] ∧ CrnOnly d t D))

/-- A ready mailbox ends a command with its result and response: CASEBACK takes a record and SEQUENCE rises; GET_STATUS, SENSOR_READ
and SET_POWER_LIMIT answer or set; DOMAIN_REQ for a state already held succeeds; CODE_CONVERT, RESTITCH, RESERVE_EXIT and FW_STAGE
are accepted with a ticket and start; RESERVE_ENTER starts the entry everywhere; FAULT_ACK, SVC_DOWN_CLEAR and FW_ACTIVATE act at
once; the debug commands give a challenge, keep the first part, count a failure and clear enables. An unknown code ends with
BAD_CMD. A busy mailbox sets OVERRUN, one that may not use the code ends with DENIED. A background command that finishes reports
its result, and a held event 500 is raised when its millisecond is over. (16_crown.md, 12_isolation.md, 17_reliability.md) -/
def Obligations.MailboxCommands : Prop :=
  ∀ (s : State) (D : Die) (b : Mbx) (q : BitVec 8), let d := s.dev
    (∀ (w : Word), mbxExists d D b = true →
      ((mbxSt d D b).busy = true → Completes (.setPowerLimit D b q w) s fun t => (mbxSt t D b).overrun = true ∧ t.regs = d.regs ∧ Quiet d t)
      ∧ ((mbxSt d D b).busy = false → mbxServed d D b = true → b ∉ mbxAllowed 4 → Completes (.setPowerLimit D b q w) s fun t =>
        MbxDone t D b 5 [] ∧ t.regs = d.regs ∧ Quiet d t)
      ∧ (∀ code : BitVec 8, mbxAllowed code.toNat = [] → (mbxSt d D b).busy = false → mbxServed d D b = true →
        Completes (.badCmd D b q code) s fun t => MbxDone t D b 3 [] ∧ t.regs = d.regs ∧ Quiet d t))
    ∧ (MbxReady d D b 1 → Completes (.caseback D b q) s fun t => t.regs = d.regs ∧ Quiet d t
        ∧ MbxDone t D b 0 [BitVec.ofNat 64 (pkgSt d (D / 8)).sequence, BitVec.ofNat 64 (pkgSt d (D / 8)).generation]
        ∧ (pkgSt t (D / 8)).sequence = (pkgSt d (D / 8)).sequence + 1 ∧ (mbxSt t D b).buf.length = 4096)
    ∧ (MbxReady d D b 2 → ∀ (a : Word),
      ((pkgSt d (D / 8)).tickets.find? (fun k => k.id == a.toNat) = none → Completes (.getStatus D b q a) s fun t => MbxDone t D b 4 [])
      ∧ (∀ k, (pkgSt d (D / 8)).tickets.find? (fun k => k.id == a.toNat) = some k → k.state = 1 → Completes (.getStatus D b q a) s fun t =>
        MbxDone t D b 0 [BitVec.ofNat 64 (1 + 100 * 2 ^ 8 + k.result * 2 ^ 16)] ∧ t.regs = d.regs ∧ Quiet d t))
    ∧ (MbxReady d D b 3 → ∀ (a : Word),
      (sensorValue d (D / 8) a.toNat = none → Completes (.sensorRead D b q a) s fun t => MbxDone t D b 4 [])
      ∧ (∀ v, sensorValue d (D / 8) a.toNat = some v → Completes (.sensorRead D b q a) s fun t =>
        MbxDone t D b 0 [BitVec.ofNat 64 v, rg d (crownDie d (D / 8)) Reg.TIM_NOW] ∧ t.regs = d.regs ∧ Quiet d t))
    ∧ (MbxReady d D b 4 → ∀ (w : Word),
      (w.toNat < 2 ^ 16 → Completes (.setPowerLimit D b q w) s fun t => MbxDone t D b 0 []
        ∧ fld t D Reg.PKG_LIMIT Fl.PKG_LIMIT_LIMIT_W = w.toNat ∧ RegsBut d t [regKey D Reg.PKG_LIMIT] ∧ Quiet d t)
      ∧ (2 ^ 16 ≤ w.toNat → Completes (.setPowerLimit D b q w) s fun t => MbxDone t D b 4 [] ∧ t.regs = d.regs ∧ Quiet d t))
    ∧ (MbxReady d D b 5 → ∀ (E i tgt : Nat), E = D / 8 * 8 + E % 8 → i < 128 → tgt < 4 → d.cfg.present E = true →
      b = .host ∨ flashDie d (D / 8) ∈ d.cfg.diesOf (D / 8) → domRefusal d E i tgt true = none → domState d E i = tgt →
      Completes (.domainReq D b q (BitVec.ofNat 64 (E % 8 + i * 2 ^ 8 + tgt * 2 ^ 16))) s fun t => MbxDone t D b 0 [0]
        ∧ domState t E i = tgt ∧ fld t E Reg.NS_DOMRES Fl.NS_DOMRES_RESULT = 0 ∧ Quiet d t)
    ∧ (MbxReady d D b 6 → ∀ (r : Nat) (new : Bool), r < 64 → flg d D Reg.CODE_CONV Fl.CODE_CONV_BUSY = false →
      flg d D (Reg.CODE_REG r) Fl.CODE_REG_EN = true → flg d D (Reg.CODE_REG r) Fl.CODE_REG_CODE ≠ new →
      Completes (.codeConvert D b q (BitVec.ofNat 64 (r + b2n new * 2 ^ 8))) s fun t => MbxTicket d t D b 6 (r + b2n new * 2 ^ 8) 0
        ∧ flg t D Reg.CODE_CONV Fl.CODE_CONV_BUSY = true ∧ fld t D Reg.CODE_CONV Fl.CODE_CONV_REGION = r
        ∧ flg t D Reg.CODE_CONV Fl.CODE_CONV_NEWCODE = new ∧ flg t D (Reg.CODE_REG r) Fl.CODE_REG_CONV = true ∧ Quiet d t)
    ∧ (MbxReady d D b 7 → ∀ (j unit a : Nat) (w : Word), a = 0x01 * 2 ^ 8 + (j + D / 8 * 8) * 2 ^ 16 + unit * 2 ^ 24 → j < 8 → unit < 40 →
      w = BitVec.ofNat 64 a → d.cfg.present (D / 8 * 8 + j) = true → ticketBusy d (D / 8) 7 (· == a) = false →
      Completes (.restitch D b q w 0) s fun t => MbxTicket d t D b 7 a 0
        ∧ t.regs = (coreRestitch ((D / 8 * 8 + j) * 40 + unit) .command (mbxRung d D b q.toNat 7 [w, 0])).regs)
    ∧ (MbxReady d D b 8 → Completes (.reserveEnter D b q) s fun t => MbxDone t D b 0 []
        ∧ ∀ p ∈ packages d, (pkgSt d p).resv = none → pkgReserve d p = false → (pkgSt t p).resv = some 4)
    ∧ (MbxReady d D b 9 → ((packages d).all (fun p => pkgReserve d p && exitOk d p) = true → Completes (.reserveExit D b q) s fun t =>
        MbxTicket d t D b 9 0 0 ∧ Quiet d t ∧ ∀ p ∈ packages d, ∀ E ∈ d.cfg.diesOf p, flg t E Reg.RAS_RESERVE Fl.RAS_RESERVE_EXITING = true)
      ∧ ((packages d).all (fun p => pkgReserve d p && exitOk d p) = false → Completes (.reserveExit D b q) s fun t => MbxDone t D b 7 []
        ∧ t.regs = d.regs ∧ Quiet d t))
    ∧ (MbxReady d D b 10 → ∀ (i : Word),
      (i.toNat < (pkgSt d (D / 8)).faults.length → Completes (.faultAck D b q i) s fun t => MbxDone t D b 0 []
        ∧ (pkgSt t (D / 8)).faults = (pkgSt d (D / 8)).faults.eraseIdx i.toNat ∧ t.regs = d.regs ∧ Quiet d t)
      ∧ ((pkgSt d (D / 8)).faults.length ≤ i.toNat → Completes (.faultAck D b q i) s fun t => MbxDone t D b 4 []
        ∧ (pkgSt t (D / 8)).faults = (pkgSt d (D / 8)).faults))
    ∧ (MbxReady d D b 11 → ∀ (w : Word), w.toNat < 2 ^ 12 → Completes (.svcDownClear D b q w) s fun t => MbxDone t D b 0 [] ∧ Quiet d t
        ∧ ∀ n, n < 16 → ¬ (flg t 0 (Reg.SVC_DOWN n) Fl.SVC_DOWN_VALID = true ∧ fld t 0 (Reg.SVC_DOWN n) Fl.SVC_DOWN_SVC = w.toNat))
    ∧ (flashLost d (D / 8) = false →
      (MbxReady d D b 12 → ∀ (pa len : Word), pa.toNat < 2 ^ 48 → 0x200 ≤ len.toNat → len.toNat ≤ 0x1000200 →
        ticketBusy d (D / 8) 12 (fun _ => true) = false → (pkgSt d (D / 8)).upd = none → Completes (.fwStage D b q pa len) s fun t =>
          MbxTicket d t D b 12 pa.toNat len.toNat ∧ t.regs = d.regs ∧ Quiet d t)
      ∧ (MbxReady d D b 13 → ∀ (typ : Word) (n : Nat), 1 ≤ typ.toNat → typ.toNat ≤ 3 → n = KMap.look 0 (pkgSt d (D / 8)).staged typ.toNat →
        (n ≠ 0 → Completes (.fwActivate D b q typ) s fun t => MbxDone t D b 0 [] ∧ KMap.look 0 (pkgSt t (D / 8)).select typ.toNat = n
          ∧ t.regs = d.regs ∧ Quiet d t)
        ∧ (n = 0 → Completes (.fwActivate D b q typ) s fun t => MbxDone t D b 7 [] ∧ t.regs = d.regs ∧ Quiet d t)))
    ∧ (MbxReady d D b 16 → ∀ (en : Word), en.toNat < 16 → en.toNat &&& fld d 0 Reg.DBG_STATUS Fl.DBG_STATUS_FUSED_OFF = 0 →
      Completes (.dbgChallenge D b q en) s fun t => (mbxSt t D b).result = 0 ∧ (mbxSt t D b).busy = false
        ∧ KMap.look 0 (mbxSt t D b).resp 4 = Config.serial (D / 8) ∧ (∃ c, (pkgSt t (D / 8)).chal = some c ∧ c.set = en.toNat ∧ c.sig = []
          ∧ c.at' = nowOf d (crownDie d (D / 8))) ∧ t.regs = d.regs ∧ Quiet d t)
    ∧ (MbxReady d D b 17 → ∀ (s1 s2 s3 s4 s5 s6 : Word) (sig : List Word), sig = [s1, s2, s3, s4, s5, s6] →
      (∀ c, (pkgSt d (D / 8)).chal = some c → Completes (.dbgResponse D b q 0 s1 s2 s3 s4 s5 s6) s fun t => MbxDone t D b 0 []
        ∧ (pkgSt t (D / 8)).chal = some { c with sig := sig } ∧ t.regs = d.regs ∧ Quiet d t)
      ∧ ((pkgSt d (D / 8)).chal = none → Completes (.dbgResponse D b q 1 s1 s2 s3 s4 s5 s6) s fun t => MbxDone t D b 5 [] ∧ Quiet d t
        ∧ fld t 0 Reg.DBG_STATUS Fl.DBG_STATUS_FAILS = min 3 (fld d 0 Reg.DBG_STATUS Fl.DBG_STATUS_FAILS + 1)
        ∧ (2 ≤ fld d 0 Reg.DBG_STATUS Fl.DBG_STATUS_FAILS → flg t 0 Reg.DBG_STATUS Fl.DBG_STATUS_LOCKOUT = true))
      ∧ (∀ c ks, (pkgSt d (D / 8)).chal = some c → c.sig.length = 6 → nowOf d (crownDie d (D / 8)) ≤ c.at' + 10000000000 → ks < 4 →
        Config.ecdsaOk (Config.dbgKey (D / 8) ks) ((c.sig ++ sig).flatMap (fun w => toBytes 8 w.toNat)) (dbgMessage (D / 8) c) = true →
        Completes (.dbgResponse D b q 1 s1 s2 s3 s4 s5 s6) s fun t => MbxDone t D b 0 [] ∧ (pkgSt t (D / 8)).chal = none ∧ Quiet d t
          ∧ (rg t 0 Reg.DBG_STATUS).toNat % 16 = (((rg d 0 Reg.DBG_STATUS).toNat % 16) ||| c.set) % 16))
    ∧ (MbxReady d D b 18 → ∀ (en : Word), en.toNat < 16 → Completes (.dbgClear D b q en) s fun t => MbxDone t D b 0 [] ∧ Quiet d t
        ∧ (rg t 0 Reg.DBG_STATUS).toNat % 16 = ((rg d 0 Reg.DBG_STATUS).toNat % 16) &&& (15 - en.toNat))
    ∧ (∀ (p : Pkg) (k : Ticket) (ok : Bool), (pkgSt d p).tickets.find? (fun x => x.id == k.id && x.state == 0) = some k →
      k.code ≠ 12 → k.code ≠ 9 → ticketRuns d p k = false → Completes (.backgroundCommandEnd p k.id ok) s fun t =>
        (∃ x ∈ (pkgSt t p).tickets, x.id = k.id ∧ x.code = k.code ∧ x.state = (if ok then 1 else 2) ∧ x.result = if ok then 0 else 7)
        ∧ t.regs = d.regs ∧ Quiet d t)
    ∧ (∀ (p : Pkg) (t0 : Nat), (pkgSt d p).ev500At = some t0 → (pkgSt d p).ev500Held = true → t0 + 1000000 ≤ nowOf d (crownDie d p) →
      Completes (.casebackGenerationChanged p) s fun t => Raised t (crownDie d p) 500 ∧ (pkgSt t p).ev500Held = false ∧ t.regs = d.regs
        ∧ Quiet d t)

/-- An endpoint that is up answers control messages: its ID, its UUID, versions, message types and vendors; Set Endpoint ID takes an
ID that is not reserved. One that serves also answers PLDM queries, takes an event receiver, and carries mailbox commands in
vendor-defined messages. A firmware update begins when none is under way, takes its data up to its end, and ends when it is
cancelled or its image does not verify; an applied image is selected for the next reset. SMBus reads give the hottest junction,
the status byte, the package power and VIN, and ENTDAA gives the address. (16_crown.md) -/
def Obligations.ManagementEndpoint : Prop :=
  ∀ (s : State) (p : Pkg), let d := s.dev
    (endpointUp d p = true →
      (∀ (i : Instr) (r : MgmtRsp), (i, r) ∈ [(.getEndpointId p, .eid (pkgSt d p).eid), (.getEndpointUuid p, .uuid (Config.uuid p)),
          (.getMctpVersionSupport p, .versions Config.mctpVersions), (.getMessageTypeSupport p, .types [0x00, 0x01, 0x7E]),
          (.getVendorDefinedMessageSupport p, .vendors [0x1D7A])] →
        Completes i s fun t => r ∈ (pkgSt t p).rsp ∧ t.regs = d.regs ∧ Quiet d t)
      ∧ (∀ e : BitVec 8, e ≠ 0 → e ≠ 0xFF → Completes (.setEndpointId p e) s fun t => (pkgSt t p).eid = e.toNat
        ∧ MgmtRsp.eid e.toNat ∈ (pkgSt t p).rsp ∧ t.regs = d.regs ∧ Quiet d t)
      ∧ (∀ a : BitVec 7, Completes (.entdaa p a) s fun t => (pkgSt t p).i3c = a.toNat ∧ MgmtRsp.address a.toNat ∈ (pkgSt t p).rsp
        ∧ t.regs = d.regs ∧ Quiet d t)
      ∧ ((pkgSt d p).eid ≠ 0 →
        (∀ typ : Fin 4, (pkgSt d p).upd = none → typ ≠ 0 → ticketBusy d p 12 (fun _ => true) = false →
          Completes (.pldmFirmwareUpdate p (.update typ)) s fun t => (pkgSt t p).upd = some (typ.val, [], 0)
            ∧ MgmtRsp.pldm true [] ∈ (pkgSt t p).rsp ∧ t.regs = d.regs ∧ Quiet d t)
        ∧ (∀ typ l (x : List Byte), (pkgSt d p).upd = some (typ, l, 0) →
          ((l ++ x).length ≤ 0x1000200 → Completes (.pldmFirmwareUpdate p (.data x)) s fun t => (pkgSt t p).upd = some (typ, l ++ x, 0))
          ∧ (Completes (.pldmFirmwareUpdate p .transferComplete) s fun t => (pkgSt t p).upd = some (typ, l, 1))
          ∧ (Completes (.pldmFirmwareUpdate p .cancel) s fun t => (pkgSt t p).upd = none ∧ (pkgSt t p).flash = (pkgSt d p).flash))
        ∧ (∀ typ l, (pkgSt d p).upd = some (typ, l, 1) →
          ((imgType l = typ ∧ imageOk d p typ l = true) → Completes (.pldmFirmwareUpdate p .verifyComplete) s fun t =>
            (pkgSt t p).upd = some (typ, l, 2))
          ∧ (imageOk d p typ l = false → Completes (.pldmFirmwareUpdate p .verifyComplete) s fun t => (pkgSt t p).upd = none
            ∧ MgmtRsp.pldm false [] ∈ (pkgSt t p).rsp))
        ∧ (∀ l e n, (pkgSt d p).upd = some (imgType l, l, 2) → n = updateSlot d p (imgType l) → slotPlace d p (imgType l) n = some e →
          imageOk d p (imgType l) l = true → l.length ≤ e.len → Completes (.pldmFirmwareUpdate p .applyComplete) s fun t =>
            (pkgSt t p).upd = none ∧ KMap.look 0 (pkgSt t p).select (imgType l) = n + 1 ∧ flashRead t p e.off l.length = l)))
    ∧ (endpointServes d p = true →
      (∀ (i : Instr) (r : MgmtRsp), ((i, r) ∈ [(.gettid p, .pldm true [Config.pldmTid p]), (.getpldmtypes p, .pldm true [0, 2, 5]),
            (.getpdrrepositoryinfo p, .pldm true [d.cfg.ndie p + 5])]
          ∨ (∃ t : BitVec 8, t.toNat ∈ [0, 2, 5] ∧ (i, r) ∈ [(Instr.getpldmversion p t, MgmtRsp.pldm true [Config.pldmVersion t.toNat]),
            (.getpldmcommands p t, .pldm true (pldmCommands t.toNat))])
          ∨ (∃ t : BitVec 8, t.toNat ∉ [0, 2, 5] ∧ (i, r) ∈ [(Instr.getpldmversion p t, MgmtRsp.pldm false []),
            (.getpldmcommands p t, .pldm false [])])
          ∨ (∃ h : BitVec 32, i = .getpdr p h ∧ r = .pldm true (Config.pldmPdr p h.toNat))
          ∨ (∃ (n : BitVec 16) (v : Nat), sensorValue d p n.toNat = some v ∧ i = .getsensorreading p n ∧ r = .pldm true [v])
          ∨ (∃ (n : BitVec 16), sensorValue d p n.toNat = none ∧ i = .getsensorreading p n ∧ r = .pldm false [])) →
        Completes i s fun t => r ∈ (pkgSt t p).rsp ∧ t.regs = d.regs ∧ Quiet d t)
      ∧ (∀ e : Option (BitVec 8), Completes (.seteventreceiver p e) s fun t => (pkgSt t p).evRecv = e.map BitVec.toNat
        ∧ MgmtRsp.pldm true [] ∈ (pkgSt t p).rsp ∧ t.regs = d.regs ∧ Quiet d t)
      ∧ (∀ (q : BitVec 8) (w : Word), MbxReady d (flashDie d p) .mctp 4 → w.toNat < 2 ^ 16 →
        Completes (.vendorDefinedPciMessage p 4 q [w]) s fun t => MbxDone t (flashDie d p) .mctp 0 []
          ∧ fld t (p * 8) Reg.PKG_LIMIT Fl.PKG_LIMIT_LIMIT_W = w.toNat ∧ MgmtRsp.command 0 [] ∈ (pkgSt t p).rsp ∧ Quiet d t))
    ∧ (∀ (a : BitVec 7), smbusServed d p a.toNat = true → ∀ (i : Instr) (r : MgmtRsp), (i, r) ∈ [(.smbusReadByte p a 0, .byte (hottest d p)),
        (.smbusReadByte p a 1, .byte (b2n (!(pkgSt d p).faults.isEmpty) + 2 * b2n (pkgReserve d p) + 4 * b2n (thermWarning d p))),
        (.smbusReadWord p a 2, .word (pkgField d p Fl.PKG_STATUS_POWER_W)), (.smbusReadWord p a 3, .word (fld d (p * 8) Reg.SUPPLY Fl.SUPPLY_VIN))] →
      Completes i s fun t => r ∈ (pkgSt t p).rsp ∧ t.regs = d.regs ∧ Quiet d t)

/-- VSB power-on, VSB loss and a long RESET_N assertion reset the package; a short one is ignored. RESET_N deasserted samples the
straps at stage 1. An accepted Crown image runs, with none boot stops. The board description, die bring-up, training, fill, loaded
verify, monitor copy and release each carry the package to its next stage with what the step does, or stop boot with their reason;
the confirmation reaches every package, and the wait without it stops boot. A warm reset takes every package to stage 0xB or is
refused, and its completion releases again. PWROK lost returns to stage 2 or, after release, starts Reserve mode. The RTC source
is the pin or the internal oscillator. (18_reset_boot.md) -/
def Obligations.PackageResetsAndBootStages : Prop :=
  ∀ (s : State) (p : Pkg), let d := s.dev
    (0 < d.cfg.ndie p →
      (Completes (.vsbPowerOn p) s fun t => PackageReset d t p 1 ∧ (pkgSt t p).vsb = true)
      ∧ (Completes (.vsbLoss p) s fun t => PackageReset d t p 1 ∧ (pkgSt t p).vsb = false)
      ∧ (∀ ns, (pkgSt d p).vsb = true → 11000 ≤ ns → Completes (.resetNAssertion p ns) s fun t => PackageReset d t p 2
        ∧ (pkgSt t p).vsb = true)
      ∧ (∀ ns, (pkgSt d p).vsb = false ∨ ns < 9000 → Completes (.resetNAssertion p ns) s fun t => t = d)
      ∧ (∀ (master : Bool) (src : Fin 4) (modes : List (Fin 4)), (pkgSt d p).vsb = true → (pkgSt d p).rstn = false →
        Completes (.resetNDeassertion p master src modes) s fun t => (pkgSt t p).rstn = true ∧ AtStage t p 1 ∧ Quiet d t
          ∧ (master = true → t.cfg.master = p.val) ∧ ∀ D ∈ d.cfg.diesOf p, flg t D Reg.STRAPS Fl.STRAPS_MASTER_SEL = master
            ∧ fld t D Reg.STRAPS Fl.STRAPS_PKG_ID = p.val ∧ fld t D Reg.STRAPS Fl.STRAPS_BOOT_SRC = src.val
            ∧ hspMode t D = (modes.getD (D % 8) 3).val))
    ∧ (stage d p = 1 → crownImaged d p = false → fld d (p * 8) Reg.STRAPS Fl.STRAPS_BOOT_SRC ≠ 3 →
      (∀ sl l, acceptedImage d p 1 = some (sl, l) → Completes (.crownImageAcceptance p) s fun t => (crnSt t (flashDie d p)).pc = imgEntry l
        ∧ (crnSt t (flashDie d p)).rom = false ∧ KMap.look none (pkgSt t p).fw 1 = some ⟨imgVersion l, imgSvn l, sl⟩ ∧ t.regs = d.regs
        ∧ Quiet d t)
      ∧ (acceptedImage d p 1 = none → Completes (.crownImageAcceptance p) s fun t => BootStopped t p 1))
    ∧ (∀ bd : BoardDesc, stage d p = 1 → crownImaged d p = true →
      (∀ sb b sl l, acceptedImage d p 3 = some (sb, b) → acceptedImage d p 1 = some (sl, l) →
        (∀ D ∈ d.cfg.diesOf p, ∀ m, (mbxSt d D m).busy = false) → Completes (.boardDescriptionAcceptance p bd) s fun t =>
          AtStage t p 2 ∧ (pkgSt t p).board = some bd ∧ ∀ D ∈ d.cfg.diesOf p, (crnSt t D).rom = false
            ∧ ((crnSt d D).rom = true → (crnSt t D).pc = imgEntry l))
      ∧ (acceptedImage d p 3 = none → Completes (.boardDescriptionAcceptance p bd) s fun t => BootStopped t p 2))
    ∧ (stage d p = 2 → (pkgSt d p).pwrok = true → flg d (p * 8) Reg.SUPPLY Fl.SUPPLY_VIN_OOR = false → (dieSt d (p * 8)).vinOk ≠ none →
      ((pkgSt d p).nv = [] → Completes (.dieBringup p [] []) s fun t => AtStage t p 3 ∧ (pkgSt t p).stepAt = nowOf d (p * 8)
        ∧ ∀ D ∈ d.cfg.diesOf p, rg t D Reg.PHASE_STATUS = phaseWord (List.range 36) ∧ (domState t D 99 = 0 ∨ domState t D 99 = 6))
      ∧ (∀ j : Fin 8, j.val < d.cfg.ndie p → ∀ bad, Completes (.dieBringup p [j] bad) s fun t => BootStopped t p 3))
    ∧ (∀ m r, masters d = m :: r → confirmable d m = true → Completes .masterConfirmation s fun t =>
      ∀ q ∈ packages d, (pkgSt t q).confirmed = true)
    ∧ (∀ wait code, wait = (match (pkgSt d p).board with | some b => max 100 (min 10000 b.reinWait) | none => 1000)
        + (if flg d (p * 8) Reg.STRAPS Fl.STRAPS_MASTER_SEL then 0 else 1000) →
      code = (if (masters d).length ≠ 1 ∨ refusedFor d p 3 = true then 4 else if refusedFor d p 1 then 5 else 6) →
      booting d p = true → (pkgSt d p).confirmed = false → (pkgSt d p).stepAt + wait * 1000000 ≤ nowOf d (p * 8) →
      Completes (.reinWaitTimeout p) s fun t => BootStopped t p code)
    ∧ (∀ x, x = mapLoad p d → stage d p = 3 ∨ stage d p = 4 → (∀ k ∈ pkgPorts d p, portUnset x k = false) →
      (∀ D ∈ d.cfg.diesOf p, ∀ n, n < 6 → physPort d D n / 7 = D) → Completes (.initialTraining p []) s fun t => AtStage t p 5
        ∧ ∀ k ∈ pkgPorts d p, portState t k = (if (lportOf d k).isNone then 7 else 1)
          ∧ fld t (portDie k) (Reg.PORT_STATUS (portNum k)) Fl.PORT_STATUS_RATE_NOW
            = fld x (portDie k) (Reg.PORT_CFG (portNum k)) Fl.PORT_CFG_RATE)
    ∧ (stage d p = 5 → Completes (.fill p) s fun t => AtStage t p 6
        ∧ (∀ D ∈ d.cfg.diesOf p, ∀ k ∈ portsIn d D 1, portState t k = 2 ∧ (portSt t k).allPoison = false
          ∧ flg t (portDie k) (Reg.SCRUB_STATUS (portNum k)) Fl.SCRUB_STATUS_FILLED = true)
        ∧ ∀ a, memByte t a = if p * 2 ^ 40 ≤ a ∧ a < (p + 1) * 2 ^ 40 then 0 else memByte d a)
    ∧ (stage d p = 6 → (∀ D ∈ d.cfg.diesOf p, (portsIn d D 2).length = 6) → Completes (.loadedVerify p []) s fun t => AtStage t p 7
        ∧ ∀ D ∈ d.cfg.diesOf p, ∀ k ∈ portsIn d D 2, portState t k = 3
          ∧ flg t (portDie k) (Reg.PORT_STATUS (portNum k)) Fl.PORT_STATUS_LOADED_TRAINED = true)
    ∧ (packages d ≠ [] → (∀ q ∈ packages d, stage d q = 7 ∧ (pkgSt d q).confirmed = true) →
      (∀ sl l, acceptedImage d d.cfg.master 2 = some (sl, l) → Completes .monitorCopy s fun t => (∀ q ∈ packages d, AtStage t q 8)
        ∧ t.mem = (dramPut (d.cfg.master * 2 ^ 40 + imgLoad l) (imgPayload l) (imageUse d.cfg.master 2 sl l d)).mem)
      ∧ (acceptedImage d d.cfg.master 2 = none → Completes .monitorCopy s fun t => BootStopped t d.cfg.master 8))
    ∧ (packages d ≠ [] → (∀ q ∈ packages d, stage d q = 8 ∧ portsFit d q = true ∧ ∀ D ∈ d.cfg.diesOf q, mapLocked d D = true) →
      Completes .release s fun t => (coreSt t (monitorCore d)).run = true ∧ ∀ q ∈ packages d, AtStage t q 9
        ∧ ∀ D ∈ d.cfg.diesOf q, flg t D Reg.BOOT_STATUS Fl.BOOT_STATUS_RELEASED = true)
    ∧ (∀ D : Die, d.cfg.present D = true → (pkgSt d (D / 8)).warm = false →
      (warmOk d = true → Completes (.warm D) s fun t => ∀ q ∈ packages d, AtStage t q 0xB ∧ (pkgSt t q).warm = true
        ∧ ∀ E ∈ d.cfg.diesOf q, fld t E Reg.BOOT_STATUS Fl.BOOT_STATUS_CAUSE = if q = D / 8 then 3 else 4)
      ∧ (warmOk d = false → Completes (.warm D) s fun t => flg t D Reg.BOOT_STATUS Fl.BOOT_STATUS_WARM_REFUSED = true
        ∧ RegsBut d t [regKey D Reg.BOOT_STATUS] ∧ Quiet d t))
    ∧ (∀ sl l, packages d ≠ [] → (∀ q ∈ packages d, (pkgSt d q).warm = true) → acceptedImage d d.cfg.master 2 = some (sl, l) →
      Completes .warmResetComplete s fun t => (coreSt t (monitorCore d)).run = true ∧ ∀ q ∈ packages d, AtStage t q 9)
    ∧ (Completes (.pwrokAssert p) s fun t => (pkgSt t p).pwrok = true ∧ t.regs = d.regs ∧ Quiet d t)
    ∧ (3 ≤ stage d p → stage d p ≤ 8 → Completes (.pwrokDeassert p) s fun t => (pkgSt t p).pwrok = false ∧ (pkgSt t p).confirmed = false
        ∧ AtStage t p 2)
    ∧ (stage d p = 9 → 0 < d.cfg.ndie p → (pkgSt d p).resv = none → pkgReserve d p = false → Completes (.pwrokDeassert p) s fun t =>
        (pkgSt t p).pwrok = false ∧ (pkgSt t p).resv = some 1 ∧ Quiet d t)
    ∧ (∀ edge : Bool, (pkgSt d p).vsb = true → Completes (.rtc32kSourceDecision p edge) s fun t => Quiet d t
        ∧ ∀ D ∈ d.cfg.diesOf p, flg t D Reg.RTC_CFG Fl.RTC_CFG_RC = !edge)
end

