-- ==== Sys2Proof/Laws/KMap.lean ====
section
/-! SUPPORT. Laws of the sparse maps: what a key reads as after a write, and that every operation keeps the canonical form. -/

namespace Sys2Proof.KMap

variable {α : Type}

theorem look_del_same (d : α) (m : KMap α) (k : Nat) : look d (del m k) k = d := by
  induction m with
  | nil => rfl
  | cons e r ih =>
    simp only [del, List.filter_cons] at ih ⊢
    by_cases h : e.1 = k <;> simp_all [look]

theorem look_del_other (d : α) (m : KMap α) {k j : Nat} (h : j ≠ k) : look d (del m k) j = look d m j := by
  induction m with
  | nil => rfl
  | cons e r ih =>
    simp only [del, List.filter_cons] at ih ⊢
    by_cases hk : e.1 = k
    · have : e.1 ≠ j := fun x => h (x ▸ hk)
      simp_all [look]
    · simp_all [look]

theorem look_ins_same (d : α) (m : KMap α) (k : Nat) (v : α) (h : ∀ e ∈ m, e.1 ≠ k) : look d (ins m k v) k = v := by
  induction m with
  | nil => simp [ins, look]
  | cons e r ih =>
    have he := h e (by simp)
    have := ih (fun x hx => h x (by simp [hx]))
    unfold ins
    split <;> simp_all [look]

theorem look_ins_other (d : α) (m : KMap α) {k j : Nat} (v : α) (h : j ≠ k) : look d (ins m k v) j = look d m j := by
  induction m with
  | nil => simp [ins, look, h.symm]
  | cons e r ih =>
    unfold ins
    split
    · simp [look, h.symm]
    · simp [look, ih]

theorem mem_del {m : KMap α} {k : Nat} {e : Nat × α} : e ∈ del m k ↔ e ∈ m ∧ e.1 ≠ k := by
  simp [del]

variable [DecidableEq α]

/-- A key that was written reads as what was written. -/
@[simp] theorem look_put_same (d : α) (m : KMap α) (k : Nat) (v : α) : look d (put d m k v) k = v := by
  unfold put
  split
  · simp_all [look_del_same]
  · exact look_ins_same d _ k v (fun e he => (mem_del.1 he).2)

/-- Every other key reads as before, whatever the two keys read as when unlisted. -/
theorem look_put_other (d d' : α) (m : KMap α) {k j : Nat} (v : α) (h : j ≠ k) : look d' (put d m k v) j = look d' m j := by
  unfold put
  split
  · exact look_del_other d' m h
  · rw [look_ins_other d' _ v h, look_del_other d' m h]

@[simp] theorem look_modify_same (d : α) (m : KMap α) (k : Nat) (f : α → α) : look d (modify d m k f) k = f (look d m k) := by
  simp [modify]

theorem look_modify_other (d d' : α) (m : KMap α) {k j : Nat} (f : α → α) (h : j ≠ k) :
    look d' (modify d m k f) j = look d' m j := look_put_other d d' m _ h

/-! ### The canonical form -/

theorem wfFrom_mono {df : Nat → α} {m : KMap α} {lo lo' : Nat} (h : lo' ≤ lo) (hw : wfFrom df lo m = true) :
    wfFrom df lo' m = true := by
  cases m with
  | nil => rfl
  | cons e r => simp_all [wfFrom]; omega

theorem wfFrom_filter {df : Nat → α} (p : Nat × α → Bool) {m : KMap α} {lo : Nat} (hw : wfFrom df lo m = true) :
    wfFrom df lo (m.filter p) = true := by
  induction m generalizing lo with
  | nil => rfl
  | cons e r ih =>
    simp only [wfFrom, Bool.and_eq_true, decide_eq_true_eq] at hw
    simp only [List.filter_cons]
    split
    · simp [wfFrom, hw.1.1, hw.1.2, ih hw.2]
    · exact wfFrom_mono (Nat.le_succ_of_le hw.1.1) (ih hw.2)

theorem wfFrom_ins {df : Nat → α} {m : KMap α} {lo k : Nat} {v : α} (hk : lo ≤ k) (hv : v ≠ df k)
    (hn : ∀ e ∈ m, e.1 ≠ k) (hw : wfFrom df lo m = true) : wfFrom df lo (ins m k v) = true := by
  induction m generalizing lo with
  | nil => simp [ins, wfFrom, hk, hv]
  | cons e r ih =>
    have he := hn e (by simp)
    simp only [wfFrom, Bool.and_eq_true, decide_eq_true_eq] at hw
    unfold ins
    split
    · next h => simp [wfFrom, hk, hv, hw.1.2, hw.2]; omega
    · next h => simp [wfFrom, hw.1.1, hw.1.2]; exact ih (by omega) (fun x hx => hn x (by simp [hx])) hw.2

/-- Dropping keys keeps the canonical form. -/
theorem wf_filter {df : Nat → α} (p : Nat × α → Bool) {m : KMap α} (hw : wf df m = true) : wf df (m.filter p) = true :=
  wfFrom_filter p hw

theorem wf_drop {df : Nat → α} (p : Nat → Bool) {m : KMap α} (hw : wf df m = true) : wf df (drop m p) = true :=
  wfFrom_filter _ hw

/-- Writing a key keeps the canonical form. -/
theorem wf_put {df : Nat → α} {m : KMap α} (k : Nat) (v : α) (hw : wf df m = true) : wf df (put (df k) m k v) = true := by
  unfold put
  split
  · exact wfFrom_filter _ hw
  · next h => exact wfFrom_ins (Nat.zero_le k) h (fun e he => (mem_del.1 he).2) (wfFrom_filter _ hw)

theorem wf_modify {df : Nat → α} {m : KMap α} (k : Nat) (f : α → α) (hw : wf df m = true) :
    wf df (modify (df k) m k f) = true := wf_put k _ hw

end Sys2Proof.KMap
end

