-- ==== Sys2Proof/Laws/State.lean ====
section
/-! SUPPORT. One lemma per field of the device and per update: an update changes its own field and no other, and what each unit's
accessor reads after it. -/

namespace Sys2Proof.Machine

open KMap

/-! ### wr -/

@[simp] theorem wr_cfg (D off : Nat) (v : Word) (d : Dev) : (wr D off v d).cfg = d.cfg := rfl
@[simp] theorem wr_freeCtr (D off : Nat) (v : Word) (d : Dev) : (wr D off v d).freeCtr = d.freeCtr := rfl
@[simp] theorem wr_mem (D off : Nat) (v : Word) (d : Dev) : (wr D off v d).mem = d.mem := rfl
@[simp] theorem wr_chk (D off : Nat) (v : Word) (d : Dev) : (wr D off v d).chk = d.chk := rfl
@[simp] theorem wr_dies (D off : Nat) (v : Word) (d : Dev) : (wr D off v d).dies = d.dies := rfl
@[simp] theorem wr_pkgs (D off : Nat) (v : Word) (d : Dev) : (wr D off v d).pkgs = d.pkgs := rfl
@[simp] theorem wr_ports (D off : Nat) (v : Word) (d : Dev) : (wr D off v d).ports = d.ports := rfl
@[simp] theorem wr_homes (D off : Nat) (v : Word) (d : Dev) : (wr D off v d).homes = d.homes := rfl
@[simp] theorem wr_keepers (D off : Nat) (v : Word) (d : Dev) : (wr D off v d).keepers = d.keepers := rfl
@[simp] theorem wr_caches (D off : Nat) (v : Word) (d : Dev) : (wr D off v d).caches = d.caches := rfl
@[simp] theorem wr_cifs (D off : Nat) (v : Word) (d : Dev) : (wr D off v d).cifs = d.cifs := rfl
@[simp] theorem wr_net (D off : Nat) (v : Word) (d : Dev) : (wr D off v d).net = d.net := rfl
@[simp] theorem wr_ext (D off : Nat) (v : Word) (d : Dev) : (wr D off v d).ext = d.ext := rfl
@[simp] theorem wr_cores (D off : Nat) (v : Word) (d : Dev) : (wr D off v d).cores = d.cores := rfl
@[simp] theorem wr_doms (D off : Nat) (v : Word) (d : Dev) : (wr D off v d).doms = d.doms := rfl
@[simp] theorem wr_queues (D off : Nat) (v : Word) (d : Dev) : (wr D off v d).queues = d.queues := rfl
@[simp] theorem wr_qengs (D off : Nat) (v : Word) (d : Dev) : (wr D off v d).qengs = d.qengs := rfl
@[simp] theorem wr_hsps (D off : Nat) (v : Word) (d : Dev) : (wr D off v d).hsps = d.hsps := rfl
@[simp] theorem wr_lnks (D off : Nat) (v : Word) (d : Dev) : (wr D off v d).lnks = d.lnks := rfl
@[simp] theorem wr_brgs (D off : Nat) (v : Word) (d : Dev) : (wr D off v d).brgs = d.brgs := rfl
@[simp] theorem wr_reins (D off : Nat) (v : Word) (d : Dev) : (wr D off v d).reins = d.reins := rfl
@[simp] theorem wr_crns (D off : Nat) (v : Word) (d : Dev) : (wr D off v d).crns = d.crns := rfl
@[simp] theorem dieSt_wr (D off : Nat) (v : Word) (D' : Nat) (d : Dev) : dieSt (wr D off v d) D' = dieSt d D' := rfl
@[simp] theorem pkgSt_wr (D off : Nat) (v : Word) (p' : Nat) (d : Dev) : pkgSt (wr D off v d) p' = pkgSt d p' := rfl
@[simp] theorem portSt_wr (D off : Nat) (v : Word) (k' : Nat) (d : Dev) : portSt (wr D off v d) k' = portSt d k' := rfl
@[simp] theorem homeSt_wr (D off : Nat) (v : Word) (g' : Nat) (d : Dev) : homeSt (wr D off v d) g' = homeSt d g' := rfl
@[simp] theorem keeperSt_wr (D off : Nat) (v : Word) (p' q' : Nat) (d : Dev) : keeperSt (wr D off v d) p' q' = keeperSt d p' q' := rfl
@[simp] theorem cacheSt_wr (D off : Nat) (v : Word) (c' : Nat) (d : Dev) : cacheSt (wr D off v d) c' = cacheSt d c' := rfl
@[simp] theorem cifSt_wr (D off : Nat) (v : Word) (c' : Nat) (n' : Bool) (d : Dev) : cifSt (wr D off v d) c' n' = cifSt d c' n' := rfl
@[simp] theorem coreSt_wr (D off : Nat) (v : Word) (c' : Nat) (d : Dev) : coreSt (wr D off v d) c' = coreSt d c' := rfl
@[simp] theorem domSt_wr (D off : Nat) (v : Word) (D' i' : Nat) (d : Dev) : domSt (wr D off v d) D' i' = domSt d D' i' := rfl
@[simp] theorem queueAt_wr (D off : Nat) (v : Word) (q' : Nat) (d : Dev) : queueAt (wr D off v d) q' = queueAt d q' := rfl
@[simp] theorem qEng_wr (D off : Nat) (v : Word) (e' : Nat) (d : Dev) : qEng (wr D off v d) e' = qEng d e' := rfl
@[simp] theorem hspSt_wr (D off : Nat) (v : Word) (D' : Nat) (d : Dev) : hspSt (wr D off v d) D' = hspSt d D' := rfl
@[simp] theorem lnkSt_wr (D off : Nat) (v : Word) (D' i' : Nat) (d : Dev) : lnkSt (wr D off v d) D' i' = lnkSt d D' i' := rfl
@[simp] theorem brgSt_wr (D off : Nat) (v : Word) (D' b' : Nat) (d : Dev) : brgSt (wr D off v d) D' b' = brgSt d D' b' := rfl
@[simp] theorem reinSt_wr (D off : Nat) (v : Word) (D' : Nat) (d : Dev) : reinSt (wr D off v d) D' = reinSt d D' := rfl
@[simp] theorem crnSt_wr (D off : Nat) (v : Word) (D' : Nat) (d : Dev) : crnSt (wr D off v d) D' = crnSt d D' := rfl
@[simp] theorem memByte_wr (D off : Nat) (v : Word) (a' : Nat) (d : Dev) : memByte (wr D off v d) a' = memByte d a' := rfl

/-! ### updDie -/

@[simp] theorem updDie_cfg (D : Nat) (f : DieSt → DieSt) (d : Dev) : (updDie D f d).cfg = d.cfg := rfl
@[simp] theorem updDie_freeCtr (D : Nat) (f : DieSt → DieSt) (d : Dev) : (updDie D f d).freeCtr = d.freeCtr := rfl
@[simp] theorem updDie_regs (D : Nat) (f : DieSt → DieSt) (d : Dev) : (updDie D f d).regs = d.regs := rfl
@[simp] theorem updDie_mem (D : Nat) (f : DieSt → DieSt) (d : Dev) : (updDie D f d).mem = d.mem := rfl
@[simp] theorem updDie_chk (D : Nat) (f : DieSt → DieSt) (d : Dev) : (updDie D f d).chk = d.chk := rfl
@[simp] theorem updDie_pkgs (D : Nat) (f : DieSt → DieSt) (d : Dev) : (updDie D f d).pkgs = d.pkgs := rfl
@[simp] theorem updDie_ports (D : Nat) (f : DieSt → DieSt) (d : Dev) : (updDie D f d).ports = d.ports := rfl
@[simp] theorem updDie_homes (D : Nat) (f : DieSt → DieSt) (d : Dev) : (updDie D f d).homes = d.homes := rfl
@[simp] theorem updDie_keepers (D : Nat) (f : DieSt → DieSt) (d : Dev) : (updDie D f d).keepers = d.keepers := rfl
@[simp] theorem updDie_caches (D : Nat) (f : DieSt → DieSt) (d : Dev) : (updDie D f d).caches = d.caches := rfl
@[simp] theorem updDie_cifs (D : Nat) (f : DieSt → DieSt) (d : Dev) : (updDie D f d).cifs = d.cifs := rfl
@[simp] theorem updDie_net (D : Nat) (f : DieSt → DieSt) (d : Dev) : (updDie D f d).net = d.net := rfl
@[simp] theorem updDie_ext (D : Nat) (f : DieSt → DieSt) (d : Dev) : (updDie D f d).ext = d.ext := rfl
@[simp] theorem updDie_cores (D : Nat) (f : DieSt → DieSt) (d : Dev) : (updDie D f d).cores = d.cores := rfl
@[simp] theorem updDie_doms (D : Nat) (f : DieSt → DieSt) (d : Dev) : (updDie D f d).doms = d.doms := rfl
@[simp] theorem updDie_queues (D : Nat) (f : DieSt → DieSt) (d : Dev) : (updDie D f d).queues = d.queues := rfl
@[simp] theorem updDie_qengs (D : Nat) (f : DieSt → DieSt) (d : Dev) : (updDie D f d).qengs = d.qengs := rfl
@[simp] theorem updDie_hsps (D : Nat) (f : DieSt → DieSt) (d : Dev) : (updDie D f d).hsps = d.hsps := rfl
@[simp] theorem updDie_lnks (D : Nat) (f : DieSt → DieSt) (d : Dev) : (updDie D f d).lnks = d.lnks := rfl
@[simp] theorem updDie_brgs (D : Nat) (f : DieSt → DieSt) (d : Dev) : (updDie D f d).brgs = d.brgs := rfl
@[simp] theorem updDie_reins (D : Nat) (f : DieSt → DieSt) (d : Dev) : (updDie D f d).reins = d.reins := rfl
@[simp] theorem updDie_crns (D : Nat) (f : DieSt → DieSt) (d : Dev) : (updDie D f d).crns = d.crns := rfl
@[simp] theorem rg_updDie (D : Nat) (f : DieSt → DieSt) (D' off' : Nat) (d : Dev) : rg (updDie D f d) D' off' = rg d D' off' := rfl
@[simp] theorem pkgSt_updDie (D : Nat) (f : DieSt → DieSt) (p' : Nat) (d : Dev) : pkgSt (updDie D f d) p' = pkgSt d p' := rfl
@[simp] theorem portSt_updDie (D : Nat) (f : DieSt → DieSt) (k' : Nat) (d : Dev) : portSt (updDie D f d) k' = portSt d k' := rfl
@[simp] theorem homeSt_updDie (D : Nat) (f : DieSt → DieSt) (g' : Nat) (d : Dev) : homeSt (updDie D f d) g' = homeSt d g' := rfl
@[simp] theorem keeperSt_updDie (D : Nat) (f : DieSt → DieSt) (p' q' : Nat) (d : Dev) : keeperSt (updDie D f d) p' q' = keeperSt d p' q' := rfl
@[simp] theorem cacheSt_updDie (D : Nat) (f : DieSt → DieSt) (c' : Nat) (d : Dev) : cacheSt (updDie D f d) c' = cacheSt d c' := rfl
@[simp] theorem cifSt_updDie (D : Nat) (f : DieSt → DieSt) (c' : Nat) (n' : Bool) (d : Dev) : cifSt (updDie D f d) c' n' = cifSt d c' n' := rfl
@[simp] theorem coreSt_updDie (D : Nat) (f : DieSt → DieSt) (c' : Nat) (d : Dev) : coreSt (updDie D f d) c' = coreSt d c' := rfl
@[simp] theorem domSt_updDie (D : Nat) (f : DieSt → DieSt) (D' i' : Nat) (d : Dev) : domSt (updDie D f d) D' i' = domSt d D' i' := rfl
@[simp] theorem queueAt_updDie (D : Nat) (f : DieSt → DieSt) (q' : Nat) (d : Dev) : queueAt (updDie D f d) q' = queueAt d q' := rfl
@[simp] theorem qEng_updDie (D : Nat) (f : DieSt → DieSt) (e' : Nat) (d : Dev) : qEng (updDie D f d) e' = qEng d e' := rfl
@[simp] theorem hspSt_updDie (D : Nat) (f : DieSt → DieSt) (D' : Nat) (d : Dev) : hspSt (updDie D f d) D' = hspSt d D' := rfl
@[simp] theorem lnkSt_updDie (D : Nat) (f : DieSt → DieSt) (D' i' : Nat) (d : Dev) : lnkSt (updDie D f d) D' i' = lnkSt d D' i' := rfl
@[simp] theorem brgSt_updDie (D : Nat) (f : DieSt → DieSt) (D' b' : Nat) (d : Dev) : brgSt (updDie D f d) D' b' = brgSt d D' b' := rfl
@[simp] theorem reinSt_updDie (D : Nat) (f : DieSt → DieSt) (D' : Nat) (d : Dev) : reinSt (updDie D f d) D' = reinSt d D' := rfl
@[simp] theorem crnSt_updDie (D : Nat) (f : DieSt → DieSt) (D' : Nat) (d : Dev) : crnSt (updDie D f d) D' = crnSt d D' := rfl
@[simp] theorem memByte_updDie (D : Nat) (f : DieSt → DieSt) (a' : Nat) (d : Dev) : memByte (updDie D f d) a' = memByte d a' := rfl

/-! ### updPkg -/

@[simp] theorem updPkg_cfg (p : Nat) (f : PkgSt → PkgSt) (d : Dev) : (updPkg p f d).cfg = d.cfg := rfl
@[simp] theorem updPkg_freeCtr (p : Nat) (f : PkgSt → PkgSt) (d : Dev) : (updPkg p f d).freeCtr = d.freeCtr := rfl
@[simp] theorem updPkg_regs (p : Nat) (f : PkgSt → PkgSt) (d : Dev) : (updPkg p f d).regs = d.regs := rfl
@[simp] theorem updPkg_mem (p : Nat) (f : PkgSt → PkgSt) (d : Dev) : (updPkg p f d).mem = d.mem := rfl
@[simp] theorem updPkg_chk (p : Nat) (f : PkgSt → PkgSt) (d : Dev) : (updPkg p f d).chk = d.chk := rfl
@[simp] theorem updPkg_dies (p : Nat) (f : PkgSt → PkgSt) (d : Dev) : (updPkg p f d).dies = d.dies := rfl
@[simp] theorem updPkg_ports (p : Nat) (f : PkgSt → PkgSt) (d : Dev) : (updPkg p f d).ports = d.ports := rfl
@[simp] theorem updPkg_homes (p : Nat) (f : PkgSt → PkgSt) (d : Dev) : (updPkg p f d).homes = d.homes := rfl
@[simp] theorem updPkg_keepers (p : Nat) (f : PkgSt → PkgSt) (d : Dev) : (updPkg p f d).keepers = d.keepers := rfl
@[simp] theorem updPkg_caches (p : Nat) (f : PkgSt → PkgSt) (d : Dev) : (updPkg p f d).caches = d.caches := rfl
@[simp] theorem updPkg_cifs (p : Nat) (f : PkgSt → PkgSt) (d : Dev) : (updPkg p f d).cifs = d.cifs := rfl
@[simp] theorem updPkg_net (p : Nat) (f : PkgSt → PkgSt) (d : Dev) : (updPkg p f d).net = d.net := rfl
@[simp] theorem updPkg_ext (p : Nat) (f : PkgSt → PkgSt) (d : Dev) : (updPkg p f d).ext = d.ext := rfl
@[simp] theorem updPkg_cores (p : Nat) (f : PkgSt → PkgSt) (d : Dev) : (updPkg p f d).cores = d.cores := rfl
@[simp] theorem updPkg_doms (p : Nat) (f : PkgSt → PkgSt) (d : Dev) : (updPkg p f d).doms = d.doms := rfl
@[simp] theorem updPkg_queues (p : Nat) (f : PkgSt → PkgSt) (d : Dev) : (updPkg p f d).queues = d.queues := rfl
@[simp] theorem updPkg_qengs (p : Nat) (f : PkgSt → PkgSt) (d : Dev) : (updPkg p f d).qengs = d.qengs := rfl
@[simp] theorem updPkg_hsps (p : Nat) (f : PkgSt → PkgSt) (d : Dev) : (updPkg p f d).hsps = d.hsps := rfl
@[simp] theorem updPkg_lnks (p : Nat) (f : PkgSt → PkgSt) (d : Dev) : (updPkg p f d).lnks = d.lnks := rfl
@[simp] theorem updPkg_brgs (p : Nat) (f : PkgSt → PkgSt) (d : Dev) : (updPkg p f d).brgs = d.brgs := rfl
@[simp] theorem updPkg_reins (p : Nat) (f : PkgSt → PkgSt) (d : Dev) : (updPkg p f d).reins = d.reins := rfl
@[simp] theorem updPkg_crns (p : Nat) (f : PkgSt → PkgSt) (d : Dev) : (updPkg p f d).crns = d.crns := rfl
@[simp] theorem rg_updPkg (p : Nat) (f : PkgSt → PkgSt) (D' off' : Nat) (d : Dev) : rg (updPkg p f d) D' off' = rg d D' off' := rfl
@[simp] theorem dieSt_updPkg (p : Nat) (f : PkgSt → PkgSt) (D' : Nat) (d : Dev) : dieSt (updPkg p f d) D' = dieSt d D' := rfl
@[simp] theorem portSt_updPkg (p : Nat) (f : PkgSt → PkgSt) (k' : Nat) (d : Dev) : portSt (updPkg p f d) k' = portSt d k' := rfl
@[simp] theorem homeSt_updPkg (p : Nat) (f : PkgSt → PkgSt) (g' : Nat) (d : Dev) : homeSt (updPkg p f d) g' = homeSt d g' := rfl
@[simp] theorem keeperSt_updPkg (p : Nat) (f : PkgSt → PkgSt) (p' q' : Nat) (d : Dev) : keeperSt (updPkg p f d) p' q' = keeperSt d p' q' := rfl
@[simp] theorem cacheSt_updPkg (p : Nat) (f : PkgSt → PkgSt) (c' : Nat) (d : Dev) : cacheSt (updPkg p f d) c' = cacheSt d c' := rfl
@[simp] theorem cifSt_updPkg (p : Nat) (f : PkgSt → PkgSt) (c' : Nat) (n' : Bool) (d : Dev) : cifSt (updPkg p f d) c' n' = cifSt d c' n' := rfl
@[simp] theorem coreSt_updPkg (p : Nat) (f : PkgSt → PkgSt) (c' : Nat) (d : Dev) : coreSt (updPkg p f d) c' = coreSt d c' := rfl
@[simp] theorem domSt_updPkg (p : Nat) (f : PkgSt → PkgSt) (D' i' : Nat) (d : Dev) : domSt (updPkg p f d) D' i' = domSt d D' i' := rfl
@[simp] theorem queueAt_updPkg (p : Nat) (f : PkgSt → PkgSt) (q' : Nat) (d : Dev) : queueAt (updPkg p f d) q' = queueAt d q' := rfl
@[simp] theorem qEng_updPkg (p : Nat) (f : PkgSt → PkgSt) (e' : Nat) (d : Dev) : qEng (updPkg p f d) e' = qEng d e' := rfl
@[simp] theorem hspSt_updPkg (p : Nat) (f : PkgSt → PkgSt) (D' : Nat) (d : Dev) : hspSt (updPkg p f d) D' = hspSt d D' := rfl
@[simp] theorem lnkSt_updPkg (p : Nat) (f : PkgSt → PkgSt) (D' i' : Nat) (d : Dev) : lnkSt (updPkg p f d) D' i' = lnkSt d D' i' := rfl
@[simp] theorem brgSt_updPkg (p : Nat) (f : PkgSt → PkgSt) (D' b' : Nat) (d : Dev) : brgSt (updPkg p f d) D' b' = brgSt d D' b' := rfl
@[simp] theorem reinSt_updPkg (p : Nat) (f : PkgSt → PkgSt) (D' : Nat) (d : Dev) : reinSt (updPkg p f d) D' = reinSt d D' := rfl
@[simp] theorem crnSt_updPkg (p : Nat) (f : PkgSt → PkgSt) (D' : Nat) (d : Dev) : crnSt (updPkg p f d) D' = crnSt d D' := rfl
@[simp] theorem memByte_updPkg (p : Nat) (f : PkgSt → PkgSt) (a' : Nat) (d : Dev) : memByte (updPkg p f d) a' = memByte d a' := rfl

/-! ### updPort -/

@[simp] theorem updPort_cfg (k : Nat) (f : PortSt → PortSt) (d : Dev) : (updPort k f d).cfg = d.cfg := rfl
@[simp] theorem updPort_freeCtr (k : Nat) (f : PortSt → PortSt) (d : Dev) : (updPort k f d).freeCtr = d.freeCtr := rfl
@[simp] theorem updPort_regs (k : Nat) (f : PortSt → PortSt) (d : Dev) : (updPort k f d).regs = d.regs := rfl
@[simp] theorem updPort_mem (k : Nat) (f : PortSt → PortSt) (d : Dev) : (updPort k f d).mem = d.mem := rfl
@[simp] theorem updPort_chk (k : Nat) (f : PortSt → PortSt) (d : Dev) : (updPort k f d).chk = d.chk := rfl
@[simp] theorem updPort_dies (k : Nat) (f : PortSt → PortSt) (d : Dev) : (updPort k f d).dies = d.dies := rfl
@[simp] theorem updPort_pkgs (k : Nat) (f : PortSt → PortSt) (d : Dev) : (updPort k f d).pkgs = d.pkgs := rfl
@[simp] theorem updPort_homes (k : Nat) (f : PortSt → PortSt) (d : Dev) : (updPort k f d).homes = d.homes := rfl
@[simp] theorem updPort_keepers (k : Nat) (f : PortSt → PortSt) (d : Dev) : (updPort k f d).keepers = d.keepers := rfl
@[simp] theorem updPort_caches (k : Nat) (f : PortSt → PortSt) (d : Dev) : (updPort k f d).caches = d.caches := rfl
@[simp] theorem updPort_cifs (k : Nat) (f : PortSt → PortSt) (d : Dev) : (updPort k f d).cifs = d.cifs := rfl
@[simp] theorem updPort_net (k : Nat) (f : PortSt → PortSt) (d : Dev) : (updPort k f d).net = d.net := rfl
@[simp] theorem updPort_ext (k : Nat) (f : PortSt → PortSt) (d : Dev) : (updPort k f d).ext = d.ext := rfl
@[simp] theorem updPort_cores (k : Nat) (f : PortSt → PortSt) (d : Dev) : (updPort k f d).cores = d.cores := rfl
@[simp] theorem updPort_doms (k : Nat) (f : PortSt → PortSt) (d : Dev) : (updPort k f d).doms = d.doms := rfl
@[simp] theorem updPort_queues (k : Nat) (f : PortSt → PortSt) (d : Dev) : (updPort k f d).queues = d.queues := rfl
@[simp] theorem updPort_qengs (k : Nat) (f : PortSt → PortSt) (d : Dev) : (updPort k f d).qengs = d.qengs := rfl
@[simp] theorem updPort_hsps (k : Nat) (f : PortSt → PortSt) (d : Dev) : (updPort k f d).hsps = d.hsps := rfl
@[simp] theorem updPort_lnks (k : Nat) (f : PortSt → PortSt) (d : Dev) : (updPort k f d).lnks = d.lnks := rfl
@[simp] theorem updPort_brgs (k : Nat) (f : PortSt → PortSt) (d : Dev) : (updPort k f d).brgs = d.brgs := rfl
@[simp] theorem updPort_reins (k : Nat) (f : PortSt → PortSt) (d : Dev) : (updPort k f d).reins = d.reins := rfl
@[simp] theorem updPort_crns (k : Nat) (f : PortSt → PortSt) (d : Dev) : (updPort k f d).crns = d.crns := rfl
@[simp] theorem rg_updPort (k : Nat) (f : PortSt → PortSt) (D' off' : Nat) (d : Dev) : rg (updPort k f d) D' off' = rg d D' off' := rfl
@[simp] theorem dieSt_updPort (k : Nat) (f : PortSt → PortSt) (D' : Nat) (d : Dev) : dieSt (updPort k f d) D' = dieSt d D' := rfl
@[simp] theorem pkgSt_updPort (k : Nat) (f : PortSt → PortSt) (p' : Nat) (d : Dev) : pkgSt (updPort k f d) p' = pkgSt d p' := rfl
@[simp] theorem homeSt_updPort (k : Nat) (f : PortSt → PortSt) (g' : Nat) (d : Dev) : homeSt (updPort k f d) g' = homeSt d g' := rfl
@[simp] theorem keeperSt_updPort (k : Nat) (f : PortSt → PortSt) (p' q' : Nat) (d : Dev) : keeperSt (updPort k f d) p' q' = keeperSt d p' q' := rfl
@[simp] theorem cacheSt_updPort (k : Nat) (f : PortSt → PortSt) (c' : Nat) (d : Dev) : cacheSt (updPort k f d) c' = cacheSt d c' := rfl
@[simp] theorem cifSt_updPort (k : Nat) (f : PortSt → PortSt) (c' : Nat) (n' : Bool) (d : Dev) : cifSt (updPort k f d) c' n' = cifSt d c' n' := rfl
@[simp] theorem coreSt_updPort (k : Nat) (f : PortSt → PortSt) (c' : Nat) (d : Dev) : coreSt (updPort k f d) c' = coreSt d c' := rfl
@[simp] theorem domSt_updPort (k : Nat) (f : PortSt → PortSt) (D' i' : Nat) (d : Dev) : domSt (updPort k f d) D' i' = domSt d D' i' := rfl
@[simp] theorem queueAt_updPort (k : Nat) (f : PortSt → PortSt) (q' : Nat) (d : Dev) : queueAt (updPort k f d) q' = queueAt d q' := rfl
@[simp] theorem qEng_updPort (k : Nat) (f : PortSt → PortSt) (e' : Nat) (d : Dev) : qEng (updPort k f d) e' = qEng d e' := rfl
@[simp] theorem hspSt_updPort (k : Nat) (f : PortSt → PortSt) (D' : Nat) (d : Dev) : hspSt (updPort k f d) D' = hspSt d D' := rfl
@[simp] theorem lnkSt_updPort (k : Nat) (f : PortSt → PortSt) (D' i' : Nat) (d : Dev) : lnkSt (updPort k f d) D' i' = lnkSt d D' i' := rfl
@[simp] theorem brgSt_updPort (k : Nat) (f : PortSt → PortSt) (D' b' : Nat) (d : Dev) : brgSt (updPort k f d) D' b' = brgSt d D' b' := rfl
@[simp] theorem reinSt_updPort (k : Nat) (f : PortSt → PortSt) (D' : Nat) (d : Dev) : reinSt (updPort k f d) D' = reinSt d D' := rfl
@[simp] theorem crnSt_updPort (k : Nat) (f : PortSt → PortSt) (D' : Nat) (d : Dev) : crnSt (updPort k f d) D' = crnSt d D' := rfl
@[simp] theorem memByte_updPort (k : Nat) (f : PortSt → PortSt) (a' : Nat) (d : Dev) : memByte (updPort k f d) a' = memByte d a' := rfl

/-! ### updHome -/

@[simp] theorem updHome_cfg (g : Nat) (f : HomeSt → HomeSt) (d : Dev) : (updHome g f d).cfg = d.cfg := rfl
@[simp] theorem updHome_freeCtr (g : Nat) (f : HomeSt → HomeSt) (d : Dev) : (updHome g f d).freeCtr = d.freeCtr := rfl
@[simp] theorem updHome_regs (g : Nat) (f : HomeSt → HomeSt) (d : Dev) : (updHome g f d).regs = d.regs := rfl
@[simp] theorem updHome_mem (g : Nat) (f : HomeSt → HomeSt) (d : Dev) : (updHome g f d).mem = d.mem := rfl
@[simp] theorem updHome_chk (g : Nat) (f : HomeSt → HomeSt) (d : Dev) : (updHome g f d).chk = d.chk := rfl
@[simp] theorem updHome_dies (g : Nat) (f : HomeSt → HomeSt) (d : Dev) : (updHome g f d).dies = d.dies := rfl
@[simp] theorem updHome_pkgs (g : Nat) (f : HomeSt → HomeSt) (d : Dev) : (updHome g f d).pkgs = d.pkgs := rfl
@[simp] theorem updHome_ports (g : Nat) (f : HomeSt → HomeSt) (d : Dev) : (updHome g f d).ports = d.ports := rfl
@[simp] theorem updHome_keepers (g : Nat) (f : HomeSt → HomeSt) (d : Dev) : (updHome g f d).keepers = d.keepers := rfl
@[simp] theorem updHome_caches (g : Nat) (f : HomeSt → HomeSt) (d : Dev) : (updHome g f d).caches = d.caches := rfl
@[simp] theorem updHome_cifs (g : Nat) (f : HomeSt → HomeSt) (d : Dev) : (updHome g f d).cifs = d.cifs := rfl
@[simp] theorem updHome_net (g : Nat) (f : HomeSt → HomeSt) (d : Dev) : (updHome g f d).net = d.net := rfl
@[simp] theorem updHome_ext (g : Nat) (f : HomeSt → HomeSt) (d : Dev) : (updHome g f d).ext = d.ext := rfl
@[simp] theorem updHome_cores (g : Nat) (f : HomeSt → HomeSt) (d : Dev) : (updHome g f d).cores = d.cores := rfl
@[simp] theorem updHome_doms (g : Nat) (f : HomeSt → HomeSt) (d : Dev) : (updHome g f d).doms = d.doms := rfl
@[simp] theorem updHome_queues (g : Nat) (f : HomeSt → HomeSt) (d : Dev) : (updHome g f d).queues = d.queues := rfl
@[simp] theorem updHome_qengs (g : Nat) (f : HomeSt → HomeSt) (d : Dev) : (updHome g f d).qengs = d.qengs := rfl
@[simp] theorem updHome_hsps (g : Nat) (f : HomeSt → HomeSt) (d : Dev) : (updHome g f d).hsps = d.hsps := rfl
@[simp] theorem updHome_lnks (g : Nat) (f : HomeSt → HomeSt) (d : Dev) : (updHome g f d).lnks = d.lnks := rfl
@[simp] theorem updHome_brgs (g : Nat) (f : HomeSt → HomeSt) (d : Dev) : (updHome g f d).brgs = d.brgs := rfl
@[simp] theorem updHome_reins (g : Nat) (f : HomeSt → HomeSt) (d : Dev) : (updHome g f d).reins = d.reins := rfl
@[simp] theorem updHome_crns (g : Nat) (f : HomeSt → HomeSt) (d : Dev) : (updHome g f d).crns = d.crns := rfl
@[simp] theorem rg_updHome (g : Nat) (f : HomeSt → HomeSt) (D' off' : Nat) (d : Dev) : rg (updHome g f d) D' off' = rg d D' off' := rfl
@[simp] theorem dieSt_updHome (g : Nat) (f : HomeSt → HomeSt) (D' : Nat) (d : Dev) : dieSt (updHome g f d) D' = dieSt d D' := rfl
@[simp] theorem pkgSt_updHome (g : Nat) (f : HomeSt → HomeSt) (p' : Nat) (d : Dev) : pkgSt (updHome g f d) p' = pkgSt d p' := rfl
@[simp] theorem portSt_updHome (g : Nat) (f : HomeSt → HomeSt) (k' : Nat) (d : Dev) : portSt (updHome g f d) k' = portSt d k' := rfl
@[simp] theorem keeperSt_updHome (g : Nat) (f : HomeSt → HomeSt) (p' q' : Nat) (d : Dev) : keeperSt (updHome g f d) p' q' = keeperSt d p' q' := rfl
@[simp] theorem cacheSt_updHome (g : Nat) (f : HomeSt → HomeSt) (c' : Nat) (d : Dev) : cacheSt (updHome g f d) c' = cacheSt d c' := rfl
@[simp] theorem cifSt_updHome (g : Nat) (f : HomeSt → HomeSt) (c' : Nat) (n' : Bool) (d : Dev) : cifSt (updHome g f d) c' n' = cifSt d c' n' := rfl
@[simp] theorem coreSt_updHome (g : Nat) (f : HomeSt → HomeSt) (c' : Nat) (d : Dev) : coreSt (updHome g f d) c' = coreSt d c' := rfl
@[simp] theorem domSt_updHome (g : Nat) (f : HomeSt → HomeSt) (D' i' : Nat) (d : Dev) : domSt (updHome g f d) D' i' = domSt d D' i' := rfl
@[simp] theorem queueAt_updHome (g : Nat) (f : HomeSt → HomeSt) (q' : Nat) (d : Dev) : queueAt (updHome g f d) q' = queueAt d q' := rfl
@[simp] theorem qEng_updHome (g : Nat) (f : HomeSt → HomeSt) (e' : Nat) (d : Dev) : qEng (updHome g f d) e' = qEng d e' := rfl
@[simp] theorem hspSt_updHome (g : Nat) (f : HomeSt → HomeSt) (D' : Nat) (d : Dev) : hspSt (updHome g f d) D' = hspSt d D' := rfl
@[simp] theorem lnkSt_updHome (g : Nat) (f : HomeSt → HomeSt) (D' i' : Nat) (d : Dev) : lnkSt (updHome g f d) D' i' = lnkSt d D' i' := rfl
@[simp] theorem brgSt_updHome (g : Nat) (f : HomeSt → HomeSt) (D' b' : Nat) (d : Dev) : brgSt (updHome g f d) D' b' = brgSt d D' b' := rfl
@[simp] theorem reinSt_updHome (g : Nat) (f : HomeSt → HomeSt) (D' : Nat) (d : Dev) : reinSt (updHome g f d) D' = reinSt d D' := rfl
@[simp] theorem crnSt_updHome (g : Nat) (f : HomeSt → HomeSt) (D' : Nat) (d : Dev) : crnSt (updHome g f d) D' = crnSt d D' := rfl
@[simp] theorem memByte_updHome (g : Nat) (f : HomeSt → HomeSt) (a' : Nat) (d : Dev) : memByte (updHome g f d) a' = memByte d a' := rfl

/-! ### updKeeper -/

@[simp] theorem updKeeper_cfg (p q : Nat) (f : KeeperSt → KeeperSt) (d : Dev) : (updKeeper p q f d).cfg = d.cfg := rfl
@[simp] theorem updKeeper_freeCtr (p q : Nat) (f : KeeperSt → KeeperSt) (d : Dev) : (updKeeper p q f d).freeCtr = d.freeCtr := rfl
@[simp] theorem updKeeper_regs (p q : Nat) (f : KeeperSt → KeeperSt) (d : Dev) : (updKeeper p q f d).regs = d.regs := rfl
@[simp] theorem updKeeper_mem (p q : Nat) (f : KeeperSt → KeeperSt) (d : Dev) : (updKeeper p q f d).mem = d.mem := rfl
@[simp] theorem updKeeper_chk (p q : Nat) (f : KeeperSt → KeeperSt) (d : Dev) : (updKeeper p q f d).chk = d.chk := rfl
@[simp] theorem updKeeper_dies (p q : Nat) (f : KeeperSt → KeeperSt) (d : Dev) : (updKeeper p q f d).dies = d.dies := rfl
@[simp] theorem updKeeper_pkgs (p q : Nat) (f : KeeperSt → KeeperSt) (d : Dev) : (updKeeper p q f d).pkgs = d.pkgs := rfl
@[simp] theorem updKeeper_ports (p q : Nat) (f : KeeperSt → KeeperSt) (d : Dev) : (updKeeper p q f d).ports = d.ports := rfl
@[simp] theorem updKeeper_homes (p q : Nat) (f : KeeperSt → KeeperSt) (d : Dev) : (updKeeper p q f d).homes = d.homes := rfl
@[simp] theorem updKeeper_caches (p q : Nat) (f : KeeperSt → KeeperSt) (d : Dev) : (updKeeper p q f d).caches = d.caches := rfl
@[simp] theorem updKeeper_cifs (p q : Nat) (f : KeeperSt → KeeperSt) (d : Dev) : (updKeeper p q f d).cifs = d.cifs := rfl
@[simp] theorem updKeeper_net (p q : Nat) (f : KeeperSt → KeeperSt) (d : Dev) : (updKeeper p q f d).net = d.net := rfl
@[simp] theorem updKeeper_ext (p q : Nat) (f : KeeperSt → KeeperSt) (d : Dev) : (updKeeper p q f d).ext = d.ext := rfl
@[simp] theorem updKeeper_cores (p q : Nat) (f : KeeperSt → KeeperSt) (d : Dev) : (updKeeper p q f d).cores = d.cores := rfl
@[simp] theorem updKeeper_doms (p q : Nat) (f : KeeperSt → KeeperSt) (d : Dev) : (updKeeper p q f d).doms = d.doms := rfl
@[simp] theorem updKeeper_queues (p q : Nat) (f : KeeperSt → KeeperSt) (d : Dev) : (updKeeper p q f d).queues = d.queues := rfl
@[simp] theorem updKeeper_qengs (p q : Nat) (f : KeeperSt → KeeperSt) (d : Dev) : (updKeeper p q f d).qengs = d.qengs := rfl
@[simp] theorem updKeeper_hsps (p q : Nat) (f : KeeperSt → KeeperSt) (d : Dev) : (updKeeper p q f d).hsps = d.hsps := rfl
@[simp] theorem updKeeper_lnks (p q : Nat) (f : KeeperSt → KeeperSt) (d : Dev) : (updKeeper p q f d).lnks = d.lnks := rfl
@[simp] theorem updKeeper_brgs (p q : Nat) (f : KeeperSt → KeeperSt) (d : Dev) : (updKeeper p q f d).brgs = d.brgs := rfl
@[simp] theorem updKeeper_reins (p q : Nat) (f : KeeperSt → KeeperSt) (d : Dev) : (updKeeper p q f d).reins = d.reins := rfl
@[simp] theorem updKeeper_crns (p q : Nat) (f : KeeperSt → KeeperSt) (d : Dev) : (updKeeper p q f d).crns = d.crns := rfl
@[simp] theorem rg_updKeeper (p q : Nat) (f : KeeperSt → KeeperSt) (D' off' : Nat) (d : Dev) : rg (updKeeper p q f d) D' off' = rg d D' off' := rfl
@[simp] theorem dieSt_updKeeper (p q : Nat) (f : KeeperSt → KeeperSt) (D' : Nat) (d : Dev) : dieSt (updKeeper p q f d) D' = dieSt d D' := rfl
@[simp] theorem pkgSt_updKeeper (p q : Nat) (f : KeeperSt → KeeperSt) (p' : Nat) (d : Dev) : pkgSt (updKeeper p q f d) p' = pkgSt d p' := rfl
@[simp] theorem portSt_updKeeper (p q : Nat) (f : KeeperSt → KeeperSt) (k' : Nat) (d : Dev) : portSt (updKeeper p q f d) k' = portSt d k' := rfl
@[simp] theorem homeSt_updKeeper (p q : Nat) (f : KeeperSt → KeeperSt) (g' : Nat) (d : Dev) : homeSt (updKeeper p q f d) g' = homeSt d g' := rfl
@[simp] theorem cacheSt_updKeeper (p q : Nat) (f : KeeperSt → KeeperSt) (c' : Nat) (d : Dev) : cacheSt (updKeeper p q f d) c' = cacheSt d c' := rfl
@[simp] theorem cifSt_updKeeper (p q : Nat) (f : KeeperSt → KeeperSt) (c' : Nat) (n' : Bool) (d : Dev) : cifSt (updKeeper p q f d) c' n' = cifSt d c' n' := rfl
@[simp] theorem coreSt_updKeeper (p q : Nat) (f : KeeperSt → KeeperSt) (c' : Nat) (d : Dev) : coreSt (updKeeper p q f d) c' = coreSt d c' := rfl
@[simp] theorem domSt_updKeeper (p q : Nat) (f : KeeperSt → KeeperSt) (D' i' : Nat) (d : Dev) : domSt (updKeeper p q f d) D' i' = domSt d D' i' := rfl
@[simp] theorem queueAt_updKeeper (p q : Nat) (f : KeeperSt → KeeperSt) (q' : Nat) (d : Dev) : queueAt (updKeeper p q f d) q' = queueAt d q' := rfl
@[simp] theorem qEng_updKeeper (p q : Nat) (f : KeeperSt → KeeperSt) (e' : Nat) (d : Dev) : qEng (updKeeper p q f d) e' = qEng d e' := rfl
@[simp] theorem hspSt_updKeeper (p q : Nat) (f : KeeperSt → KeeperSt) (D' : Nat) (d : Dev) : hspSt (updKeeper p q f d) D' = hspSt d D' := rfl
@[simp] theorem lnkSt_updKeeper (p q : Nat) (f : KeeperSt → KeeperSt) (D' i' : Nat) (d : Dev) : lnkSt (updKeeper p q f d) D' i' = lnkSt d D' i' := rfl
@[simp] theorem brgSt_updKeeper (p q : Nat) (f : KeeperSt → KeeperSt) (D' b' : Nat) (d : Dev) : brgSt (updKeeper p q f d) D' b' = brgSt d D' b' := rfl
@[simp] theorem reinSt_updKeeper (p q : Nat) (f : KeeperSt → KeeperSt) (D' : Nat) (d : Dev) : reinSt (updKeeper p q f d) D' = reinSt d D' := rfl
@[simp] theorem crnSt_updKeeper (p q : Nat) (f : KeeperSt → KeeperSt) (D' : Nat) (d : Dev) : crnSt (updKeeper p q f d) D' = crnSt d D' := rfl
@[simp] theorem memByte_updKeeper (p q : Nat) (f : KeeperSt → KeeperSt) (a' : Nat) (d : Dev) : memByte (updKeeper p q f d) a' = memByte d a' := rfl

/-! ### updCache -/

@[simp] theorem updCache_cfg (c : Nat) (f : CacheSt → CacheSt) (d : Dev) : (updCache c f d).cfg = d.cfg := rfl
@[simp] theorem updCache_freeCtr (c : Nat) (f : CacheSt → CacheSt) (d : Dev) : (updCache c f d).freeCtr = d.freeCtr := rfl
@[simp] theorem updCache_regs (c : Nat) (f : CacheSt → CacheSt) (d : Dev) : (updCache c f d).regs = d.regs := rfl
@[simp] theorem updCache_mem (c : Nat) (f : CacheSt → CacheSt) (d : Dev) : (updCache c f d).mem = d.mem := rfl
@[simp] theorem updCache_chk (c : Nat) (f : CacheSt → CacheSt) (d : Dev) : (updCache c f d).chk = d.chk := rfl
@[simp] theorem updCache_dies (c : Nat) (f : CacheSt → CacheSt) (d : Dev) : (updCache c f d).dies = d.dies := rfl
@[simp] theorem updCache_pkgs (c : Nat) (f : CacheSt → CacheSt) (d : Dev) : (updCache c f d).pkgs = d.pkgs := rfl
@[simp] theorem updCache_ports (c : Nat) (f : CacheSt → CacheSt) (d : Dev) : (updCache c f d).ports = d.ports := rfl
@[simp] theorem updCache_homes (c : Nat) (f : CacheSt → CacheSt) (d : Dev) : (updCache c f d).homes = d.homes := rfl
@[simp] theorem updCache_keepers (c : Nat) (f : CacheSt → CacheSt) (d : Dev) : (updCache c f d).keepers = d.keepers := rfl
@[simp] theorem updCache_cifs (c : Nat) (f : CacheSt → CacheSt) (d : Dev) : (updCache c f d).cifs = d.cifs := rfl
@[simp] theorem updCache_net (c : Nat) (f : CacheSt → CacheSt) (d : Dev) : (updCache c f d).net = d.net := rfl
@[simp] theorem updCache_ext (c : Nat) (f : CacheSt → CacheSt) (d : Dev) : (updCache c f d).ext = d.ext := rfl
@[simp] theorem updCache_cores (c : Nat) (f : CacheSt → CacheSt) (d : Dev) : (updCache c f d).cores = d.cores := rfl
@[simp] theorem updCache_doms (c : Nat) (f : CacheSt → CacheSt) (d : Dev) : (updCache c f d).doms = d.doms := rfl
@[simp] theorem updCache_queues (c : Nat) (f : CacheSt → CacheSt) (d : Dev) : (updCache c f d).queues = d.queues := rfl
@[simp] theorem updCache_qengs (c : Nat) (f : CacheSt → CacheSt) (d : Dev) : (updCache c f d).qengs = d.qengs := rfl
@[simp] theorem updCache_hsps (c : Nat) (f : CacheSt → CacheSt) (d : Dev) : (updCache c f d).hsps = d.hsps := rfl
@[simp] theorem updCache_lnks (c : Nat) (f : CacheSt → CacheSt) (d : Dev) : (updCache c f d).lnks = d.lnks := rfl
@[simp] theorem updCache_brgs (c : Nat) (f : CacheSt → CacheSt) (d : Dev) : (updCache c f d).brgs = d.brgs := rfl
@[simp] theorem updCache_reins (c : Nat) (f : CacheSt → CacheSt) (d : Dev) : (updCache c f d).reins = d.reins := rfl
@[simp] theorem updCache_crns (c : Nat) (f : CacheSt → CacheSt) (d : Dev) : (updCache c f d).crns = d.crns := rfl
@[simp] theorem rg_updCache (c : Nat) (f : CacheSt → CacheSt) (D' off' : Nat) (d : Dev) : rg (updCache c f d) D' off' = rg d D' off' := rfl
@[simp] theorem dieSt_updCache (c : Nat) (f : CacheSt → CacheSt) (D' : Nat) (d : Dev) : dieSt (updCache c f d) D' = dieSt d D' := rfl
@[simp] theorem pkgSt_updCache (c : Nat) (f : CacheSt → CacheSt) (p' : Nat) (d : Dev) : pkgSt (updCache c f d) p' = pkgSt d p' := rfl
@[simp] theorem portSt_updCache (c : Nat) (f : CacheSt → CacheSt) (k' : Nat) (d : Dev) : portSt (updCache c f d) k' = portSt d k' := rfl
@[simp] theorem homeSt_updCache (c : Nat) (f : CacheSt → CacheSt) (g' : Nat) (d : Dev) : homeSt (updCache c f d) g' = homeSt d g' := rfl
@[simp] theorem keeperSt_updCache (c : Nat) (f : CacheSt → CacheSt) (p' q' : Nat) (d : Dev) : keeperSt (updCache c f d) p' q' = keeperSt d p' q' := rfl
@[simp] theorem cifSt_updCache (c : Nat) (f : CacheSt → CacheSt) (c' : Nat) (n' : Bool) (d : Dev) : cifSt (updCache c f d) c' n' = cifSt d c' n' := rfl
@[simp] theorem coreSt_updCache (c : Nat) (f : CacheSt → CacheSt) (c' : Nat) (d : Dev) : coreSt (updCache c f d) c' = coreSt d c' := rfl
@[simp] theorem domSt_updCache (c : Nat) (f : CacheSt → CacheSt) (D' i' : Nat) (d : Dev) : domSt (updCache c f d) D' i' = domSt d D' i' := rfl
@[simp] theorem queueAt_updCache (c : Nat) (f : CacheSt → CacheSt) (q' : Nat) (d : Dev) : queueAt (updCache c f d) q' = queueAt d q' := rfl
@[simp] theorem qEng_updCache (c : Nat) (f : CacheSt → CacheSt) (e' : Nat) (d : Dev) : qEng (updCache c f d) e' = qEng d e' := rfl
@[simp] theorem hspSt_updCache (c : Nat) (f : CacheSt → CacheSt) (D' : Nat) (d : Dev) : hspSt (updCache c f d) D' = hspSt d D' := rfl
@[simp] theorem lnkSt_updCache (c : Nat) (f : CacheSt → CacheSt) (D' i' : Nat) (d : Dev) : lnkSt (updCache c f d) D' i' = lnkSt d D' i' := rfl
@[simp] theorem brgSt_updCache (c : Nat) (f : CacheSt → CacheSt) (D' b' : Nat) (d : Dev) : brgSt (updCache c f d) D' b' = brgSt d D' b' := rfl
@[simp] theorem reinSt_updCache (c : Nat) (f : CacheSt → CacheSt) (D' : Nat) (d : Dev) : reinSt (updCache c f d) D' = reinSt d D' := rfl
@[simp] theorem crnSt_updCache (c : Nat) (f : CacheSt → CacheSt) (D' : Nat) (d : Dev) : crnSt (updCache c f d) D' = crnSt d D' := rfl
@[simp] theorem memByte_updCache (c : Nat) (f : CacheSt → CacheSt) (a' : Nat) (d : Dev) : memByte (updCache c f d) a' = memByte d a' := rfl

/-! ### updCif -/

@[simp] theorem updCif_cfg (c : Nat) (ns : Bool) (f : CifSt → CifSt) (d : Dev) : (updCif c ns f d).cfg = d.cfg := rfl
@[simp] theorem updCif_freeCtr (c : Nat) (ns : Bool) (f : CifSt → CifSt) (d : Dev) : (updCif c ns f d).freeCtr = d.freeCtr := rfl
@[simp] theorem updCif_regs (c : Nat) (ns : Bool) (f : CifSt → CifSt) (d : Dev) : (updCif c ns f d).regs = d.regs := rfl
@[simp] theorem updCif_mem (c : Nat) (ns : Bool) (f : CifSt → CifSt) (d : Dev) : (updCif c ns f d).mem = d.mem := rfl
@[simp] theorem updCif_chk (c : Nat) (ns : Bool) (f : CifSt → CifSt) (d : Dev) : (updCif c ns f d).chk = d.chk := rfl
@[simp] theorem updCif_dies (c : Nat) (ns : Bool) (f : CifSt → CifSt) (d : Dev) : (updCif c ns f d).dies = d.dies := rfl
@[simp] theorem updCif_pkgs (c : Nat) (ns : Bool) (f : CifSt → CifSt) (d : Dev) : (updCif c ns f d).pkgs = d.pkgs := rfl
@[simp] theorem updCif_ports (c : Nat) (ns : Bool) (f : CifSt → CifSt) (d : Dev) : (updCif c ns f d).ports = d.ports := rfl
@[simp] theorem updCif_homes (c : Nat) (ns : Bool) (f : CifSt → CifSt) (d : Dev) : (updCif c ns f d).homes = d.homes := rfl
@[simp] theorem updCif_keepers (c : Nat) (ns : Bool) (f : CifSt → CifSt) (d : Dev) : (updCif c ns f d).keepers = d.keepers := rfl
@[simp] theorem updCif_caches (c : Nat) (ns : Bool) (f : CifSt → CifSt) (d : Dev) : (updCif c ns f d).caches = d.caches := rfl
@[simp] theorem updCif_net (c : Nat) (ns : Bool) (f : CifSt → CifSt) (d : Dev) : (updCif c ns f d).net = d.net := rfl
@[simp] theorem updCif_ext (c : Nat) (ns : Bool) (f : CifSt → CifSt) (d : Dev) : (updCif c ns f d).ext = d.ext := rfl
@[simp] theorem updCif_cores (c : Nat) (ns : Bool) (f : CifSt → CifSt) (d : Dev) : (updCif c ns f d).cores = d.cores := rfl
@[simp] theorem updCif_doms (c : Nat) (ns : Bool) (f : CifSt → CifSt) (d : Dev) : (updCif c ns f d).doms = d.doms := rfl
@[simp] theorem updCif_queues (c : Nat) (ns : Bool) (f : CifSt → CifSt) (d : Dev) : (updCif c ns f d).queues = d.queues := rfl
@[simp] theorem updCif_qengs (c : Nat) (ns : Bool) (f : CifSt → CifSt) (d : Dev) : (updCif c ns f d).qengs = d.qengs := rfl
@[simp] theorem updCif_hsps (c : Nat) (ns : Bool) (f : CifSt → CifSt) (d : Dev) : (updCif c ns f d).hsps = d.hsps := rfl
@[simp] theorem updCif_lnks (c : Nat) (ns : Bool) (f : CifSt → CifSt) (d : Dev) : (updCif c ns f d).lnks = d.lnks := rfl
@[simp] theorem updCif_brgs (c : Nat) (ns : Bool) (f : CifSt → CifSt) (d : Dev) : (updCif c ns f d).brgs = d.brgs := rfl
@[simp] theorem updCif_reins (c : Nat) (ns : Bool) (f : CifSt → CifSt) (d : Dev) : (updCif c ns f d).reins = d.reins := rfl
@[simp] theorem updCif_crns (c : Nat) (ns : Bool) (f : CifSt → CifSt) (d : Dev) : (updCif c ns f d).crns = d.crns := rfl
@[simp] theorem rg_updCif (c : Nat) (ns : Bool) (f : CifSt → CifSt) (D' off' : Nat) (d : Dev) : rg (updCif c ns f d) D' off' = rg d D' off' := rfl
@[simp] theorem dieSt_updCif (c : Nat) (ns : Bool) (f : CifSt → CifSt) (D' : Nat) (d : Dev) : dieSt (updCif c ns f d) D' = dieSt d D' := rfl
@[simp] theorem pkgSt_updCif (c : Nat) (ns : Bool) (f : CifSt → CifSt) (p' : Nat) (d : Dev) : pkgSt (updCif c ns f d) p' = pkgSt d p' := rfl
@[simp] theorem portSt_updCif (c : Nat) (ns : Bool) (f : CifSt → CifSt) (k' : Nat) (d : Dev) : portSt (updCif c ns f d) k' = portSt d k' := rfl
@[simp] theorem homeSt_updCif (c : Nat) (ns : Bool) (f : CifSt → CifSt) (g' : Nat) (d : Dev) : homeSt (updCif c ns f d) g' = homeSt d g' := rfl
@[simp] theorem keeperSt_updCif (c : Nat) (ns : Bool) (f : CifSt → CifSt) (p' q' : Nat) (d : Dev) : keeperSt (updCif c ns f d) p' q' = keeperSt d p' q' := rfl
@[simp] theorem cacheSt_updCif (c : Nat) (ns : Bool) (f : CifSt → CifSt) (c' : Nat) (d : Dev) : cacheSt (updCif c ns f d) c' = cacheSt d c' := rfl
@[simp] theorem coreSt_updCif (c : Nat) (ns : Bool) (f : CifSt → CifSt) (c' : Nat) (d : Dev) : coreSt (updCif c ns f d) c' = coreSt d c' := rfl
@[simp] theorem domSt_updCif (c : Nat) (ns : Bool) (f : CifSt → CifSt) (D' i' : Nat) (d : Dev) : domSt (updCif c ns f d) D' i' = domSt d D' i' := rfl
@[simp] theorem queueAt_updCif (c : Nat) (ns : Bool) (f : CifSt → CifSt) (q' : Nat) (d : Dev) : queueAt (updCif c ns f d) q' = queueAt d q' := rfl
@[simp] theorem qEng_updCif (c : Nat) (ns : Bool) (f : CifSt → CifSt) (e' : Nat) (d : Dev) : qEng (updCif c ns f d) e' = qEng d e' := rfl
@[simp] theorem hspSt_updCif (c : Nat) (ns : Bool) (f : CifSt → CifSt) (D' : Nat) (d : Dev) : hspSt (updCif c ns f d) D' = hspSt d D' := rfl
@[simp] theorem lnkSt_updCif (c : Nat) (ns : Bool) (f : CifSt → CifSt) (D' i' : Nat) (d : Dev) : lnkSt (updCif c ns f d) D' i' = lnkSt d D' i' := rfl
@[simp] theorem brgSt_updCif (c : Nat) (ns : Bool) (f : CifSt → CifSt) (D' b' : Nat) (d : Dev) : brgSt (updCif c ns f d) D' b' = brgSt d D' b' := rfl
@[simp] theorem reinSt_updCif (c : Nat) (ns : Bool) (f : CifSt → CifSt) (D' : Nat) (d : Dev) : reinSt (updCif c ns f d) D' = reinSt d D' := rfl
@[simp] theorem crnSt_updCif (c : Nat) (ns : Bool) (f : CifSt → CifSt) (D' : Nat) (d : Dev) : crnSt (updCif c ns f d) D' = crnSt d D' := rfl
@[simp] theorem memByte_updCif (c : Nat) (ns : Bool) (f : CifSt → CifSt) (a' : Nat) (d : Dev) : memByte (updCif c ns f d) a' = memByte d a' := rfl

/-! ### updCore -/

@[simp] theorem updCore_cfg (c : Nat) (f : CoreSt → CoreSt) (d : Dev) : (updCore c f d).cfg = d.cfg := rfl
@[simp] theorem updCore_freeCtr (c : Nat) (f : CoreSt → CoreSt) (d : Dev) : (updCore c f d).freeCtr = d.freeCtr := rfl
@[simp] theorem updCore_regs (c : Nat) (f : CoreSt → CoreSt) (d : Dev) : (updCore c f d).regs = d.regs := rfl
@[simp] theorem updCore_mem (c : Nat) (f : CoreSt → CoreSt) (d : Dev) : (updCore c f d).mem = d.mem := rfl
@[simp] theorem updCore_chk (c : Nat) (f : CoreSt → CoreSt) (d : Dev) : (updCore c f d).chk = d.chk := rfl
@[simp] theorem updCore_dies (c : Nat) (f : CoreSt → CoreSt) (d : Dev) : (updCore c f d).dies = d.dies := rfl
@[simp] theorem updCore_pkgs (c : Nat) (f : CoreSt → CoreSt) (d : Dev) : (updCore c f d).pkgs = d.pkgs := rfl
@[simp] theorem updCore_ports (c : Nat) (f : CoreSt → CoreSt) (d : Dev) : (updCore c f d).ports = d.ports := rfl
@[simp] theorem updCore_homes (c : Nat) (f : CoreSt → CoreSt) (d : Dev) : (updCore c f d).homes = d.homes := rfl
@[simp] theorem updCore_keepers (c : Nat) (f : CoreSt → CoreSt) (d : Dev) : (updCore c f d).keepers = d.keepers := rfl
@[simp] theorem updCore_caches (c : Nat) (f : CoreSt → CoreSt) (d : Dev) : (updCore c f d).caches = d.caches := rfl
@[simp] theorem updCore_cifs (c : Nat) (f : CoreSt → CoreSt) (d : Dev) : (updCore c f d).cifs = d.cifs := rfl
@[simp] theorem updCore_net (c : Nat) (f : CoreSt → CoreSt) (d : Dev) : (updCore c f d).net = d.net := rfl
@[simp] theorem updCore_ext (c : Nat) (f : CoreSt → CoreSt) (d : Dev) : (updCore c f d).ext = d.ext := rfl
@[simp] theorem updCore_doms (c : Nat) (f : CoreSt → CoreSt) (d : Dev) : (updCore c f d).doms = d.doms := rfl
@[simp] theorem updCore_queues (c : Nat) (f : CoreSt → CoreSt) (d : Dev) : (updCore c f d).queues = d.queues := rfl
@[simp] theorem updCore_qengs (c : Nat) (f : CoreSt → CoreSt) (d : Dev) : (updCore c f d).qengs = d.qengs := rfl
@[simp] theorem updCore_hsps (c : Nat) (f : CoreSt → CoreSt) (d : Dev) : (updCore c f d).hsps = d.hsps := rfl
@[simp] theorem updCore_lnks (c : Nat) (f : CoreSt → CoreSt) (d : Dev) : (updCore c f d).lnks = d.lnks := rfl
@[simp] theorem updCore_brgs (c : Nat) (f : CoreSt → CoreSt) (d : Dev) : (updCore c f d).brgs = d.brgs := rfl
@[simp] theorem updCore_reins (c : Nat) (f : CoreSt → CoreSt) (d : Dev) : (updCore c f d).reins = d.reins := rfl
@[simp] theorem updCore_crns (c : Nat) (f : CoreSt → CoreSt) (d : Dev) : (updCore c f d).crns = d.crns := rfl
@[simp] theorem rg_updCore (c : Nat) (f : CoreSt → CoreSt) (D' off' : Nat) (d : Dev) : rg (updCore c f d) D' off' = rg d D' off' := rfl
@[simp] theorem dieSt_updCore (c : Nat) (f : CoreSt → CoreSt) (D' : Nat) (d : Dev) : dieSt (updCore c f d) D' = dieSt d D' := rfl
@[simp] theorem pkgSt_updCore (c : Nat) (f : CoreSt → CoreSt) (p' : Nat) (d : Dev) : pkgSt (updCore c f d) p' = pkgSt d p' := rfl
@[simp] theorem portSt_updCore (c : Nat) (f : CoreSt → CoreSt) (k' : Nat) (d : Dev) : portSt (updCore c f d) k' = portSt d k' := rfl
@[simp] theorem homeSt_updCore (c : Nat) (f : CoreSt → CoreSt) (g' : Nat) (d : Dev) : homeSt (updCore c f d) g' = homeSt d g' := rfl
@[simp] theorem keeperSt_updCore (c : Nat) (f : CoreSt → CoreSt) (p' q' : Nat) (d : Dev) : keeperSt (updCore c f d) p' q' = keeperSt d p' q' := rfl
@[simp] theorem cacheSt_updCore (c : Nat) (f : CoreSt → CoreSt) (c' : Nat) (d : Dev) : cacheSt (updCore c f d) c' = cacheSt d c' := rfl
@[simp] theorem cifSt_updCore (c : Nat) (f : CoreSt → CoreSt) (c' : Nat) (n' : Bool) (d : Dev) : cifSt (updCore c f d) c' n' = cifSt d c' n' := rfl
@[simp] theorem domSt_updCore (c : Nat) (f : CoreSt → CoreSt) (D' i' : Nat) (d : Dev) : domSt (updCore c f d) D' i' = domSt d D' i' := rfl
@[simp] theorem queueAt_updCore (c : Nat) (f : CoreSt → CoreSt) (q' : Nat) (d : Dev) : queueAt (updCore c f d) q' = queueAt d q' := rfl
@[simp] theorem qEng_updCore (c : Nat) (f : CoreSt → CoreSt) (e' : Nat) (d : Dev) : qEng (updCore c f d) e' = qEng d e' := rfl
@[simp] theorem hspSt_updCore (c : Nat) (f : CoreSt → CoreSt) (D' : Nat) (d : Dev) : hspSt (updCore c f d) D' = hspSt d D' := rfl
@[simp] theorem lnkSt_updCore (c : Nat) (f : CoreSt → CoreSt) (D' i' : Nat) (d : Dev) : lnkSt (updCore c f d) D' i' = lnkSt d D' i' := rfl
@[simp] theorem brgSt_updCore (c : Nat) (f : CoreSt → CoreSt) (D' b' : Nat) (d : Dev) : brgSt (updCore c f d) D' b' = brgSt d D' b' := rfl
@[simp] theorem reinSt_updCore (c : Nat) (f : CoreSt → CoreSt) (D' : Nat) (d : Dev) : reinSt (updCore c f d) D' = reinSt d D' := rfl
@[simp] theorem crnSt_updCore (c : Nat) (f : CoreSt → CoreSt) (D' : Nat) (d : Dev) : crnSt (updCore c f d) D' = crnSt d D' := rfl
@[simp] theorem memByte_updCore (c : Nat) (f : CoreSt → CoreSt) (a' : Nat) (d : Dev) : memByte (updCore c f d) a' = memByte d a' := rfl

/-! ### updDom -/

@[simp] theorem updDom_cfg (D i : Nat) (f : DomSt → DomSt) (d : Dev) : (updDom D i f d).cfg = d.cfg := rfl
@[simp] theorem updDom_freeCtr (D i : Nat) (f : DomSt → DomSt) (d : Dev) : (updDom D i f d).freeCtr = d.freeCtr := rfl
@[simp] theorem updDom_regs (D i : Nat) (f : DomSt → DomSt) (d : Dev) : (updDom D i f d).regs = d.regs := rfl
@[simp] theorem updDom_mem (D i : Nat) (f : DomSt → DomSt) (d : Dev) : (updDom D i f d).mem = d.mem := rfl
@[simp] theorem updDom_chk (D i : Nat) (f : DomSt → DomSt) (d : Dev) : (updDom D i f d).chk = d.chk := rfl
@[simp] theorem updDom_dies (D i : Nat) (f : DomSt → DomSt) (d : Dev) : (updDom D i f d).dies = d.dies := rfl
@[simp] theorem updDom_pkgs (D i : Nat) (f : DomSt → DomSt) (d : Dev) : (updDom D i f d).pkgs = d.pkgs := rfl
@[simp] theorem updDom_ports (D i : Nat) (f : DomSt → DomSt) (d : Dev) : (updDom D i f d).ports = d.ports := rfl
@[simp] theorem updDom_homes (D i : Nat) (f : DomSt → DomSt) (d : Dev) : (updDom D i f d).homes = d.homes := rfl
@[simp] theorem updDom_keepers (D i : Nat) (f : DomSt → DomSt) (d : Dev) : (updDom D i f d).keepers = d.keepers := rfl
@[simp] theorem updDom_caches (D i : Nat) (f : DomSt → DomSt) (d : Dev) : (updDom D i f d).caches = d.caches := rfl
@[simp] theorem updDom_cifs (D i : Nat) (f : DomSt → DomSt) (d : Dev) : (updDom D i f d).cifs = d.cifs := rfl
@[simp] theorem updDom_net (D i : Nat) (f : DomSt → DomSt) (d : Dev) : (updDom D i f d).net = d.net := rfl
@[simp] theorem updDom_ext (D i : Nat) (f : DomSt → DomSt) (d : Dev) : (updDom D i f d).ext = d.ext := rfl
@[simp] theorem updDom_cores (D i : Nat) (f : DomSt → DomSt) (d : Dev) : (updDom D i f d).cores = d.cores := rfl
@[simp] theorem updDom_queues (D i : Nat) (f : DomSt → DomSt) (d : Dev) : (updDom D i f d).queues = d.queues := rfl
@[simp] theorem updDom_qengs (D i : Nat) (f : DomSt → DomSt) (d : Dev) : (updDom D i f d).qengs = d.qengs := rfl
@[simp] theorem updDom_hsps (D i : Nat) (f : DomSt → DomSt) (d : Dev) : (updDom D i f d).hsps = d.hsps := rfl
@[simp] theorem updDom_lnks (D i : Nat) (f : DomSt → DomSt) (d : Dev) : (updDom D i f d).lnks = d.lnks := rfl
@[simp] theorem updDom_brgs (D i : Nat) (f : DomSt → DomSt) (d : Dev) : (updDom D i f d).brgs = d.brgs := rfl
@[simp] theorem updDom_reins (D i : Nat) (f : DomSt → DomSt) (d : Dev) : (updDom D i f d).reins = d.reins := rfl
@[simp] theorem updDom_crns (D i : Nat) (f : DomSt → DomSt) (d : Dev) : (updDom D i f d).crns = d.crns := rfl
@[simp] theorem rg_updDom (D i : Nat) (f : DomSt → DomSt) (D' off' : Nat) (d : Dev) : rg (updDom D i f d) D' off' = rg d D' off' := rfl
@[simp] theorem dieSt_updDom (D i : Nat) (f : DomSt → DomSt) (D' : Nat) (d : Dev) : dieSt (updDom D i f d) D' = dieSt d D' := rfl
@[simp] theorem pkgSt_updDom (D i : Nat) (f : DomSt → DomSt) (p' : Nat) (d : Dev) : pkgSt (updDom D i f d) p' = pkgSt d p' := rfl
@[simp] theorem portSt_updDom (D i : Nat) (f : DomSt → DomSt) (k' : Nat) (d : Dev) : portSt (updDom D i f d) k' = portSt d k' := rfl
@[simp] theorem homeSt_updDom (D i : Nat) (f : DomSt → DomSt) (g' : Nat) (d : Dev) : homeSt (updDom D i f d) g' = homeSt d g' := rfl
@[simp] theorem keeperSt_updDom (D i : Nat) (f : DomSt → DomSt) (p' q' : Nat) (d : Dev) : keeperSt (updDom D i f d) p' q' = keeperSt d p' q' := rfl
@[simp] theorem cacheSt_updDom (D i : Nat) (f : DomSt → DomSt) (c' : Nat) (d : Dev) : cacheSt (updDom D i f d) c' = cacheSt d c' := rfl
@[simp] theorem cifSt_updDom (D i : Nat) (f : DomSt → DomSt) (c' : Nat) (n' : Bool) (d : Dev) : cifSt (updDom D i f d) c' n' = cifSt d c' n' := rfl
@[simp] theorem coreSt_updDom (D i : Nat) (f : DomSt → DomSt) (c' : Nat) (d : Dev) : coreSt (updDom D i f d) c' = coreSt d c' := rfl
@[simp] theorem queueAt_updDom (D i : Nat) (f : DomSt → DomSt) (q' : Nat) (d : Dev) : queueAt (updDom D i f d) q' = queueAt d q' := rfl
@[simp] theorem qEng_updDom (D i : Nat) (f : DomSt → DomSt) (e' : Nat) (d : Dev) : qEng (updDom D i f d) e' = qEng d e' := rfl
@[simp] theorem hspSt_updDom (D i : Nat) (f : DomSt → DomSt) (D' : Nat) (d : Dev) : hspSt (updDom D i f d) D' = hspSt d D' := rfl
@[simp] theorem lnkSt_updDom (D i : Nat) (f : DomSt → DomSt) (D' i' : Nat) (d : Dev) : lnkSt (updDom D i f d) D' i' = lnkSt d D' i' := rfl
@[simp] theorem brgSt_updDom (D i : Nat) (f : DomSt → DomSt) (D' b' : Nat) (d : Dev) : brgSt (updDom D i f d) D' b' = brgSt d D' b' := rfl
@[simp] theorem reinSt_updDom (D i : Nat) (f : DomSt → DomSt) (D' : Nat) (d : Dev) : reinSt (updDom D i f d) D' = reinSt d D' := rfl
@[simp] theorem crnSt_updDom (D i : Nat) (f : DomSt → DomSt) (D' : Nat) (d : Dev) : crnSt (updDom D i f d) D' = crnSt d D' := rfl
@[simp] theorem memByte_updDom (D i : Nat) (f : DomSt → DomSt) (a' : Nat) (d : Dev) : memByte (updDom D i f d) a' = memByte d a' := rfl

/-! ### updQueue -/

@[simp] theorem updQueue_cfg (q : Nat) (f : QueueSt → QueueSt) (d : Dev) : (updQueue q f d).cfg = d.cfg := rfl
@[simp] theorem updQueue_freeCtr (q : Nat) (f : QueueSt → QueueSt) (d : Dev) : (updQueue q f d).freeCtr = d.freeCtr := rfl
@[simp] theorem updQueue_regs (q : Nat) (f : QueueSt → QueueSt) (d : Dev) : (updQueue q f d).regs = d.regs := rfl
@[simp] theorem updQueue_mem (q : Nat) (f : QueueSt → QueueSt) (d : Dev) : (updQueue q f d).mem = d.mem := rfl
@[simp] theorem updQueue_chk (q : Nat) (f : QueueSt → QueueSt) (d : Dev) : (updQueue q f d).chk = d.chk := rfl
@[simp] theorem updQueue_dies (q : Nat) (f : QueueSt → QueueSt) (d : Dev) : (updQueue q f d).dies = d.dies := rfl
@[simp] theorem updQueue_pkgs (q : Nat) (f : QueueSt → QueueSt) (d : Dev) : (updQueue q f d).pkgs = d.pkgs := rfl
@[simp] theorem updQueue_ports (q : Nat) (f : QueueSt → QueueSt) (d : Dev) : (updQueue q f d).ports = d.ports := rfl
@[simp] theorem updQueue_homes (q : Nat) (f : QueueSt → QueueSt) (d : Dev) : (updQueue q f d).homes = d.homes := rfl
@[simp] theorem updQueue_keepers (q : Nat) (f : QueueSt → QueueSt) (d : Dev) : (updQueue q f d).keepers = d.keepers := rfl
@[simp] theorem updQueue_caches (q : Nat) (f : QueueSt → QueueSt) (d : Dev) : (updQueue q f d).caches = d.caches := rfl
@[simp] theorem updQueue_cifs (q : Nat) (f : QueueSt → QueueSt) (d : Dev) : (updQueue q f d).cifs = d.cifs := rfl
@[simp] theorem updQueue_net (q : Nat) (f : QueueSt → QueueSt) (d : Dev) : (updQueue q f d).net = d.net := rfl
@[simp] theorem updQueue_ext (q : Nat) (f : QueueSt → QueueSt) (d : Dev) : (updQueue q f d).ext = d.ext := rfl
@[simp] theorem updQueue_cores (q : Nat) (f : QueueSt → QueueSt) (d : Dev) : (updQueue q f d).cores = d.cores := rfl
@[simp] theorem updQueue_doms (q : Nat) (f : QueueSt → QueueSt) (d : Dev) : (updQueue q f d).doms = d.doms := rfl
@[simp] theorem updQueue_qengs (q : Nat) (f : QueueSt → QueueSt) (d : Dev) : (updQueue q f d).qengs = d.qengs := rfl
@[simp] theorem updQueue_hsps (q : Nat) (f : QueueSt → QueueSt) (d : Dev) : (updQueue q f d).hsps = d.hsps := rfl
@[simp] theorem updQueue_lnks (q : Nat) (f : QueueSt → QueueSt) (d : Dev) : (updQueue q f d).lnks = d.lnks := rfl
@[simp] theorem updQueue_brgs (q : Nat) (f : QueueSt → QueueSt) (d : Dev) : (updQueue q f d).brgs = d.brgs := rfl
@[simp] theorem updQueue_reins (q : Nat) (f : QueueSt → QueueSt) (d : Dev) : (updQueue q f d).reins = d.reins := rfl
@[simp] theorem updQueue_crns (q : Nat) (f : QueueSt → QueueSt) (d : Dev) : (updQueue q f d).crns = d.crns := rfl
@[simp] theorem rg_updQueue (q : Nat) (f : QueueSt → QueueSt) (D' off' : Nat) (d : Dev) : rg (updQueue q f d) D' off' = rg d D' off' := rfl
@[simp] theorem dieSt_updQueue (q : Nat) (f : QueueSt → QueueSt) (D' : Nat) (d : Dev) : dieSt (updQueue q f d) D' = dieSt d D' := rfl
@[simp] theorem pkgSt_updQueue (q : Nat) (f : QueueSt → QueueSt) (p' : Nat) (d : Dev) : pkgSt (updQueue q f d) p' = pkgSt d p' := rfl
@[simp] theorem portSt_updQueue (q : Nat) (f : QueueSt → QueueSt) (k' : Nat) (d : Dev) : portSt (updQueue q f d) k' = portSt d k' := rfl
@[simp] theorem homeSt_updQueue (q : Nat) (f : QueueSt → QueueSt) (g' : Nat) (d : Dev) : homeSt (updQueue q f d) g' = homeSt d g' := rfl
@[simp] theorem keeperSt_updQueue (q : Nat) (f : QueueSt → QueueSt) (p' q' : Nat) (d : Dev) : keeperSt (updQueue q f d) p' q' = keeperSt d p' q' := rfl
@[simp] theorem cacheSt_updQueue (q : Nat) (f : QueueSt → QueueSt) (c' : Nat) (d : Dev) : cacheSt (updQueue q f d) c' = cacheSt d c' := rfl
@[simp] theorem cifSt_updQueue (q : Nat) (f : QueueSt → QueueSt) (c' : Nat) (n' : Bool) (d : Dev) : cifSt (updQueue q f d) c' n' = cifSt d c' n' := rfl
@[simp] theorem coreSt_updQueue (q : Nat) (f : QueueSt → QueueSt) (c' : Nat) (d : Dev) : coreSt (updQueue q f d) c' = coreSt d c' := rfl
@[simp] theorem domSt_updQueue (q : Nat) (f : QueueSt → QueueSt) (D' i' : Nat) (d : Dev) : domSt (updQueue q f d) D' i' = domSt d D' i' := rfl
@[simp] theorem qEng_updQueue (q : Nat) (f : QueueSt → QueueSt) (e' : Nat) (d : Dev) : qEng (updQueue q f d) e' = qEng d e' := rfl
@[simp] theorem hspSt_updQueue (q : Nat) (f : QueueSt → QueueSt) (D' : Nat) (d : Dev) : hspSt (updQueue q f d) D' = hspSt d D' := rfl
@[simp] theorem lnkSt_updQueue (q : Nat) (f : QueueSt → QueueSt) (D' i' : Nat) (d : Dev) : lnkSt (updQueue q f d) D' i' = lnkSt d D' i' := rfl
@[simp] theorem brgSt_updQueue (q : Nat) (f : QueueSt → QueueSt) (D' b' : Nat) (d : Dev) : brgSt (updQueue q f d) D' b' = brgSt d D' b' := rfl
@[simp] theorem reinSt_updQueue (q : Nat) (f : QueueSt → QueueSt) (D' : Nat) (d : Dev) : reinSt (updQueue q f d) D' = reinSt d D' := rfl
@[simp] theorem crnSt_updQueue (q : Nat) (f : QueueSt → QueueSt) (D' : Nat) (d : Dev) : crnSt (updQueue q f d) D' = crnSt d D' := rfl
@[simp] theorem memByte_updQueue (q : Nat) (f : QueueSt → QueueSt) (a' : Nat) (d : Dev) : memByte (updQueue q f d) a' = memByte d a' := rfl

/-! ### updQEng -/

@[simp] theorem updQEng_cfg (e : Nat) (f : QEngSt → QEngSt) (d : Dev) : (updQEng e f d).cfg = d.cfg := rfl
@[simp] theorem updQEng_freeCtr (e : Nat) (f : QEngSt → QEngSt) (d : Dev) : (updQEng e f d).freeCtr = d.freeCtr := rfl
@[simp] theorem updQEng_regs (e : Nat) (f : QEngSt → QEngSt) (d : Dev) : (updQEng e f d).regs = d.regs := rfl
@[simp] theorem updQEng_mem (e : Nat) (f : QEngSt → QEngSt) (d : Dev) : (updQEng e f d).mem = d.mem := rfl
@[simp] theorem updQEng_chk (e : Nat) (f : QEngSt → QEngSt) (d : Dev) : (updQEng e f d).chk = d.chk := rfl
@[simp] theorem updQEng_dies (e : Nat) (f : QEngSt → QEngSt) (d : Dev) : (updQEng e f d).dies = d.dies := rfl
@[simp] theorem updQEng_pkgs (e : Nat) (f : QEngSt → QEngSt) (d : Dev) : (updQEng e f d).pkgs = d.pkgs := rfl
@[simp] theorem updQEng_ports (e : Nat) (f : QEngSt → QEngSt) (d : Dev) : (updQEng e f d).ports = d.ports := rfl
@[simp] theorem updQEng_homes (e : Nat) (f : QEngSt → QEngSt) (d : Dev) : (updQEng e f d).homes = d.homes := rfl
@[simp] theorem updQEng_keepers (e : Nat) (f : QEngSt → QEngSt) (d : Dev) : (updQEng e f d).keepers = d.keepers := rfl
@[simp] theorem updQEng_caches (e : Nat) (f : QEngSt → QEngSt) (d : Dev) : (updQEng e f d).caches = d.caches := rfl
@[simp] theorem updQEng_cifs (e : Nat) (f : QEngSt → QEngSt) (d : Dev) : (updQEng e f d).cifs = d.cifs := rfl
@[simp] theorem updQEng_net (e : Nat) (f : QEngSt → QEngSt) (d : Dev) : (updQEng e f d).net = d.net := rfl
@[simp] theorem updQEng_ext (e : Nat) (f : QEngSt → QEngSt) (d : Dev) : (updQEng e f d).ext = d.ext := rfl
@[simp] theorem updQEng_cores (e : Nat) (f : QEngSt → QEngSt) (d : Dev) : (updQEng e f d).cores = d.cores := rfl
@[simp] theorem updQEng_doms (e : Nat) (f : QEngSt → QEngSt) (d : Dev) : (updQEng e f d).doms = d.doms := rfl
@[simp] theorem updQEng_queues (e : Nat) (f : QEngSt → QEngSt) (d : Dev) : (updQEng e f d).queues = d.queues := rfl
@[simp] theorem updQEng_hsps (e : Nat) (f : QEngSt → QEngSt) (d : Dev) : (updQEng e f d).hsps = d.hsps := rfl
@[simp] theorem updQEng_lnks (e : Nat) (f : QEngSt → QEngSt) (d : Dev) : (updQEng e f d).lnks = d.lnks := rfl
@[simp] theorem updQEng_brgs (e : Nat) (f : QEngSt → QEngSt) (d : Dev) : (updQEng e f d).brgs = d.brgs := rfl
@[simp] theorem updQEng_reins (e : Nat) (f : QEngSt → QEngSt) (d : Dev) : (updQEng e f d).reins = d.reins := rfl
@[simp] theorem updQEng_crns (e : Nat) (f : QEngSt → QEngSt) (d : Dev) : (updQEng e f d).crns = d.crns := rfl
@[simp] theorem rg_updQEng (e : Nat) (f : QEngSt → QEngSt) (D' off' : Nat) (d : Dev) : rg (updQEng e f d) D' off' = rg d D' off' := rfl
@[simp] theorem dieSt_updQEng (e : Nat) (f : QEngSt → QEngSt) (D' : Nat) (d : Dev) : dieSt (updQEng e f d) D' = dieSt d D' := rfl
@[simp] theorem pkgSt_updQEng (e : Nat) (f : QEngSt → QEngSt) (p' : Nat) (d : Dev) : pkgSt (updQEng e f d) p' = pkgSt d p' := rfl
@[simp] theorem portSt_updQEng (e : Nat) (f : QEngSt → QEngSt) (k' : Nat) (d : Dev) : portSt (updQEng e f d) k' = portSt d k' := rfl
@[simp] theorem homeSt_updQEng (e : Nat) (f : QEngSt → QEngSt) (g' : Nat) (d : Dev) : homeSt (updQEng e f d) g' = homeSt d g' := rfl
@[simp] theorem keeperSt_updQEng (e : Nat) (f : QEngSt → QEngSt) (p' q' : Nat) (d : Dev) : keeperSt (updQEng e f d) p' q' = keeperSt d p' q' := rfl
@[simp] theorem cacheSt_updQEng (e : Nat) (f : QEngSt → QEngSt) (c' : Nat) (d : Dev) : cacheSt (updQEng e f d) c' = cacheSt d c' := rfl
@[simp] theorem cifSt_updQEng (e : Nat) (f : QEngSt → QEngSt) (c' : Nat) (n' : Bool) (d : Dev) : cifSt (updQEng e f d) c' n' = cifSt d c' n' := rfl
@[simp] theorem coreSt_updQEng (e : Nat) (f : QEngSt → QEngSt) (c' : Nat) (d : Dev) : coreSt (updQEng e f d) c' = coreSt d c' := rfl
@[simp] theorem domSt_updQEng (e : Nat) (f : QEngSt → QEngSt) (D' i' : Nat) (d : Dev) : domSt (updQEng e f d) D' i' = domSt d D' i' := rfl
@[simp] theorem queueAt_updQEng (e : Nat) (f : QEngSt → QEngSt) (q' : Nat) (d : Dev) : queueAt (updQEng e f d) q' = queueAt d q' := rfl
@[simp] theorem hspSt_updQEng (e : Nat) (f : QEngSt → QEngSt) (D' : Nat) (d : Dev) : hspSt (updQEng e f d) D' = hspSt d D' := rfl
@[simp] theorem lnkSt_updQEng (e : Nat) (f : QEngSt → QEngSt) (D' i' : Nat) (d : Dev) : lnkSt (updQEng e f d) D' i' = lnkSt d D' i' := rfl
@[simp] theorem brgSt_updQEng (e : Nat) (f : QEngSt → QEngSt) (D' b' : Nat) (d : Dev) : brgSt (updQEng e f d) D' b' = brgSt d D' b' := rfl
@[simp] theorem reinSt_updQEng (e : Nat) (f : QEngSt → QEngSt) (D' : Nat) (d : Dev) : reinSt (updQEng e f d) D' = reinSt d D' := rfl
@[simp] theorem crnSt_updQEng (e : Nat) (f : QEngSt → QEngSt) (D' : Nat) (d : Dev) : crnSt (updQEng e f d) D' = crnSt d D' := rfl
@[simp] theorem memByte_updQEng (e : Nat) (f : QEngSt → QEngSt) (a' : Nat) (d : Dev) : memByte (updQEng e f d) a' = memByte d a' := rfl

/-! ### updHsp -/

@[simp] theorem updHsp_cfg (D : Nat) (f : HspSt → HspSt) (d : Dev) : (updHsp D f d).cfg = d.cfg := rfl
@[simp] theorem updHsp_freeCtr (D : Nat) (f : HspSt → HspSt) (d : Dev) : (updHsp D f d).freeCtr = d.freeCtr := rfl
@[simp] theorem updHsp_regs (D : Nat) (f : HspSt → HspSt) (d : Dev) : (updHsp D f d).regs = d.regs := rfl
@[simp] theorem updHsp_mem (D : Nat) (f : HspSt → HspSt) (d : Dev) : (updHsp D f d).mem = d.mem := rfl
@[simp] theorem updHsp_chk (D : Nat) (f : HspSt → HspSt) (d : Dev) : (updHsp D f d).chk = d.chk := rfl
@[simp] theorem updHsp_dies (D : Nat) (f : HspSt → HspSt) (d : Dev) : (updHsp D f d).dies = d.dies := rfl
@[simp] theorem updHsp_pkgs (D : Nat) (f : HspSt → HspSt) (d : Dev) : (updHsp D f d).pkgs = d.pkgs := rfl
@[simp] theorem updHsp_ports (D : Nat) (f : HspSt → HspSt) (d : Dev) : (updHsp D f d).ports = d.ports := rfl
@[simp] theorem updHsp_homes (D : Nat) (f : HspSt → HspSt) (d : Dev) : (updHsp D f d).homes = d.homes := rfl
@[simp] theorem updHsp_keepers (D : Nat) (f : HspSt → HspSt) (d : Dev) : (updHsp D f d).keepers = d.keepers := rfl
@[simp] theorem updHsp_caches (D : Nat) (f : HspSt → HspSt) (d : Dev) : (updHsp D f d).caches = d.caches := rfl
@[simp] theorem updHsp_cifs (D : Nat) (f : HspSt → HspSt) (d : Dev) : (updHsp D f d).cifs = d.cifs := rfl
@[simp] theorem updHsp_net (D : Nat) (f : HspSt → HspSt) (d : Dev) : (updHsp D f d).net = d.net := rfl
@[simp] theorem updHsp_ext (D : Nat) (f : HspSt → HspSt) (d : Dev) : (updHsp D f d).ext = d.ext := rfl
@[simp] theorem updHsp_cores (D : Nat) (f : HspSt → HspSt) (d : Dev) : (updHsp D f d).cores = d.cores := rfl
@[simp] theorem updHsp_doms (D : Nat) (f : HspSt → HspSt) (d : Dev) : (updHsp D f d).doms = d.doms := rfl
@[simp] theorem updHsp_queues (D : Nat) (f : HspSt → HspSt) (d : Dev) : (updHsp D f d).queues = d.queues := rfl
@[simp] theorem updHsp_qengs (D : Nat) (f : HspSt → HspSt) (d : Dev) : (updHsp D f d).qengs = d.qengs := rfl
@[simp] theorem updHsp_lnks (D : Nat) (f : HspSt → HspSt) (d : Dev) : (updHsp D f d).lnks = d.lnks := rfl
@[simp] theorem updHsp_brgs (D : Nat) (f : HspSt → HspSt) (d : Dev) : (updHsp D f d).brgs = d.brgs := rfl
@[simp] theorem updHsp_reins (D : Nat) (f : HspSt → HspSt) (d : Dev) : (updHsp D f d).reins = d.reins := rfl
@[simp] theorem updHsp_crns (D : Nat) (f : HspSt → HspSt) (d : Dev) : (updHsp D f d).crns = d.crns := rfl
@[simp] theorem rg_updHsp (D : Nat) (f : HspSt → HspSt) (D' off' : Nat) (d : Dev) : rg (updHsp D f d) D' off' = rg d D' off' := rfl
@[simp] theorem dieSt_updHsp (D : Nat) (f : HspSt → HspSt) (D' : Nat) (d : Dev) : dieSt (updHsp D f d) D' = dieSt d D' := rfl
@[simp] theorem pkgSt_updHsp (D : Nat) (f : HspSt → HspSt) (p' : Nat) (d : Dev) : pkgSt (updHsp D f d) p' = pkgSt d p' := rfl
@[simp] theorem portSt_updHsp (D : Nat) (f : HspSt → HspSt) (k' : Nat) (d : Dev) : portSt (updHsp D f d) k' = portSt d k' := rfl
@[simp] theorem homeSt_updHsp (D : Nat) (f : HspSt → HspSt) (g' : Nat) (d : Dev) : homeSt (updHsp D f d) g' = homeSt d g' := rfl
@[simp] theorem keeperSt_updHsp (D : Nat) (f : HspSt → HspSt) (p' q' : Nat) (d : Dev) : keeperSt (updHsp D f d) p' q' = keeperSt d p' q' := rfl
@[simp] theorem cacheSt_updHsp (D : Nat) (f : HspSt → HspSt) (c' : Nat) (d : Dev) : cacheSt (updHsp D f d) c' = cacheSt d c' := rfl
@[simp] theorem cifSt_updHsp (D : Nat) (f : HspSt → HspSt) (c' : Nat) (n' : Bool) (d : Dev) : cifSt (updHsp D f d) c' n' = cifSt d c' n' := rfl
@[simp] theorem coreSt_updHsp (D : Nat) (f : HspSt → HspSt) (c' : Nat) (d : Dev) : coreSt (updHsp D f d) c' = coreSt d c' := rfl
@[simp] theorem domSt_updHsp (D : Nat) (f : HspSt → HspSt) (D' i' : Nat) (d : Dev) : domSt (updHsp D f d) D' i' = domSt d D' i' := rfl
@[simp] theorem queueAt_updHsp (D : Nat) (f : HspSt → HspSt) (q' : Nat) (d : Dev) : queueAt (updHsp D f d) q' = queueAt d q' := rfl
@[simp] theorem qEng_updHsp (D : Nat) (f : HspSt → HspSt) (e' : Nat) (d : Dev) : qEng (updHsp D f d) e' = qEng d e' := rfl
@[simp] theorem lnkSt_updHsp (D : Nat) (f : HspSt → HspSt) (D' i' : Nat) (d : Dev) : lnkSt (updHsp D f d) D' i' = lnkSt d D' i' := rfl
@[simp] theorem brgSt_updHsp (D : Nat) (f : HspSt → HspSt) (D' b' : Nat) (d : Dev) : brgSt (updHsp D f d) D' b' = brgSt d D' b' := rfl
@[simp] theorem reinSt_updHsp (D : Nat) (f : HspSt → HspSt) (D' : Nat) (d : Dev) : reinSt (updHsp D f d) D' = reinSt d D' := rfl
@[simp] theorem crnSt_updHsp (D : Nat) (f : HspSt → HspSt) (D' : Nat) (d : Dev) : crnSt (updHsp D f d) D' = crnSt d D' := rfl
@[simp] theorem memByte_updHsp (D : Nat) (f : HspSt → HspSt) (a' : Nat) (d : Dev) : memByte (updHsp D f d) a' = memByte d a' := rfl

/-! ### updLnk -/

@[simp] theorem updLnk_cfg (D i : Nat) (f : LnkSt → LnkSt) (d : Dev) : (updLnk D i f d).cfg = d.cfg := rfl
@[simp] theorem updLnk_freeCtr (D i : Nat) (f : LnkSt → LnkSt) (d : Dev) : (updLnk D i f d).freeCtr = d.freeCtr := rfl
@[simp] theorem updLnk_regs (D i : Nat) (f : LnkSt → LnkSt) (d : Dev) : (updLnk D i f d).regs = d.regs := rfl
@[simp] theorem updLnk_mem (D i : Nat) (f : LnkSt → LnkSt) (d : Dev) : (updLnk D i f d).mem = d.mem := rfl
@[simp] theorem updLnk_chk (D i : Nat) (f : LnkSt → LnkSt) (d : Dev) : (updLnk D i f d).chk = d.chk := rfl
@[simp] theorem updLnk_dies (D i : Nat) (f : LnkSt → LnkSt) (d : Dev) : (updLnk D i f d).dies = d.dies := rfl
@[simp] theorem updLnk_pkgs (D i : Nat) (f : LnkSt → LnkSt) (d : Dev) : (updLnk D i f d).pkgs = d.pkgs := rfl
@[simp] theorem updLnk_ports (D i : Nat) (f : LnkSt → LnkSt) (d : Dev) : (updLnk D i f d).ports = d.ports := rfl
@[simp] theorem updLnk_homes (D i : Nat) (f : LnkSt → LnkSt) (d : Dev) : (updLnk D i f d).homes = d.homes := rfl
@[simp] theorem updLnk_keepers (D i : Nat) (f : LnkSt → LnkSt) (d : Dev) : (updLnk D i f d).keepers = d.keepers := rfl
@[simp] theorem updLnk_caches (D i : Nat) (f : LnkSt → LnkSt) (d : Dev) : (updLnk D i f d).caches = d.caches := rfl
@[simp] theorem updLnk_cifs (D i : Nat) (f : LnkSt → LnkSt) (d : Dev) : (updLnk D i f d).cifs = d.cifs := rfl
@[simp] theorem updLnk_net (D i : Nat) (f : LnkSt → LnkSt) (d : Dev) : (updLnk D i f d).net = d.net := rfl
@[simp] theorem updLnk_ext (D i : Nat) (f : LnkSt → LnkSt) (d : Dev) : (updLnk D i f d).ext = d.ext := rfl
@[simp] theorem updLnk_cores (D i : Nat) (f : LnkSt → LnkSt) (d : Dev) : (updLnk D i f d).cores = d.cores := rfl
@[simp] theorem updLnk_doms (D i : Nat) (f : LnkSt → LnkSt) (d : Dev) : (updLnk D i f d).doms = d.doms := rfl
@[simp] theorem updLnk_queues (D i : Nat) (f : LnkSt → LnkSt) (d : Dev) : (updLnk D i f d).queues = d.queues := rfl
@[simp] theorem updLnk_qengs (D i : Nat) (f : LnkSt → LnkSt) (d : Dev) : (updLnk D i f d).qengs = d.qengs := rfl
@[simp] theorem updLnk_hsps (D i : Nat) (f : LnkSt → LnkSt) (d : Dev) : (updLnk D i f d).hsps = d.hsps := rfl
@[simp] theorem updLnk_brgs (D i : Nat) (f : LnkSt → LnkSt) (d : Dev) : (updLnk D i f d).brgs = d.brgs := rfl
@[simp] theorem updLnk_reins (D i : Nat) (f : LnkSt → LnkSt) (d : Dev) : (updLnk D i f d).reins = d.reins := rfl
@[simp] theorem updLnk_crns (D i : Nat) (f : LnkSt → LnkSt) (d : Dev) : (updLnk D i f d).crns = d.crns := rfl
@[simp] theorem rg_updLnk (D i : Nat) (f : LnkSt → LnkSt) (D' off' : Nat) (d : Dev) : rg (updLnk D i f d) D' off' = rg d D' off' := rfl
@[simp] theorem dieSt_updLnk (D i : Nat) (f : LnkSt → LnkSt) (D' : Nat) (d : Dev) : dieSt (updLnk D i f d) D' = dieSt d D' := rfl
@[simp] theorem pkgSt_updLnk (D i : Nat) (f : LnkSt → LnkSt) (p' : Nat) (d : Dev) : pkgSt (updLnk D i f d) p' = pkgSt d p' := rfl
@[simp] theorem portSt_updLnk (D i : Nat) (f : LnkSt → LnkSt) (k' : Nat) (d : Dev) : portSt (updLnk D i f d) k' = portSt d k' := rfl
@[simp] theorem homeSt_updLnk (D i : Nat) (f : LnkSt → LnkSt) (g' : Nat) (d : Dev) : homeSt (updLnk D i f d) g' = homeSt d g' := rfl
@[simp] theorem keeperSt_updLnk (D i : Nat) (f : LnkSt → LnkSt) (p' q' : Nat) (d : Dev) : keeperSt (updLnk D i f d) p' q' = keeperSt d p' q' := rfl
@[simp] theorem cacheSt_updLnk (D i : Nat) (f : LnkSt → LnkSt) (c' : Nat) (d : Dev) : cacheSt (updLnk D i f d) c' = cacheSt d c' := rfl
@[simp] theorem cifSt_updLnk (D i : Nat) (f : LnkSt → LnkSt) (c' : Nat) (n' : Bool) (d : Dev) : cifSt (updLnk D i f d) c' n' = cifSt d c' n' := rfl
@[simp] theorem coreSt_updLnk (D i : Nat) (f : LnkSt → LnkSt) (c' : Nat) (d : Dev) : coreSt (updLnk D i f d) c' = coreSt d c' := rfl
@[simp] theorem domSt_updLnk (D i : Nat) (f : LnkSt → LnkSt) (D' i' : Nat) (d : Dev) : domSt (updLnk D i f d) D' i' = domSt d D' i' := rfl
@[simp] theorem queueAt_updLnk (D i : Nat) (f : LnkSt → LnkSt) (q' : Nat) (d : Dev) : queueAt (updLnk D i f d) q' = queueAt d q' := rfl
@[simp] theorem qEng_updLnk (D i : Nat) (f : LnkSt → LnkSt) (e' : Nat) (d : Dev) : qEng (updLnk D i f d) e' = qEng d e' := rfl
@[simp] theorem hspSt_updLnk (D i : Nat) (f : LnkSt → LnkSt) (D' : Nat) (d : Dev) : hspSt (updLnk D i f d) D' = hspSt d D' := rfl
@[simp] theorem brgSt_updLnk (D i : Nat) (f : LnkSt → LnkSt) (D' b' : Nat) (d : Dev) : brgSt (updLnk D i f d) D' b' = brgSt d D' b' := rfl
@[simp] theorem reinSt_updLnk (D i : Nat) (f : LnkSt → LnkSt) (D' : Nat) (d : Dev) : reinSt (updLnk D i f d) D' = reinSt d D' := rfl
@[simp] theorem crnSt_updLnk (D i : Nat) (f : LnkSt → LnkSt) (D' : Nat) (d : Dev) : crnSt (updLnk D i f d) D' = crnSt d D' := rfl
@[simp] theorem memByte_updLnk (D i : Nat) (f : LnkSt → LnkSt) (a' : Nat) (d : Dev) : memByte (updLnk D i f d) a' = memByte d a' := rfl

/-! ### updBrg -/

@[simp] theorem updBrg_cfg (D b : Nat) (f : BrgSt → BrgSt) (d : Dev) : (updBrg D b f d).cfg = d.cfg := rfl
@[simp] theorem updBrg_freeCtr (D b : Nat) (f : BrgSt → BrgSt) (d : Dev) : (updBrg D b f d).freeCtr = d.freeCtr := rfl
@[simp] theorem updBrg_regs (D b : Nat) (f : BrgSt → BrgSt) (d : Dev) : (updBrg D b f d).regs = d.regs := rfl
@[simp] theorem updBrg_mem (D b : Nat) (f : BrgSt → BrgSt) (d : Dev) : (updBrg D b f d).mem = d.mem := rfl
@[simp] theorem updBrg_chk (D b : Nat) (f : BrgSt → BrgSt) (d : Dev) : (updBrg D b f d).chk = d.chk := rfl
@[simp] theorem updBrg_dies (D b : Nat) (f : BrgSt → BrgSt) (d : Dev) : (updBrg D b f d).dies = d.dies := rfl
@[simp] theorem updBrg_pkgs (D b : Nat) (f : BrgSt → BrgSt) (d : Dev) : (updBrg D b f d).pkgs = d.pkgs := rfl
@[simp] theorem updBrg_ports (D b : Nat) (f : BrgSt → BrgSt) (d : Dev) : (updBrg D b f d).ports = d.ports := rfl
@[simp] theorem updBrg_homes (D b : Nat) (f : BrgSt → BrgSt) (d : Dev) : (updBrg D b f d).homes = d.homes := rfl
@[simp] theorem updBrg_keepers (D b : Nat) (f : BrgSt → BrgSt) (d : Dev) : (updBrg D b f d).keepers = d.keepers := rfl
@[simp] theorem updBrg_caches (D b : Nat) (f : BrgSt → BrgSt) (d : Dev) : (updBrg D b f d).caches = d.caches := rfl
@[simp] theorem updBrg_cifs (D b : Nat) (f : BrgSt → BrgSt) (d : Dev) : (updBrg D b f d).cifs = d.cifs := rfl
@[simp] theorem updBrg_net (D b : Nat) (f : BrgSt → BrgSt) (d : Dev) : (updBrg D b f d).net = d.net := rfl
@[simp] theorem updBrg_ext (D b : Nat) (f : BrgSt → BrgSt) (d : Dev) : (updBrg D b f d).ext = d.ext := rfl
@[simp] theorem updBrg_cores (D b : Nat) (f : BrgSt → BrgSt) (d : Dev) : (updBrg D b f d).cores = d.cores := rfl
@[simp] theorem updBrg_doms (D b : Nat) (f : BrgSt → BrgSt) (d : Dev) : (updBrg D b f d).doms = d.doms := rfl
@[simp] theorem updBrg_queues (D b : Nat) (f : BrgSt → BrgSt) (d : Dev) : (updBrg D b f d).queues = d.queues := rfl
@[simp] theorem updBrg_qengs (D b : Nat) (f : BrgSt → BrgSt) (d : Dev) : (updBrg D b f d).qengs = d.qengs := rfl
@[simp] theorem updBrg_hsps (D b : Nat) (f : BrgSt → BrgSt) (d : Dev) : (updBrg D b f d).hsps = d.hsps := rfl
@[simp] theorem updBrg_lnks (D b : Nat) (f : BrgSt → BrgSt) (d : Dev) : (updBrg D b f d).lnks = d.lnks := rfl
@[simp] theorem updBrg_reins (D b : Nat) (f : BrgSt → BrgSt) (d : Dev) : (updBrg D b f d).reins = d.reins := rfl
@[simp] theorem updBrg_crns (D b : Nat) (f : BrgSt → BrgSt) (d : Dev) : (updBrg D b f d).crns = d.crns := rfl
@[simp] theorem rg_updBrg (D b : Nat) (f : BrgSt → BrgSt) (D' off' : Nat) (d : Dev) : rg (updBrg D b f d) D' off' = rg d D' off' := rfl
@[simp] theorem dieSt_updBrg (D b : Nat) (f : BrgSt → BrgSt) (D' : Nat) (d : Dev) : dieSt (updBrg D b f d) D' = dieSt d D' := rfl
@[simp] theorem pkgSt_updBrg (D b : Nat) (f : BrgSt → BrgSt) (p' : Nat) (d : Dev) : pkgSt (updBrg D b f d) p' = pkgSt d p' := rfl
@[simp] theorem portSt_updBrg (D b : Nat) (f : BrgSt → BrgSt) (k' : Nat) (d : Dev) : portSt (updBrg D b f d) k' = portSt d k' := rfl
@[simp] theorem homeSt_updBrg (D b : Nat) (f : BrgSt → BrgSt) (g' : Nat) (d : Dev) : homeSt (updBrg D b f d) g' = homeSt d g' := rfl
@[simp] theorem keeperSt_updBrg (D b : Nat) (f : BrgSt → BrgSt) (p' q' : Nat) (d : Dev) : keeperSt (updBrg D b f d) p' q' = keeperSt d p' q' := rfl
@[simp] theorem cacheSt_updBrg (D b : Nat) (f : BrgSt → BrgSt) (c' : Nat) (d : Dev) : cacheSt (updBrg D b f d) c' = cacheSt d c' := rfl
@[simp] theorem cifSt_updBrg (D b : Nat) (f : BrgSt → BrgSt) (c' : Nat) (n' : Bool) (d : Dev) : cifSt (updBrg D b f d) c' n' = cifSt d c' n' := rfl
@[simp] theorem coreSt_updBrg (D b : Nat) (f : BrgSt → BrgSt) (c' : Nat) (d : Dev) : coreSt (updBrg D b f d) c' = coreSt d c' := rfl
@[simp] theorem domSt_updBrg (D b : Nat) (f : BrgSt → BrgSt) (D' i' : Nat) (d : Dev) : domSt (updBrg D b f d) D' i' = domSt d D' i' := rfl
@[simp] theorem queueAt_updBrg (D b : Nat) (f : BrgSt → BrgSt) (q' : Nat) (d : Dev) : queueAt (updBrg D b f d) q' = queueAt d q' := rfl
@[simp] theorem qEng_updBrg (D b : Nat) (f : BrgSt → BrgSt) (e' : Nat) (d : Dev) : qEng (updBrg D b f d) e' = qEng d e' := rfl
@[simp] theorem hspSt_updBrg (D b : Nat) (f : BrgSt → BrgSt) (D' : Nat) (d : Dev) : hspSt (updBrg D b f d) D' = hspSt d D' := rfl
@[simp] theorem lnkSt_updBrg (D b : Nat) (f : BrgSt → BrgSt) (D' i' : Nat) (d : Dev) : lnkSt (updBrg D b f d) D' i' = lnkSt d D' i' := rfl
@[simp] theorem reinSt_updBrg (D b : Nat) (f : BrgSt → BrgSt) (D' : Nat) (d : Dev) : reinSt (updBrg D b f d) D' = reinSt d D' := rfl
@[simp] theorem crnSt_updBrg (D b : Nat) (f : BrgSt → BrgSt) (D' : Nat) (d : Dev) : crnSt (updBrg D b f d) D' = crnSt d D' := rfl
@[simp] theorem memByte_updBrg (D b : Nat) (f : BrgSt → BrgSt) (a' : Nat) (d : Dev) : memByte (updBrg D b f d) a' = memByte d a' := rfl

/-! ### updRein -/

@[simp] theorem updRein_cfg (D : Nat) (f : ReinSt → ReinSt) (d : Dev) : (updRein D f d).cfg = d.cfg := rfl
@[simp] theorem updRein_freeCtr (D : Nat) (f : ReinSt → ReinSt) (d : Dev) : (updRein D f d).freeCtr = d.freeCtr := rfl
@[simp] theorem updRein_regs (D : Nat) (f : ReinSt → ReinSt) (d : Dev) : (updRein D f d).regs = d.regs := rfl
@[simp] theorem updRein_mem (D : Nat) (f : ReinSt → ReinSt) (d : Dev) : (updRein D f d).mem = d.mem := rfl
@[simp] theorem updRein_chk (D : Nat) (f : ReinSt → ReinSt) (d : Dev) : (updRein D f d).chk = d.chk := rfl
@[simp] theorem updRein_dies (D : Nat) (f : ReinSt → ReinSt) (d : Dev) : (updRein D f d).dies = d.dies := rfl
@[simp] theorem updRein_pkgs (D : Nat) (f : ReinSt → ReinSt) (d : Dev) : (updRein D f d).pkgs = d.pkgs := rfl
@[simp] theorem updRein_ports (D : Nat) (f : ReinSt → ReinSt) (d : Dev) : (updRein D f d).ports = d.ports := rfl
@[simp] theorem updRein_homes (D : Nat) (f : ReinSt → ReinSt) (d : Dev) : (updRein D f d).homes = d.homes := rfl
@[simp] theorem updRein_keepers (D : Nat) (f : ReinSt → ReinSt) (d : Dev) : (updRein D f d).keepers = d.keepers := rfl
@[simp] theorem updRein_caches (D : Nat) (f : ReinSt → ReinSt) (d : Dev) : (updRein D f d).caches = d.caches := rfl
@[simp] theorem updRein_cifs (D : Nat) (f : ReinSt → ReinSt) (d : Dev) : (updRein D f d).cifs = d.cifs := rfl
@[simp] theorem updRein_net (D : Nat) (f : ReinSt → ReinSt) (d : Dev) : (updRein D f d).net = d.net := rfl
@[simp] theorem updRein_ext (D : Nat) (f : ReinSt → ReinSt) (d : Dev) : (updRein D f d).ext = d.ext := rfl
@[simp] theorem updRein_cores (D : Nat) (f : ReinSt → ReinSt) (d : Dev) : (updRein D f d).cores = d.cores := rfl
@[simp] theorem updRein_doms (D : Nat) (f : ReinSt → ReinSt) (d : Dev) : (updRein D f d).doms = d.doms := rfl
@[simp] theorem updRein_queues (D : Nat) (f : ReinSt → ReinSt) (d : Dev) : (updRein D f d).queues = d.queues := rfl
@[simp] theorem updRein_qengs (D : Nat) (f : ReinSt → ReinSt) (d : Dev) : (updRein D f d).qengs = d.qengs := rfl
@[simp] theorem updRein_hsps (D : Nat) (f : ReinSt → ReinSt) (d : Dev) : (updRein D f d).hsps = d.hsps := rfl
@[simp] theorem updRein_lnks (D : Nat) (f : ReinSt → ReinSt) (d : Dev) : (updRein D f d).lnks = d.lnks := rfl
@[simp] theorem updRein_brgs (D : Nat) (f : ReinSt → ReinSt) (d : Dev) : (updRein D f d).brgs = d.brgs := rfl
@[simp] theorem updRein_crns (D : Nat) (f : ReinSt → ReinSt) (d : Dev) : (updRein D f d).crns = d.crns := rfl
@[simp] theorem rg_updRein (D : Nat) (f : ReinSt → ReinSt) (D' off' : Nat) (d : Dev) : rg (updRein D f d) D' off' = rg d D' off' := rfl
@[simp] theorem dieSt_updRein (D : Nat) (f : ReinSt → ReinSt) (D' : Nat) (d : Dev) : dieSt (updRein D f d) D' = dieSt d D' := rfl
@[simp] theorem pkgSt_updRein (D : Nat) (f : ReinSt → ReinSt) (p' : Nat) (d : Dev) : pkgSt (updRein D f d) p' = pkgSt d p' := rfl
@[simp] theorem portSt_updRein (D : Nat) (f : ReinSt → ReinSt) (k' : Nat) (d : Dev) : portSt (updRein D f d) k' = portSt d k' := rfl
@[simp] theorem homeSt_updRein (D : Nat) (f : ReinSt → ReinSt) (g' : Nat) (d : Dev) : homeSt (updRein D f d) g' = homeSt d g' := rfl
@[simp] theorem keeperSt_updRein (D : Nat) (f : ReinSt → ReinSt) (p' q' : Nat) (d : Dev) : keeperSt (updRein D f d) p' q' = keeperSt d p' q' := rfl
@[simp] theorem cacheSt_updRein (D : Nat) (f : ReinSt → ReinSt) (c' : Nat) (d : Dev) : cacheSt (updRein D f d) c' = cacheSt d c' := rfl
@[simp] theorem cifSt_updRein (D : Nat) (f : ReinSt → ReinSt) (c' : Nat) (n' : Bool) (d : Dev) : cifSt (updRein D f d) c' n' = cifSt d c' n' := rfl
@[simp] theorem coreSt_updRein (D : Nat) (f : ReinSt → ReinSt) (c' : Nat) (d : Dev) : coreSt (updRein D f d) c' = coreSt d c' := rfl
@[simp] theorem domSt_updRein (D : Nat) (f : ReinSt → ReinSt) (D' i' : Nat) (d : Dev) : domSt (updRein D f d) D' i' = domSt d D' i' := rfl
@[simp] theorem queueAt_updRein (D : Nat) (f : ReinSt → ReinSt) (q' : Nat) (d : Dev) : queueAt (updRein D f d) q' = queueAt d q' := rfl
@[simp] theorem qEng_updRein (D : Nat) (f : ReinSt → ReinSt) (e' : Nat) (d : Dev) : qEng (updRein D f d) e' = qEng d e' := rfl
@[simp] theorem hspSt_updRein (D : Nat) (f : ReinSt → ReinSt) (D' : Nat) (d : Dev) : hspSt (updRein D f d) D' = hspSt d D' := rfl
@[simp] theorem lnkSt_updRein (D : Nat) (f : ReinSt → ReinSt) (D' i' : Nat) (d : Dev) : lnkSt (updRein D f d) D' i' = lnkSt d D' i' := rfl
@[simp] theorem brgSt_updRein (D : Nat) (f : ReinSt → ReinSt) (D' b' : Nat) (d : Dev) : brgSt (updRein D f d) D' b' = brgSt d D' b' := rfl
@[simp] theorem crnSt_updRein (D : Nat) (f : ReinSt → ReinSt) (D' : Nat) (d : Dev) : crnSt (updRein D f d) D' = crnSt d D' := rfl
@[simp] theorem memByte_updRein (D : Nat) (f : ReinSt → ReinSt) (a' : Nat) (d : Dev) : memByte (updRein D f d) a' = memByte d a' := rfl

/-! ### updCrn -/

@[simp] theorem updCrn_cfg (D : Nat) (f : CrnSt → CrnSt) (d : Dev) : (updCrn D f d).cfg = d.cfg := rfl
@[simp] theorem updCrn_freeCtr (D : Nat) (f : CrnSt → CrnSt) (d : Dev) : (updCrn D f d).freeCtr = d.freeCtr := rfl
@[simp] theorem updCrn_regs (D : Nat) (f : CrnSt → CrnSt) (d : Dev) : (updCrn D f d).regs = d.regs := rfl
@[simp] theorem updCrn_mem (D : Nat) (f : CrnSt → CrnSt) (d : Dev) : (updCrn D f d).mem = d.mem := rfl
@[simp] theorem updCrn_chk (D : Nat) (f : CrnSt → CrnSt) (d : Dev) : (updCrn D f d).chk = d.chk := rfl
@[simp] theorem updCrn_dies (D : Nat) (f : CrnSt → CrnSt) (d : Dev) : (updCrn D f d).dies = d.dies := rfl
@[simp] theorem updCrn_pkgs (D : Nat) (f : CrnSt → CrnSt) (d : Dev) : (updCrn D f d).pkgs = d.pkgs := rfl
@[simp] theorem updCrn_ports (D : Nat) (f : CrnSt → CrnSt) (d : Dev) : (updCrn D f d).ports = d.ports := rfl
@[simp] theorem updCrn_homes (D : Nat) (f : CrnSt → CrnSt) (d : Dev) : (updCrn D f d).homes = d.homes := rfl
@[simp] theorem updCrn_keepers (D : Nat) (f : CrnSt → CrnSt) (d : Dev) : (updCrn D f d).keepers = d.keepers := rfl
@[simp] theorem updCrn_caches (D : Nat) (f : CrnSt → CrnSt) (d : Dev) : (updCrn D f d).caches = d.caches := rfl
@[simp] theorem updCrn_cifs (D : Nat) (f : CrnSt → CrnSt) (d : Dev) : (updCrn D f d).cifs = d.cifs := rfl
@[simp] theorem updCrn_net (D : Nat) (f : CrnSt → CrnSt) (d : Dev) : (updCrn D f d).net = d.net := rfl
@[simp] theorem updCrn_ext (D : Nat) (f : CrnSt → CrnSt) (d : Dev) : (updCrn D f d).ext = d.ext := rfl
@[simp] theorem updCrn_cores (D : Nat) (f : CrnSt → CrnSt) (d : Dev) : (updCrn D f d).cores = d.cores := rfl
@[simp] theorem updCrn_doms (D : Nat) (f : CrnSt → CrnSt) (d : Dev) : (updCrn D f d).doms = d.doms := rfl
@[simp] theorem updCrn_queues (D : Nat) (f : CrnSt → CrnSt) (d : Dev) : (updCrn D f d).queues = d.queues := rfl
@[simp] theorem updCrn_qengs (D : Nat) (f : CrnSt → CrnSt) (d : Dev) : (updCrn D f d).qengs = d.qengs := rfl
@[simp] theorem updCrn_hsps (D : Nat) (f : CrnSt → CrnSt) (d : Dev) : (updCrn D f d).hsps = d.hsps := rfl
@[simp] theorem updCrn_lnks (D : Nat) (f : CrnSt → CrnSt) (d : Dev) : (updCrn D f d).lnks = d.lnks := rfl
@[simp] theorem updCrn_brgs (D : Nat) (f : CrnSt → CrnSt) (d : Dev) : (updCrn D f d).brgs = d.brgs := rfl
@[simp] theorem updCrn_reins (D : Nat) (f : CrnSt → CrnSt) (d : Dev) : (updCrn D f d).reins = d.reins := rfl
@[simp] theorem rg_updCrn (D : Nat) (f : CrnSt → CrnSt) (D' off' : Nat) (d : Dev) : rg (updCrn D f d) D' off' = rg d D' off' := rfl
@[simp] theorem dieSt_updCrn (D : Nat) (f : CrnSt → CrnSt) (D' : Nat) (d : Dev) : dieSt (updCrn D f d) D' = dieSt d D' := rfl
@[simp] theorem pkgSt_updCrn (D : Nat) (f : CrnSt → CrnSt) (p' : Nat) (d : Dev) : pkgSt (updCrn D f d) p' = pkgSt d p' := rfl
@[simp] theorem portSt_updCrn (D : Nat) (f : CrnSt → CrnSt) (k' : Nat) (d : Dev) : portSt (updCrn D f d) k' = portSt d k' := rfl
@[simp] theorem homeSt_updCrn (D : Nat) (f : CrnSt → CrnSt) (g' : Nat) (d : Dev) : homeSt (updCrn D f d) g' = homeSt d g' := rfl
@[simp] theorem keeperSt_updCrn (D : Nat) (f : CrnSt → CrnSt) (p' q' : Nat) (d : Dev) : keeperSt (updCrn D f d) p' q' = keeperSt d p' q' := rfl
@[simp] theorem cacheSt_updCrn (D : Nat) (f : CrnSt → CrnSt) (c' : Nat) (d : Dev) : cacheSt (updCrn D f d) c' = cacheSt d c' := rfl
@[simp] theorem cifSt_updCrn (D : Nat) (f : CrnSt → CrnSt) (c' : Nat) (n' : Bool) (d : Dev) : cifSt (updCrn D f d) c' n' = cifSt d c' n' := rfl
@[simp] theorem coreSt_updCrn (D : Nat) (f : CrnSt → CrnSt) (c' : Nat) (d : Dev) : coreSt (updCrn D f d) c' = coreSt d c' := rfl
@[simp] theorem domSt_updCrn (D : Nat) (f : CrnSt → CrnSt) (D' i' : Nat) (d : Dev) : domSt (updCrn D f d) D' i' = domSt d D' i' := rfl
@[simp] theorem queueAt_updCrn (D : Nat) (f : CrnSt → CrnSt) (q' : Nat) (d : Dev) : queueAt (updCrn D f d) q' = queueAt d q' := rfl
@[simp] theorem qEng_updCrn (D : Nat) (f : CrnSt → CrnSt) (e' : Nat) (d : Dev) : qEng (updCrn D f d) e' = qEng d e' := rfl
@[simp] theorem hspSt_updCrn (D : Nat) (f : CrnSt → CrnSt) (D' : Nat) (d : Dev) : hspSt (updCrn D f d) D' = hspSt d D' := rfl
@[simp] theorem lnkSt_updCrn (D : Nat) (f : CrnSt → CrnSt) (D' i' : Nat) (d : Dev) : lnkSt (updCrn D f d) D' i' = lnkSt d D' i' := rfl
@[simp] theorem brgSt_updCrn (D : Nat) (f : CrnSt → CrnSt) (D' b' : Nat) (d : Dev) : brgSt (updCrn D f d) D' b' = brgSt d D' b' := rfl
@[simp] theorem reinSt_updCrn (D : Nat) (f : CrnSt → CrnSt) (D' : Nat) (d : Dev) : reinSt (updCrn D f d) D' = reinSt d D' := rfl
@[simp] theorem memByte_updCrn (D : Nat) (f : CrnSt → CrnSt) (a' : Nat) (d : Dev) : memByte (updCrn D f d) a' = memByte d a' := rfl

/-! ### What a unit's accessor reads after an update of its own kind -/

@[simp] theorem dieSt_updDie_same (D : Nat) (f : DieSt → DieSt) (d : Dev) : dieSt (updDie D f d) D = f (dieSt d D) := look_modify_same _ _ _ _
theorem dieSt_updDie_other (D : Nat) (f : DieSt → DieSt) (d : Dev) {D' : Nat} (h : D' ≠ D) : dieSt (updDie D f d) D' = dieSt d D' := look_modify_other _ _ _ _ h
@[simp] theorem pkgSt_updPkg_same (p : Nat) (f : PkgSt → PkgSt) (d : Dev) : pkgSt (updPkg p f d) p = f (pkgSt d p) := look_modify_same _ _ _ _
theorem pkgSt_updPkg_other (p : Nat) (f : PkgSt → PkgSt) (d : Dev) {p' : Nat} (h : p' ≠ p) : pkgSt (updPkg p f d) p' = pkgSt d p' := look_modify_other _ _ _ _ h
@[simp] theorem portSt_updPort_same (k : Nat) (f : PortSt → PortSt) (d : Dev) : portSt (updPort k f d) k = f (portSt d k) := look_modify_same _ _ _ _
theorem portSt_updPort_other (k : Nat) (f : PortSt → PortSt) (d : Dev) {k' : Nat} (h : k' ≠ k) : portSt (updPort k f d) k' = portSt d k' := look_modify_other _ _ _ _ h
@[simp] theorem homeSt_updHome_same (g : Nat) (f : HomeSt → HomeSt) (d : Dev) : homeSt (updHome g f d) g = f (homeSt d g) := look_modify_same _ _ _ _
theorem homeSt_updHome_other (g : Nat) (f : HomeSt → HomeSt) (d : Dev) {g' : Nat} (h : g' ≠ g) : homeSt (updHome g f d) g' = homeSt d g' := look_modify_other _ _ _ _ h
@[simp] theorem cacheSt_updCache_same (c : Nat) (f : CacheSt → CacheSt) (d : Dev) : cacheSt (updCache c f d) c = f (cacheSt d c) := look_modify_same _ _ _ _
theorem cacheSt_updCache_other (c : Nat) (f : CacheSt → CacheSt) (d : Dev) {c' : Nat} (h : c' ≠ c) : cacheSt (updCache c f d) c' = cacheSt d c' := look_modify_other _ _ _ _ h
@[simp] theorem coreSt_updCore_same (c : Nat) (f : CoreSt → CoreSt) (d : Dev) : coreSt (updCore c f d) c = f (coreSt d c) := look_modify_same _ _ _ _
theorem coreSt_updCore_other (c : Nat) (f : CoreSt → CoreSt) (d : Dev) {c' : Nat} (h : c' ≠ c) : coreSt (updCore c f d) c' = coreSt d c' := look_modify_other _ _ _ _ h
@[simp] theorem hspSt_updHsp_same (D : Nat) (f : HspSt → HspSt) (d : Dev) : hspSt (updHsp D f d) D = f (hspSt d D) := look_modify_same _ _ _ _
theorem hspSt_updHsp_other (D : Nat) (f : HspSt → HspSt) (d : Dev) {D' : Nat} (h : D' ≠ D) : hspSt (updHsp D f d) D' = hspSt d D' := look_modify_other _ _ _ _ h
@[simp] theorem reinSt_updRein_same (D : Nat) (f : ReinSt → ReinSt) (d : Dev) : reinSt (updRein D f d) D = f (reinSt d D) := look_modify_same _ _ _ _
theorem reinSt_updRein_other (D : Nat) (f : ReinSt → ReinSt) (d : Dev) {D' : Nat} (h : D' ≠ D) : reinSt (updRein D f d) D' = reinSt d D' := look_modify_other _ _ _ _ h
@[simp] theorem crnSt_updCrn_same (D : Nat) (f : CrnSt → CrnSt) (d : Dev) : crnSt (updCrn D f d) D = f (crnSt d D) := look_modify_same _ _ _ _
theorem crnSt_updCrn_other (D : Nat) (f : CrnSt → CrnSt) (d : Dev) {D' : Nat} (h : D' ≠ D) : crnSt (updCrn D f d) D' = crnSt d D' := look_modify_other _ _ _ _ h
@[simp] theorem qEng_updQEng_same (e : Nat) (f : QEngSt → QEngSt) (d : Dev) : qEng (updQEng e f d) e = f (qEng d e) := look_modify_same _ _ _ _
theorem qEng_updQEng_other (e : Nat) (f : QEngSt → QEngSt) (d : Dev) {e' : Nat} (h : e' ≠ e) : qEng (updQEng e f d) e' = qEng d e' := look_modify_other _ _ _ _ h
@[simp] theorem keeperSt_updKeeper_same (p q : Nat) (f : KeeperSt → KeeperSt) (d : Dev) :
    keeperSt (updKeeper p q f d) p q = f (keeperSt d p q) := look_modify_same _ _ _ _
@[simp] theorem cifSt_updCif_same (c : Nat) (ns : Bool) (f : CifSt → CifSt) (d : Dev) :
    cifSt (updCif c ns f d) c ns = f (cifSt d c ns) := look_modify_same _ _ _ _
theorem cifSt_updCif_other (c : Nat) (ns : Bool) (f : CifSt → CifSt) (d : Dev) {c' : Nat} {ns' : Bool} (h : c' ≠ c ∨ ns' ≠ ns) :
    cifSt (updCif c ns f d) c' ns' = cifSt d c' ns' :=
  look_modify_other _ _ _ _ (by cases ns <;> cases ns' <;> simp_all [b2n] <;> omega)
@[simp] theorem domSt_updDom_same (D i : Nat) (f : DomSt → DomSt) (d : Dev) : domSt (updDom D i f d) D i = f (domSt d D i) :=
  look_modify_same _ _ _ _
@[simp] theorem queueAt_updQueue_same (q : Nat) (f : QueueSt → QueueSt) (d : Dev) :
    queueAt (updQueue q f d) q = (queueAt d q).map f := look_modify_same _ _ _ _
theorem queueAt_updQueue_other (q : Nat) (f : QueueSt → QueueSt) (d : Dev) {q' : Nat} (h : q' ≠ q) :
    queueAt (updQueue q f d) q' = queueAt d q' := look_modify_other _ _ _ _ h
@[simp] theorem lnkSt_updLnk_same (D i : Nat) (f : LnkSt → LnkSt) (d : Dev) : lnkSt (updLnk D i f d) D i = f (lnkSt d D i) :=
  look_modify_same _ _ _ _
@[simp] theorem brgSt_updBrg_same (D b : Nat) (f : BrgSt → BrgSt) (d : Dev) : brgSt (updBrg D b f d) D b = f (brgSt d D b) :=
  look_modify_same _ _ _ _

/-! ### Device registers -/

/-- A register that was written reads as what was written. -/
@[simp] theorem rg_wr_same (D off : Nat) (v : Word) (d : Dev) : rg (wr D off v d) D off = v := look_put_same _ _ _ _
/-- Every other register reads as before. -/
theorem rg_wr_other (D off : Nat) (v : Word) (d : Dev) {D' off' : Nat} (h : regKey D' off' ≠ regKey D off) :
    rg (wr D off v d) D' off' = rg d D' off' := look_put_other _ _ _ _ h

/-! ### The step of GENERATION -/

@[simp] theorem genSync_cfg (d0 d : Dev) : (genSync d0 d).cfg = d.cfg := rfl
@[simp] theorem genSync_regs (d0 d : Dev) : (genSync d0 d).regs = d.regs := rfl
@[simp] theorem genSync_mem (d0 d : Dev) : (genSync d0 d).mem = d.mem := rfl
@[simp] theorem genSync_chk (d0 d : Dev) : (genSync d0 d).chk = d.chk := rfl
@[simp] theorem genSync_ports (d0 d : Dev) : (genSync d0 d).ports = d.ports := rfl
@[simp] theorem genSync_homes (d0 d : Dev) : (genSync d0 d).homes = d.homes := rfl
@[simp] theorem genSync_keepers (d0 d : Dev) : (genSync d0 d).keepers = d.keepers := rfl
@[simp] theorem genSync_caches (d0 d : Dev) : (genSync d0 d).caches = d.caches := rfl
@[simp] theorem genSync_cifs (d0 d : Dev) : (genSync d0 d).cifs = d.cifs := rfl
@[simp] theorem genSync_net (d0 d : Dev) : (genSync d0 d).net = d.net := rfl
@[simp] theorem genSync_ext (d0 d : Dev) : (genSync d0 d).ext = d.ext := rfl
@[simp] theorem genSync_cores (d0 d : Dev) : (genSync d0 d).cores = d.cores := rfl
@[simp] theorem genSync_doms (d0 d : Dev) : (genSync d0 d).doms = d.doms := rfl
@[simp] theorem genSync_queues (d0 d : Dev) : (genSync d0 d).queues = d.queues := rfl
@[simp] theorem genSync_qengs (d0 d : Dev) : (genSync d0 d).qengs = d.qengs := rfl
@[simp] theorem genSync_lnks (d0 d : Dev) : (genSync d0 d).lnks = d.lnks := rfl
@[simp] theorem genSync_brgs (d0 d : Dev) : (genSync d0 d).brgs = d.brgs := rfl
@[simp] theorem genSync_reins (d0 d : Dev) : (genSync d0 d).reins = d.reins := rfl
@[simp] theorem genSync_crns (d0 d : Dev) : (genSync d0 d).crns = d.crns := rfl
@[simp] theorem rg_genSync (d0 d : Dev) (D' off' : Nat) : rg (genSync d0 d) D' off' = rg d D' off' := rfl
@[simp] theorem portSt_genSync (d0 d : Dev) (k' : Nat) : portSt (genSync d0 d) k' = portSt d k' := rfl
@[simp] theorem homeSt_genSync (d0 d : Dev) (g' : Nat) : homeSt (genSync d0 d) g' = homeSt d g' := rfl
@[simp] theorem keeperSt_genSync (d0 d : Dev) (p' q' : Nat) : keeperSt (genSync d0 d) p' q' = keeperSt d p' q' := rfl
@[simp] theorem cacheSt_genSync (d0 d : Dev) (c' : Nat) : cacheSt (genSync d0 d) c' = cacheSt d c' := rfl
@[simp] theorem cifSt_genSync (d0 d : Dev) (c' : Nat) (n' : Bool) : cifSt (genSync d0 d) c' n' = cifSt d c' n' := rfl
@[simp] theorem coreSt_genSync (d0 d : Dev) (c' : Nat) : coreSt (genSync d0 d) c' = coreSt d c' := rfl
@[simp] theorem domSt_genSync (d0 d : Dev) (D' i' : Nat) : domSt (genSync d0 d) D' i' = domSt d D' i' := rfl
@[simp] theorem queueAt_genSync (d0 d : Dev) (q' : Nat) : queueAt (genSync d0 d) q' = queueAt d q' := rfl
@[simp] theorem qEng_genSync (d0 d : Dev) (e' : Nat) : qEng (genSync d0 d) e' = qEng d e' := rfl
@[simp] theorem lnkSt_genSync (d0 d : Dev) (D' i' : Nat) : lnkSt (genSync d0 d) D' i' = lnkSt d D' i' := rfl
@[simp] theorem brgSt_genSync (d0 d : Dev) (D' b' : Nat) : brgSt (genSync d0 d) D' b' = brgSt d D' b' := rfl
@[simp] theorem reinSt_genSync (d0 d : Dev) (D' : Nat) : reinSt (genSync d0 d) D' = reinSt d D' := rfl
@[simp] theorem crnSt_genSync (d0 d : Dev) (D' : Nat) : crnSt (genSync d0 d) D' = crnSt d D' := rfl
@[simp] theorem memByte_genSync (d0 d : Dev) (a' : Nat) : memByte (genSync d0 d) a' = memByte d a' := rfl

end Sys2Proof.Machine
end

