-- ==== Sys2Proof/Laws/Core.lean ====
section
/-! SUPPORT. Laws of a core's registers: what reads what after a write, and what retirement leaves unchanged. -/

namespace Sys2Proof.Machine

open KMap

/-! ### Writing one register -/

@[simp] theorem arch_updArch_same (c : Nat) (f : Arch → Arch) (d : Dev) : arch (updArch c f d) c = f (arch d c) := by
  simp [arch, updArch]
theorem arch_updArch_other (c : Nat) (f : Arch → Arch) (d : Dev) {c' : Nat} (h : c' ≠ c) :
    arch (updArch c f d) c' = arch d c' := by
  simp [arch, updArch, coreSt_updCore_other _ _ _ h]

/-- An update of a core that leaves its architectural registers alone. -/
theorem arch_updCore {c : Nat} {f : CoreSt → CoreSt} (d : Dev) (c' : Nat) (h : ∀ x, (f x).arch = x.arch) :
    arch (updCore c f d) c' = arch d c' := by
  by_cases hc : c' = c
  · subst hc; simp [arch, h]
  · simp [arch, coreSt_updCore_other _ _ _ hc]

theorem gReg_congr {d t : Dev} {c : Nat} (h : arch t c = arch d c) (r : Nat) : gReg t c r = gReg d c r := by simp [gReg, h]
theorem fReg_congr {d t : Dev} {c : Nat} (h : arch t c = arch d c) (r : Nat) : fReg t c r = fReg d c r := by simp [fReg, h]
theorem vReg_congr {d t : Dev} {c : Nat} (h : arch t c = arch d c) (r : Nat) : vReg t c r = vReg d c r := by simp [vReg, h]
theorem kReg_congr {d t : Dev} {c : Nat} (h : arch t c = arch d c) (r : Nat) : kReg t c r = kReg d c r := by simp [kReg, h]
theorem sr_congr {d t : Dev} {c : Nat} (h : arch t c = arch d c) (n : Nat) : sr t c n = sr d c n := by simp [sr, h]
theorem pcOf_congr {d t : Dev} {c : Nat} (h : arch t c = arch d c) : pcOf t c = pcOf d c := by simp [pcOf, h]

/-- g0 reads as zero, whatever was written to it (R54). -/
@[simp] theorem gReg_zero (d : Dev) (c : Nat) : gReg d c 0 = 0 := rfl
/-- A write to g0 is discarded (R54). -/
@[simp] theorem setG_zero (c : Nat) (v : Word) (d : Dev) : setG c 0 v d = d := rfl

theorem gReg_setG_same (c r : Nat) (v : Word) (d : Dev) : gReg (setG c r v d) c r = if r = 0 then 0 else v := by
  by_cases h : r = 0 <;> simp [gReg, setG, h]
theorem gReg_setG_other (c r : Nat) (v : Word) (d : Dev) {r' : Nat} (h : r' ≠ r) : gReg (setG c r v d) c r' = gReg d c r' := by
  by_cases hr : r = 0
  · simp [setG, hr]
  · simp only [gReg, setG, hr, if_false, arch_updArch_same]
    rw [look_put_other _ _ _ _ h]
@[simp] theorem fReg_setFR_same (c r : Nat) (v : Word) (d : Dev) : fReg (setFR c r v d) c r = v := by simp [fReg, setFR]
theorem fReg_setFR_other (c r : Nat) (v : Word) (d : Dev) {r' : Nat} (h : r' ≠ r) : fReg (setFR c r v d) c r' = fReg d c r' := by
  simp [fReg, setFR, look_put_other _ _ _ _ h]
@[simp] theorem vReg_setV_same (c r : Nat) (v : VecData) (d : Dev) : vReg (setV c r v d) c r = v := by simp [vReg, setV]
theorem vReg_setV_other (c r : Nat) (v : VecData) (d : Dev) {r' : Nat} (h : r' ≠ r) : vReg (setV c r v d) c r' = vReg d c r' := by
  simp [vReg, setV, look_put_other _ _ _ _ h]
@[simp] theorem kReg_setK_same (c r : Nat) (v : VecData) (d : Dev) : kReg (setK c r v d) c r = v := by simp [kReg, setK]
theorem kReg_setK_other (c r : Nat) (v : VecData) (d : Dev) {r' : Nat} (h : r' ≠ r) : kReg (setK c r v d) c r' = kReg d c r' := by
  simp [kReg, setK, look_put_other _ _ _ _ h]
@[simp] theorem sr_setSr_same (c n : Nat) (v : Word) (d : Dev) : sr (setSr c n v d) c n = v := by simp [sr, setSr]
theorem sr_setSr_other (c n : Nat) (v : Word) (d : Dev) {m : Nat} (h : m ≠ n) : sr (setSr c n v d) c m = sr d c m := by
  simp [sr, setSr, look_put_other _ _ _ _ h]
@[simp] theorem pcOf_setPc_same (c : Nat) (v : Word) (d : Dev) : pcOf (setPc c v d) c = v := by simp [pcOf, setPc]

/-! ### A write of one kind of register and the others -/

@[simp] theorem pcOf_setG (c r : Nat) (v : Word) (d : Dev) : pcOf (setG c r v d) c = pcOf d c := by
  by_cases h : r = 0 <;> simp [pcOf, setG, h]
@[simp] theorem fReg_setG (c r : Nat) (v : Word) (d : Dev) (r' : Nat) : fReg (setG c r v d) c r' = fReg d c r' := by
  by_cases h : r = 0 <;> simp [fReg, setG, h]
@[simp] theorem vReg_setG (c r : Nat) (v : Word) (d : Dev) (r' : Nat) : vReg (setG c r v d) c r' = vReg d c r' := by
  by_cases h : r = 0 <;> simp [vReg, setG, h]
@[simp] theorem kReg_setG (c r : Nat) (v : Word) (d : Dev) (r' : Nat) : kReg (setG c r v d) c r' = kReg d c r' := by
  by_cases h : r = 0 <;> simp [kReg, setG, h]
@[simp] theorem sr_setG (c r : Nat) (v : Word) (d : Dev) (n : Nat) : sr (setG c r v d) c n = sr d c n := by
  by_cases h : r = 0 <;> simp [sr, setG, h]
@[simp] theorem gReg_setFR (c r : Nat) (v : Word) (d : Dev) (r' : Nat) : gReg (setFR c r v d) c r' = gReg d c r' := by simp [gReg, setFR]
@[simp] theorem gReg_setV (c r : Nat) (v : VecData) (d : Dev) (r' : Nat) : gReg (setV c r v d) c r' = gReg d c r' := by simp [gReg, setV]
@[simp] theorem gReg_setK (c r : Nat) (v : VecData) (d : Dev) (r' : Nat) : gReg (setK c r v d) c r' = gReg d c r' := by simp [gReg, setK]
@[simp] theorem gReg_setSr (c n : Nat) (v : Word) (d : Dev) (r' : Nat) : gReg (setSr c n v d) c r' = gReg d c r' := by simp [gReg, setSr]
@[simp] theorem gReg_setPc (c : Nat) (v : Word) (d : Dev) (r' : Nat) : gReg (setPc c v d) c r' = gReg d c r' := by simp [gReg, setPc]
@[simp] theorem fReg_setPc (c : Nat) (v : Word) (d : Dev) (r' : Nat) : fReg (setPc c v d) c r' = fReg d c r' := by simp [fReg, setPc]
@[simp] theorem vReg_setPc (c : Nat) (v : Word) (d : Dev) (r' : Nat) : vReg (setPc c v d) c r' = vReg d c r' := by simp [vReg, setPc]
@[simp] theorem kReg_setPc (c : Nat) (v : Word) (d : Dev) (r' : Nat) : kReg (setPc c v d) c r' = kReg d c r' := by simp [kReg, setPc]
@[simp] theorem sr_setPc (c : Nat) (v : Word) (d : Dev) (n : Nat) : sr (setPc c v d) c n = sr d c n := by simp [sr, setPc]
@[simp] theorem fReg_setSr (c n : Nat) (v : Word) (d : Dev) (r' : Nat) : fReg (setSr c n v d) c r' = fReg d c r' := by simp [fReg, setSr]
@[simp] theorem vReg_setSr (c n : Nat) (v : Word) (d : Dev) (r' : Nat) : vReg (setSr c n v d) c r' = vReg d c r' := by simp [vReg, setSr]
@[simp] theorem kReg_setSr (c n : Nat) (v : Word) (d : Dev) (r' : Nat) : kReg (setSr c n v d) c r' = kReg d c r' := by simp [kReg, setSr]
@[simp] theorem pcOf_setSr (c n : Nat) (v : Word) (d : Dev) : pcOf (setSr c n v d) c = pcOf d c := by simp [pcOf, setSr]
@[simp] theorem pcOf_setFR (c r : Nat) (v : Word) (d : Dev) : pcOf (setFR c r v d) c = pcOf d c := by simp [pcOf, setFR]
@[simp] theorem sr_setFR (c r : Nat) (v : Word) (d : Dev) (n : Nat) : sr (setFR c r v d) c n = sr d c n := by simp [sr, setFR]


end Sys2Proof.Machine

namespace Sys2Proof.Safety

open Sys2Proof.Machine

/-! ### Frames -/

/-- A frame with nothing listed, which also keeps the program counter. -/
structure Still (d t : Dev) (c : Nat) : Prop where
  fr : Frame d t c [] [] [] [] []
  un : Units d t
  pc : pcOf t c = pcOf d c

theorem Units.refl (d : Dev) : Units d d := ⟨rfl, rfl, rfl, rfl⟩
theorem Units.trans {d e t : Dev} (h : Units d e) (q : Units e t) : Units d t :=
  ⟨q.caches.trans h.caches, q.regs.trans h.regs, q.homes.trans h.homes, q.queues.trans h.queues⟩

theorem Frame.refl (d : Dev) (c : Nat) (a b e f g : List Nat) : Frame d d c a b e f g := by constructor <;> intros <;> rfl

theorem Frame.trans_still {d e t : Dev} {c : Nat} {a b x y z : List Nat} (h : Frame d e c a b x y z) (q : Still e t c) :
    Frame d t c a b x y z where
  g r m := (q.fr.g r (by simp)).trans (h.g r m)
  f r m := (q.fr.f r (by simp)).trans (h.f r m)
  v r m := (q.fr.v r (by simp)).trans (h.v r m)
  k r m := (q.fr.k r (by simp)).trans (h.k r m)
  sr n m o := (q.fr.sr n (by simp) o).trans (h.sr n m o)
  others c' m := (q.fr.others c' m).trans (h.others c' m)
  mem a := (q.fr.mem a).trans (h.mem a)

theorem Frame.weaken {d t : Dev} {c : Nat} (a b x y z : List Nat) (h : Frame d t c [] [] [] [] []) : Frame d t c a b x y z where
  g r _ := h.g r (by simp)
  f r _ := h.f r (by simp)
  v r _ := h.v r (by simp)
  k r _ := h.k r (by simp)
  sr n _ o := h.sr n (by simp) o
  others := h.others
  mem := h.mem

theorem Frame.comp {d e t : Dev} {c : Nat} {a b x y z : List Nat} (h : Frame d e c a b x y z) (q : Frame e t c a b x y z) :
    Frame d t c a b x y z where
  g r m := (q.g r m).trans (h.g r m)
  f r m := (q.f r m).trans (h.f r m)
  v r m := (q.v r m).trans (h.v r m)
  k r m := (q.k r m).trans (h.k r m)
  sr n m o := (q.sr n m o).trans (h.sr n m o)
  others c' m := (q.others c' m).trans (h.others c' m)
  mem a := (q.mem a).trans (h.mem a)


end Sys2Proof.Safety

namespace Sys2Proof.Machine

open KMap
open Sys2Proof.Safety

theorem still_refl (d : Dev) (c : Nat) : Still d d c := ⟨Frame.refl d c _ _ _ _ _, ⟨rfl, rfl, rfl, rfl⟩, rfl⟩
theorem still_trans {d e f : Dev} {c : Nat} (h : Still d e c) (h' : Still e f c) : Still d f c :=
  ⟨h.fr.trans_still h', h.un.trans h'.un, h'.pc.trans h.pc⟩

theorem still_ofArch {d t : Dev} {c : Nat} (ha : ∀ c', arch t c' = arch d c') (h1 : t.mem = d.mem) (h2 : t.caches = d.caches)
    (h3 : t.regs = d.regs) (h4 : t.homes = d.homes) (h5 : t.queues = d.queues) : Still d t c where
  fr := { g := fun r _ => gReg_congr (ha c) r, f := fun r _ => fReg_congr (ha c) r, v := fun r _ => vReg_congr (ha c) r,
          k := fun r _ => kReg_congr (ha c) r, sr := fun n _ _ => sr_congr (ha c) n, others := fun c' _ => ha c',
          mem := fun a => by simp [memByte, h1] }
  un := ⟨h2, h3, h4, h5⟩
  pc := pcOf_congr (ha c)

theorem still_updCore {c c0 : Nat} {f : CoreSt → CoreSt} (d : Dev) (h : ∀ x, (f x).arch = x.arch) : Still d (updCore c0 f d) c :=
  still_ofArch (fun c' => arch_updCore d c' h) rfl rfl rfl rfl rfl

theorem still_forAll {α : Type} (l : List α) (f : α → Dev → Dev) (d : Dev) (c : Nat) (h : ∀ a ∈ l, ∀ e, Still e (f a e) c) :
    Still d (Sys2Proof.Machine.forAll l f d) c := by
  induction l generalizing d with
  | nil => exact still_refl _ _
  | cons a l ih =>
    simp only [Sys2Proof.Machine.forAll, List.foldl_cons]
    exact still_trans (h a (by simp) d) (ih _ (fun b hb => h b (by simp [hb])))

theorem frame_setSr (c n : Nat) (v : Word) (d : Dev) : Frame d (setSr c n v d) c [] [] [] [] [n] where
  g r _ := by simp
  f r _ := by simp
  v r _ := by simp
  k r _ := by simp
  sr m q _ := sr_setSr_other _ _ _ _ (by simpa using q)
  others c' q := by simp [setSr, arch_updArch_other _ _ _ q]
  mem _ := rfl

theorem frame_setG (c r : Nat) (v : Word) (d : Dev) : Frame d (setG c r v d) c [r] [] [] [] [] where
  g r' q := gReg_setG_other _ _ _ _ (by simpa using q)
  f r _ := by simp
  v r _ := by simp
  k r _ := by simp
  sr m q _ := by simp
  others c' q := by by_cases h : r = 0 <;> simp [setG, h, arch_updArch_other _ _ _ q]
  mem _ := by by_cases h : r = 0 <;> simp [setG, h, updArch]

theorem still_setPmc (c n : Nat) (v : Word) (d : Dev) (h : isPmc n = true) : Still d (setSr c n v d) c where
  fr := { frame_setSr c n v d with sr := fun m _ q => sr_setSr_other _ _ _ _ (by rintro rfl; simp_all) }
  un := ⟨rfl, rfl, rfl, rfl⟩
  pc := by simp

theorem still_pmcAdd (c n k : Nat) (hn : n < 8) (d : Dev) : Still d (pmcAdd c n k d) c := by
  have h1 : isPmc (Sr.PMC0 + n) = true := by simp [isPmc, hn]
  have h2 : isPmc Sr.PMCTL = true := by simp [isPmc]
  unfold Sys2Proof.Machine.pmcAdd
  dsimp only
  split
  · exact still_setPmc _ _ _ _ h1
  · exact still_trans (still_trans (still_setPmc _ _ _ _ h1) (still_setPmc _ _ _ _ h2)) (still_ofArch (fun c' => rfl) rfl rfl rfl rfl rfl)

/-- Counting events changes the counters and nothing else that a frame speaks of. -/
theorem still_pmcCount (c : Nat) (evs : List (Nat × Nat)) (d : Dev) : Still d (pmcCount c evs d) c := by
  unfold Sys2Proof.Machine.pmcCount
  split
  · exact still_refl _ _
  · refine still_forAll _ _ _ _ (fun n hn e => ?_)
    rw [List.mem_range] at hn
    split
    · exact still_refl _ _
    · dsimp only
      split
      · have h : Still e (drawn e) c := still_ofArch (fun c' => rfl) rfl rfl rfl rfl rfl
        exact still_trans h (still_pmcAdd _ _ _ hn _)
      · split
        · split
          · exact still_refl _ _
          · exact still_pmcAdd _ _ _ hn _
        · exact still_refl _ _

theorem still_paceTake (c n : Nat) (d : Dev) : Still d (paceTake c n d) c := by
  unfold Sys2Proof.Machine.paceTake
  split
  · exact still_refl _ _
  · exact still_updCore _ (fun x => rfl)

theorem frame_setPc (c : Nat) (v : Word) (d : Dev) : Frame d (setPc c v d) c [] [] [] [] [] where
  g r _ := by simp
  f r _ := by simp
  v r _ := by simp
  k r _ := by simp
  sr m q _ := by simp
  others c' q := by simp [setPc, arch_updArch_other _ _ _ q]
  mem _ := rfl

/-! ### Retirement and the instruction around its effect -/

theorem still_winClear (c : Nat) (d : Dev) : Still d (winClear c d) c := still_updCore _ (fun _ => rfl)

/-- What follows the setting of the program counter at a retirement without a single step. -/
theorem retire_tail (c : Nat) (r : Ret) (e : Dev) : Still e
    ((fun d2 => if isLeader d2 c then
      Sys2Proof.Machine.updCore c (fun x => if r.sync then { x with grp := 0, snap := some x.arch } else { x with grp := x.grp + 1 }) d2
    else d2) (Sys2Proof.Machine.pmcCount c ((1, 1) :: (2, r.uops) :: r.evs) e)) c := by
  refine still_trans (still_pmcCount c ((1, 1) :: (2, r.uops) :: r.evs) e) ?_
  dsimp only
  split
  · exact still_updCore _ (fun x => by split <;> rfl)
  · exact still_refl _ _

/-- A retirement without a single step changes the program counter and the counters, and nothing else that a frame speaks of. -/
theorem retire_frame (c n : Nat) (r : Ret) (d : Dev) : Frame d (retire c n false r d) c [] [] [] [] [] := by
  unfold retire
  simp only [Bool.false_eq_true, if_false]
  exact ((still_paceTake c n d).fr.comp (frame_setPc c _ _)).trans_still (retire_tail c r _)

theorem retire_units (c n : Nat) (r : Ret) (d : Dev) : Units d (retire c n false r d) := by
  unfold retire
  simp only [Bool.false_eq_true, if_false]
  have h : Units (Sys2Proof.Machine.paceTake c n d) (setPc c (r.npc.getD (pcOf d c + 4)) (Sys2Proof.Machine.paceTake c n d)) :=
    ⟨rfl, rfl, rfl, rfl⟩
  exact ((still_paceTake c n d).un.trans h).trans (retire_tail c r _).un

theorem retire_pc (c n : Nat) (r : Ret) (d : Dev) : pcOf (retire c n false r d) c = r.npc.getD (pcOf d c + 4) := by
  unfold retire
  simp only [Bool.false_eq_true, if_false]
  rw [(retire_tail c r _).pc]
  simp

/-- An instruction that begins at `d` and whose effect succeeds retires from where its effect ends. -/
theorem instr_begins {s : State} {c : Nat} {d d2 : Dev} {tokens : Dev → Nat} {body : Act Ret} {r : Ret} (h : Begins s c d)
    (hb : body d = (d2, .ok r)) : instr c tokens body s.dev = retire c (tokens d) false r (winClear c d2) := by
  obtain ⟨h1, h2, h3⟩ := h
  simp only [coreReady, Bool.and_eq_true] at h1
  obtain ⟨⟨⟨⟨a1, a2⟩, a3⟩, a4⟩, a5⟩ := h1
  rw [Option.isNone_iff_eq_none] at a3
  unfold begun at h2
  unfold instr
  simp only [a1, a2, a3, a4, Bool.not_true, Bool.or_false, Bool.false_eq_true, if_false]
  split at a5
  · next q =>
    rw [q] at h2
    simp only at h2
    subst h2
    simp only [q, hb, h3]
  · cases a5

/-- An instruction that begins at `d` and whose effect meets an exception takes it. -/
theorem instr_exn {s : State} {c : Nat} {d d2 : Dev} {tokens : Dev → Nat} {body : Act Ret} {e : Exn} (h : Begins s c d)
    (hb : body d = (d2, .exn e)) : instr c tokens body s.dev = takeExn c e (winClear c d2) := by
  obtain ⟨h1, h2, h3⟩ := h
  simp only [coreReady, Bool.and_eq_true] at h1
  obtain ⟨⟨⟨⟨a1, a2⟩, a3⟩, a4⟩, a5⟩ := h1
  rw [Option.isNone_iff_eq_none] at a3
  unfold begun at h2
  unfold instr
  simp only [a1, a2, a3, a4, Bool.not_true, Bool.or_false, Bool.false_eq_true, if_false]
  split at a5
  · next q =>
    rw [q] at h2
    simp only at h2
    subst h2
    simp only [q, hb]
  · cases a5

theorem units_setG (c r : Nat) (v : Word) (d : Dev) : Units d (setG c r v d) := by
  by_cases h : r = 0 <;> simp only [setG, h, if_true, if_false] <;> exact ⟨rfl, rfl, rfl, rfl⟩

theorem still_genSync (d0 d : Dev) (c : Nat) : Still d (genSync d0 d) c := still_ofArch (fun _ => rfl) rfl rfl rfl rfl rfl

/-- An ordinary instruction whose effect at `d` writes general register `rd` and nothing else. -/
theorem writesG_instr1 {i : Instr} {s : State} {c : Nat} {d : Dev} {rd : BitVec 5} {v : Word} {body : Act Ret}
    (h : Begins s c d) (he : exec i s = onDev s (instr1 c body)) (hb : body d = (setG c rd.toNat v d, .ok Ret.plain)) :
    WritesG i s c d rd v := by
  refine ⟨_, he, rfl, ?_⟩
  simp only [instr1, instr_begins h hb]
  have hg := (((frame_setG c rd.toNat v d).trans_still (still_winClear c _)).comp
    ((retire_frame c 1 Ret.plain _).weaken [rd.toNat] [] [] [] [])).trans_still (still_genSync s.dev _ c)
  have hu := (((units_setG c rd.toNat v d).trans (still_winClear c _).un).trans (retire_units c 1 Ret.plain _)).trans
    (still_genSync s.dev _ c).un
  refine ⟨?_, ?_, hg, hu⟩
  · rw [(still_genSync s.dev _ c).fr.g _ (by simp), (retire_frame c 1 _ _).g _ (by simp), (still_winClear c _).fr.g _ (by simp),
      gReg_setG_same]
    rcases rd with ⟨rd⟩
    simp [← BitVec.toNat_inj]
  · show pcOf _ c = _
    rw [(still_genSync s.dev _ c).pc, retire_pc, (still_winClear c _).pc, pcOf_setG]
    rfl

end Sys2Proof.Machine
end

