-- ==== Sys2Proof/Laws/Fields.lean ====
section
/-! SUPPORT. Laws of bit fields: what a field reads as after it, or a field apart from it, was set. -/

namespace Sys2Proof

theorem getF_eq_extract (f : Fld) (w : Word) : getF f w = (w.toNat >>> f.lo) % 2 ^ f.width := rfl

theorem Fld.mask_getLsbD (f : Fld) (i : Nat) (h : i < 64) : f.mask.getLsbD i = (decide (f.lo ≤ i) && decide (i < f.lo + f.width)) := by
  simp only [Fld.mask, BitVec.getLsbD_ofNat, h, decide_true, Bool.true_and, Nat.testBit_shiftLeft, Nat.testBit_two_pow_sub_one]
  by_cases h1 : f.lo ≤ i
  · simp [h1]; omega
  · simp [h1]

/-- Bit `i` of a field's value. -/
theorem testBit_getF (f : Fld) (w : Word) (i : Nat) : (getF f w).testBit i = (decide (i < f.width) && w.getLsbD (f.lo + i)) := by
  simp [getF, Nat.testBit_mod_two_pow, Nat.testBit_shiftRight, BitVec.getLsbD]

/-- A bit of the word with a field set: the new value's inside the field, the old one outside. -/
theorem getLsbD_setF (f : Fld) (v : Nat) (w : Word) (i : Nat) (h : i < 64) :
    (setF f v w).getLsbD i = if f.mask.getLsbD i then (v <<< f.lo).testBit i else w.getLsbD i := by
  unfold setF
  rw [BitVec.getLsbD_or, BitVec.getLsbD_and, BitVec.getLsbD_and, BitVec.getLsbD_not, BitVec.getLsbD_ofNat]
  cases f.mask.getLsbD i <;> simp [h]

/-- A field reads as the low bits of what it was set to. -/
theorem getF_setF_same (f : Fld) (v : Nat) (w : Word) (h : f.lo + f.width ≤ 64) : getF f (setF f v w) = v % 2 ^ f.width := by
  apply Nat.eq_of_testBit_eq
  intro i
  rw [testBit_getF, Nat.testBit_mod_two_pow]
  by_cases hi : i < f.width
  · have h64 : f.lo + i < 64 := by omega
    rw [getLsbD_setF _ _ _ _ h64, Fld.mask_getLsbD _ _ h64]; simp [hi]
  · simp [hi]

/-- A field that shares no bit with the one set reads as before. -/
theorem getF_setF_other (f g : Fld) (v : Nat) (w : Word) (h : g.lo + g.width ≤ f.lo ∨ f.lo + f.width ≤ g.lo) (hg : g.lo + g.width ≤ 64) :
    getF g (setF f v w) = getF g w := by
  apply Nat.eq_of_testBit_eq
  intro i
  rw [testBit_getF, testBit_getF]
  by_cases hi : i < g.width
  · have h64 : g.lo + i < 64 := by omega
    have hm : f.mask.getLsbD (g.lo + i) = false := by
      rw [Fld.mask_getLsbD _ _ h64]; simp; omega
    simp [getLsbD_setF _ _ _ _ h64, hm]
  · simp [hi]

/-- A one-bit field reads as the truth value it was set to. -/
theorem getB_setB_same (f : Fld) (b : Bool) (w : Word) (hw : 0 < f.width) (h : f.lo + f.width ≤ 64) : getB f (setB f b w) = b := by
  have : 1 < 2 ^ f.width := Nat.one_lt_two_pow (by omega)
  cases b <;> simp [getB, setB, getF_setF_same _ _ _ h, b2n, Nat.mod_eq_of_lt this]

theorem getB_setB_other (f g : Fld) (b : Bool) (w : Word) (h : g.lo + g.width ≤ f.lo ∨ f.lo + f.width ≤ g.lo) (hg : g.lo + g.width ≤ 64) :
    getB g (setB f b w) = getB g w := by simp [getB, setB, getF_setF_other _ _ _ _ h hg]

end Sys2Proof
end

