-- ==== Sys2Proof/Laws/Memory.lean ====
section
/-! SUPPORT. Laws of DRAM: what a byte reads as after each operation that writes memory, and that each of them keeps the canonical
form. -/

namespace Sys2Proof.Machine

open KMap

/-- The byte that a list of cells gives for an address. -/
abbrev memAt (m : List Host.Cell) (a : Nat) : Byte := look memByte0 m a

/-! ### Reading after writing -/

@[simp] theorem memAt_memPut_same (m : List Host.Cell) (a : Nat) (b : Byte) : memAt (memPut m a b) a = b :=
  look_put_same _ _ _ _

theorem memAt_memPut_other (m : List Host.Cell) {a x : Nat} (b : Byte) (h : x ≠ a) : memAt (memPut m a b) x = memAt m x :=
  look_put_other _ _ _ _ h

/-- A byte outside the written range reads as before. -/
theorem memAt_memPutAll_other (m : List Host.Cell) (l : List Byte) {a x : Nat} (h : x < a ∨ a + l.length ≤ x) :
    memAt (memPutAll m a l) x = memAt m x := by
  induction l generalizing m a with
  | nil => rfl
  | cons b r ih =>
    simp only [List.length_cons] at h
    rw [memPutAll, ih _ (by omega), memAt_memPut_other _ _ (by omega)]

/-- A byte inside the written range reads as what was written there. -/
theorem memAt_memPutAll_same (m : List Host.Cell) (l : List Byte) (a i : Nat) (h : i < l.length) :
    memAt (memPutAll m a l) (a + i) = l[i] := by
  induction l generalizing m a i with
  | nil => simp at h
  | cons b r ih =>
    cases i with
    | zero => rw [memPutAll, memAt_memPutAll_other _ _ (by omega)]; simp
    | succ i =>
      have := ih (memPut m a b) (a + 1) i (by simpa using h)
      simpa [memPutAll, Nat.add_assoc, Nat.add_comm 1 i] using this

theorem look_filter_keep {α : Type} (d : α) (m : KMap α) (p : Nat → Bool) (k : Nat) (h : p k = true) :
    look d (m.filter (fun e => p e.1)) k = look d m k := by
  induction m with
  | nil => rfl
  | cons e r ih =>
    obtain ⟨a, v⟩ := e
    by_cases hk : a = k <;> by_cases hp : p a = true <;> simp_all [look]

theorem look_filter_gone {α : Type} (d : α) (m : KMap α) (p : Nat → Bool) (k : Nat) (h : p k = false) :
    look d (m.filter (fun e => p e.1)) k = d := by
  induction m with
  | nil => rfl
  | cons e r ih =>
    obtain ⟨a, v⟩ := e
    by_cases hk : a = k <;> by_cases hp : p a = true <;> simp_all [look]

/-- Every byte of a dropped range reads as unlisted memory does, and every other as before. -/
theorem memAt_memDrop (m : List Host.Cell) (lo hi x : Nat) :
    memAt (memDrop m lo hi) x = if lo ≤ x ∧ x < hi then memByte0 else memAt m x := by
  unfold memDrop
  split
  · exact look_filter_gone _ _ (fun k => !(decide (lo ≤ k) && decide (k < hi))) _ (by simp_all)
  · exact look_filter_keep _ _ (fun k => !(decide (lo ≤ k) && decide (k < hi))) _ (by simp; omega)

/-! ### The canonical form -/

theorem wf_memPut {m : List Host.Cell} (a : Nat) (b : Byte) (h : Memory.wf m) : Memory.wf (memPut m a b) :=
  wf_put (df := fun _ => memByte0) a b h

theorem wf_memPutAll {m : List Host.Cell} (a : Nat) (l : List Byte) (h : Memory.wf m) : Memory.wf (memPutAll m a l) := by
  induction l generalizing m a with
  | nil => exact h
  | cons b r ih => exact ih _ (wf_memPut a b h)

theorem wf_memDrop {m : List Host.Cell} (lo hi : Nat) (h : Memory.wf m) : Memory.wf (memDrop m lo hi) := wf_filter _ h

/-- Writing bytes one after another, each at a place of its own, keeps the canonical form. -/
theorem wf_foldl_memPut {α : Type} (l : List α) (f : List Host.Cell → α → Nat) (g : List Host.Cell → α → Byte) {m : List Host.Cell}
    (h : Memory.wf m) : Memory.wf (l.foldl (fun m i => memPut m (f m i) (g m i)) m) := by
  induction l generalizing m with
  | nil => exact h
  | cons x r ih => exact ih (wf_memPut _ _ h)

/-- Memory after reset is in canonical form. -/
theorem wf_reset : Memory.wf State.reset.dev.mem := rfl

/-! ### The operations of a port -/

@[simp] theorem markWritten_mem (k la : Nat) (d : Dev) : (markWritten k la d).mem = d.mem := by
  unfold markWritten; split <;> rfl

@[simp] theorem storeLine_mem (la : Nat) (p : Bool) (l : List Byte) (d : Dev) :
    (storeLine la p l d).mem = memPutAll d.mem la l := by simp [storeLine]

/-- Storing a line writes its bytes and no other. -/
theorem memByte_storeLine_other (la : Nat) (p : Bool) (l : List Byte) (d : Dev) {x : Nat} (h : x < la ∨ la + l.length ≤ x) :
    memByte (storeLine la p l d) x = memByte d x := by
  simpa [memByte] using memAt_memPutAll_other d.mem l h

theorem wf_storeLine (la : Nat) (p : Bool) (l : List Byte) {d : Dev} (h : Memory.wf d.mem) : Memory.wf (storeLine la p l d).mem := by
  simpa using wf_memPutAll la l h

/-- An armed injection keeps the canonical form. -/
theorem wf_injectAt (la : Nat) {d : Dev} (h : Memory.wf d.mem) : Memory.wf (injectAt la d).mem := by
  unfold injectAt
  simp only
  split
  · exact h
  · exact wf_foldl_memPut _ (fun _ i => la + i) (fun _ i => memByte d (la + i) ^^^ 1#8) h

end Sys2Proof.Machine
end

