-- ==== Sys2Proof/Tests/Slice0.lean ====
section
/-! SUPPORT. Tests of the model: ill-formed commands that well-formedness refuses, single steps with results computed by hand from the
spec, and for each statement a state and operands that meet its hypotheses. -/

namespace Sys2Proof.Tests

set_option Elab.async false

open Sys2Proof Sys2Proof.Machine Sys2Proof.Safety

/-! ### Small states -/

/-- A device with nothing waiting. -/
abbrev st (d : Dev) : State := ⟨d, []⟩

/-- A device whose package 0 has 1 GiB of usable DRAM that its first firewall region opens to every partition of the secure world. -/
def devM : Dev :=
  wr 0 (Reg.FW_MASK 0 0) (BitVec.allOnes 64) (wr 0 (Reg.FW_LIMIT 0 0) (setF Fl.FW_LIMIT_LIMIT 512 0)
    (wr 0 (Reg.FW_CFG 0 0) 7 (wr 0 Reg.MEMMAP (setF Fl.MEMMAP_USABLE_GIB 1 0) (Dev.resetOf SysCfg.default))))

/-- A package of one die, for what reaches every unit of a package. -/
def dev1 : Dev := Dev.resetOf ⟨[1, 0, 0, 0], 0, []⟩

/-- The first device with core 0 running at 0x1000, whose line L1I holds, with general and system registers as given. -/
def coreD (g sr : KMap Word) : Dev :=
  updCache 0 (fun x => { x with l1i := [lineKey 0x1000 false] })
    (updCore 0 (fun x => { x with run := true, arch := { Arch.init with pc := 0x1000, g := g, sr := sr } }) devM)

/-- The decidable form of a core that begins an instruction with nothing to resolve. -/
theorem begins {d : Dev} {c : Nat} (h : (coreReady d c && begun d c == d && !getB Ps.SS (pstate d c)) = true) : Begins (st d) c d := by
  simp only [Bool.and_eq_true, Bool.not_eq_true', beq_iff_eq] at h
  exact ⟨h.1.1, h.1.2, h.2⟩

/-! ### Witnesses: the base instructions -/

/-- The smallest and the largest word, zero, and small numbers in g1 to g6. -/
def dI : Dev := coreD [(1, 0x8000000000000000), (2, 0xFFFFFFFFFFFFFFFF), (4, 5), (5, 7), (6, 0x2000)] []

theorem begins_dI : Begins (st dI) 0 dI := begins (by decide +kernel)

theorem witness_IntegerResultRules : Begins (st dI) 0 dI ∧ gReg dI 0 1 = BitVec.intMin 64 ∧ gReg dI 0 2 = BitVec.allOnes 64 ∧ gReg dI 0 3 = 0
    ∧ BitVec.ofNat 32 (gReg dI 0 1).toNat = 0 := ⟨begins_dI, by decide +kernel⟩

theorem witness_BaseIntegerResults : Begins (st dI) 0 dI ∧ intResult 0 5 (gReg dI 0 4) (gReg dI 0 5) = some 12
    ∧ mulResult 0 (gReg dI 0 4) (gReg dI 0 5) = some 35 ∧ addiResult 0 (gReg dI 0 4) 0x3FFF = some 4
    ∧ (logiResult 0 (gReg dI 0 4) 1).isSome = true ∧ (shiftiResult 0 (gReg dI 0 4) 63).isSome = true ∧ (cmpiResult 0 (gReg dI 0 4) 6).isSome = true
    ∧ (orhiResult 0 (gReg dI 0 4) 1).isSome = true ∧ intResult 0x7FF 5 (gReg dI 0 4) (gReg dI 0 5) = none
    ∧ mulResult 0x7FF (gReg dI 0 4) (gReg dI 0 5) = none := ⟨begins_dI, by decide +kernel⟩

/-- A trap of the invalid-operation flag enabled in FCSR, and a signalling NaN in f1. -/
def dF : Dev := setFR 0 1 0x7FF0000000000001 (coreD [] [(Sr.FCSR, 0x1F00)])

theorem witness_FloatingPointResults : Begins (st dI) 0 dI ∧ Begins (st dF) 0 dF
    ∧ fmtOf 0 = some SF.b64 ∧ fmtOf 1 = some SF.b32 ∧ rmBad dI 0 = false ∧ rmBad dF 0 = false
    ∧ (∃ v fl, fpOp SF.b64 (fcsrRm dI 0) 0 (fVal dI 0 SF.b64 0) (fVal dI 0 SF.b64 0) = some (v, fl) ∧ fl &&& bitsOf (sr dI 0 Sr.FCSR) 12 8 = 0)
    ∧ (∃ v fl, fpOp SF.b64 (fcsrRm dF 0) 0 (fVal dF 0 SF.b64 1) (fVal dF 0 SF.b64 1) = some (v, fl) ∧ fl &&& bitsOf (sr dF 0 Sr.FCSR) 12 8 ≠ 0) :=
  ⟨begins_dI, begins (by decide +kernel), by decide +kernel, by decide +kernel, by decide +kernel, by decide +kernel,
   ⟨0, 0, by decide +kernel⟩, ⟨0x7FF8000000000000, 16, by decide +kernel⟩⟩

/-! ### Witnesses: loads, stores, atomics, maintenance -/

/-- A line that L2 holds in M. -/
def lineM : L2Line := ⟨.M, 0x0807060504030201, 0, 0, 0, .home 0⟩
/-- A byte's entry in the store buffer, for that line. -/
def sbE : SbEnt := ⟨0x2004, 1, 0xAA, ⟨0, false⟩, false, false, false⟩
/-- An answered request of core 0 about the line of address 0x2000. -/
def doneMiss (op : COp) (arg : Nat) : Miss :=
  ⟨Msg.mk' op (.core 0) (.home 0) 1 0x2000 ⟨0, false⟩, false, none, some { Msg.mk' .comp (.home 0) (.core 0) 1 0x2000 ⟨0, false⟩ with arg := arg }⟩
/-- L1I is empty and L2 holds the line of the program counter, its first granule poisoned. -/
def dFe (poison : BitVec 8) : Dev := updCache 0 (fun x => { x with l1i := [], l2 := [(lineKey 0x1000 false, some { lineM with poison := poison })] }) dI

/-- A fetch brings its line into L1I; one of a poisoned granule takes exception 0x10 (R87, R144, R486). -/
theorem test_fetch_fills_L1I : (cacheSt (fetch 0 (dFe 0)).1 0).l1i = [lineKey 0x1000 false] ∧ (fetch 0 (dFe 0)).2 = .ok () := by decide +kernel
theorem test_fetch_of_poison : (cacheSt (fetch 0 (dFe 1)).1 0).l1i = [] ∧ (fetch 0 (dFe 1)).2 = .exn (exPoison 0x1000)
    ∧ (fetch 0 (dFe 2)).2 = .ok () := by decide +kernel

/-- Core 0 holds the line of address 0x2000; g6 is that address. -/
def dL : Dev := updCache 0 (fun x => { x with l2 := [(lineKey 0x2000 false, some lineM)] }) dI
def xl2000 : Xl := ⟨0x2000, 0, false, false⟩

theorem begins_dL : Begins (st dL) 0 dL := begins (by decide +kernel)
theorem hit_dL : StoreHit dL 0 0x2000 xl2000 lineM 0 0x2000 := by unfold StoreHit; decide +kernel

theorem witness_LoadsWriteWhatTheyRead : Begins (st dL) 0 dL ∧ effAddr dL 0 6 0 = 0x2000 ∧ mLegal 4 4 = true ∧ effAddr dL 0 6 0xFFF = 0x1FFF
    ∧ (loadVal 0 0x2000 8 dL).2 = .ok 0x0807060504030201 ∧ (loadVal 0 0x2000 16 dL).2 = .ok 0x0807060504030201
    ∧ fldFmt 3 = some SF.b64 ∧ translate 0 0x203F .load dL = (dL, .ok { xl2000 with pa := 0x203F }) ∧ regionOf 0x203F = .dram 0 0x203F
    ∧ dramAdmits dL (xlWho dL 0 xl2000) .r 0x203F = true ∧ (cacheSt dL 0).sb = [] ∧ l2Line dL 0 (lineKey 0x203F false) = some lineM
    ∧ poisonRead lineM.poison 63 1 = false := ⟨begins_dL, by decide +kernel⟩

theorem witness_StoresEnterTheStoreBuffer : Begins (st dL) 0 dL ∧ StoreHit dL 0 (effAddr dL 0 6 0) xl2000 lineM 0 0x2000
    ∧ mLegal 4 4 = true ∧ (fldFmt 3).isSome = true ∧ (cacheSt dL 0).sb = [] := ⟨begins_dL, by unfold StoreHit; decide +kernel⟩

/-- Two entries of the same line wait; the older one may go. -/
def dSb : Dev := updCache 0 (fun x => { x with sb := [sbE, sbE] }) dL

theorem witness_StoreBufferDrain : (cacheSt dSb 0).sb[0]? = some sbE ∧ 0 + 1 + (cacheSt dSb 0).sbHeld ≤ (cacheSt dSb 0).sb.length
    ∧ ((cacheSt dSb 0).sb.take 0).any (fun y => y.key == sbE.key) = false ∧ l2Line dSb 0 sbE.key = some lineM ∧ lineM.st.writable = true := by
  decide +kernel

theorem witness_AtomicOnAHeldLine : Begins (st dL) 0 dL ∧ amoFields 0x030 7 5 = some (.add, 8, 0, false)
    ∧ StoreHit dL 0 (gReg dL 0 6) xl2000 lineM 0 0x2000 ∧ (gReg dL 0 6).toNat % 8 = 0 ∧ poisonRead lineM.poison 0 8 = false
    ∧ (gReg dL 0 5).toNat % 8 ≠ 0 ∧ isLeader dL 0 = false := ⟨begins_dL, by unfold StoreHit; decide +kernel⟩

/-- Answers to the three maintenance requests have arrived. -/
def dCmo : Dev := updCache 0 (fun x => { x with miss := [doneMiss .cmoClean 0, doneMiss .cmoInv 0, doneMiss .cmoFlush 0] }) dL

theorem witness_CacheMaintenanceCompletes : Begins (st dCmo) 0 dCmo
    ∧ translate 0 (effAddr dCmo 0 6 0) (cmoKind (cmoEff dCmo 0 1)) dCmo = (dCmo, .ok xl2000) ∧ dramAdmits dCmo (xlWho dCmo 0 xl2000) .rw 0x2000 = true
    ∧ ((takeResult 0 (lineKey 0x2000 false) .cmoClean dCmo).isSome = true ∧ (takeResult 0 (lineKey 0x2000 false) .cmoInv dCmo).isSome = true
      ∧ (takeResult 0 (lineKey 0x2000 false) .cmoFlush dCmo).isSome = true)
    ∧ (gReg dCmo 0 6).toNat % 4096 + (gReg dCmo 0 4).toNat ≤ 4096 ∧ gReg dCmo 0 4 ≠ 0
    ∧ (cmoPage 0 (cmoEff dCmo 0 0) 6 4 dCmo).2 = .ok () := ⟨begins (by decide +kernel), by decide +kernel⟩

/-- L1D holds one line, in the set that its free index gives; g1 names that set. -/
def dSw (k : Nat) : Dev :=
  updCache 0 (fun x => { x with l1d := [k] }) (coreD [(1, BitVec.ofNat 64 (Config.l1dSet k % 128 * 16))] [])

theorem witness_CmoSw (k : Nat) : bitsOf (BitVec.ofNat 64 (Config.l1dSet k % 128 * 16)) 21 20 = 0
    ∧ [k].filter (fun k => Config.l1dSet k % 128 == bitsOf (BitVec.ofNat 64 (Config.l1dSet k % 128 * 16)) 19 4) = [k] := by
  have h : Config.l1dSet k % 128 < 128 := Nat.mod_lt _ (by decide)
  generalize Config.l1dSet k % 128 = n at h ⊢
  constructor
  · simp [bitsOf, getF, Fld.width, Nat.shiftRight_eq_div_pow]; omega
  · simp [bitsOf, getF, Fld.width, Nat.shiftRight_eq_div_pow]; omega

/-! ### Witnesses: control flow and the system -/

/-- Core 0 at PL0 and at PL1 of the secure world, with vector state enabled. -/
def d0 : Dev := coreD [(6, 0x2000)] [(Sr.PSTATE, 0x20)]
def d1 : Dev := coreD [(6, 0x2000)] [(Sr.PSTATE, 0x21), (Sr.copy 1 Sr.EPC, 0x4003), (Sr.copy 1 Sr.EPSTATE, 0x20)]
/-- Service 0xFFF is in the down list. -/
def dDown : Dev := wr 0 (Reg.SVC_DOWN 0) (setB Fl.SVC_DOWN_VALID true (setF Fl.SVC_DOWN_SVC 0xFFF 0)) dI

theorem begins_d0 : Begins (st d0) 0 d0 := begins (by decide +kernel)
theorem begins_d1 : Begins (st d1) 0 d1 := begins (by decide +kernel)

theorem witness_CmoSw_below_PL3 : Begins (st d0) 0 d0 ∧ plOf d0 0 ≠ 3 ∧ bitsOf (gReg d0 0 6) 21 20 ≠ 3 := ⟨begins_d0, by decide +kernel⟩

theorem witness_BranchesAndJumps : Begins (st dI) 0 dI ∧ bitsOf (gReg dI 0 6 + sext 14 0) 1 0 = 0 ∧ bitsOf (gReg dI 0 6 + sext 14 0x3FFF) 1 0 ≠ 0
    ∧ (⟨0, 3, 0⟩ : FmtB).h ≠ 0 ∧ (⟨0, 0, 1, 0⟩ : FmtI).func ≠ 0
    ∧ (coreSt (updCore 0 (fun x => { x with misp := some (5, [], true) }) dI) 0).misp = some (5, [], true) := ⟨begins_dI, by decide +kernel⟩

theorem witness_CallsEnterTheirLevel : Begins (st d0) 0 d0 ∧ plOf d0 0 = 0 ∧ Begins (st d1) 0 d1 ∧ plOf d1 0 = 1
    ∧ svcIsDown d1 0 0xFFF = false ∧ Begins (st dDown) 0 dDown ∧ 1 ≤ plOf dDown 0 ∧ svcIsDown dDown 0 0xFFF = true :=
  ⟨begins_d0, by decide +kernel, begins_d1, by decide +kernel, by decide +kernel, begins (by decide +kernel), by decide +kernel⟩

/-- Core 0 waits in WFE, to the present time; and has a pending event that it may take. -/
def dWfe : Dev := updCore 0 (fun x => { x with wfe := some 0 }) dI
def dEv : Dev := wr 0 (Reg.EVC_ROUTE 400) (setB Fl.EVC_ROUTE_EN true (setB Fl.EVC_ROUTE_PENDING true 0)) (coreD [] [(Sr.PSTATE, 0x31)])

theorem witness_ReturnWaitTimeAndFences : Begins (st d1) 0 d1 ∧ 1 ≤ plOf d1 0 ∧ eretIllegal d1 0 = false ∧ nsOf d1 0 = false
    ∧ getB Ps.NS (sr d1 0 (Sr.copy (plOf d1 0) Sr.EPSTATE)) = false ∧ anyPending d1 0 = false ∧ (cacheSt d1 0).sb = []
    ∧ (∀ x ∈ (cacheSt d1 0).miss, x.result.isSome = true) ∧ (coreSt dWfe 0).wfe = some 0 ∧ 0 ≤ nowOf dWfe 0 :=
  ⟨begins_d1, by decide +kernel⟩

theorem witness_TlbInvalidation : Begins (st dI) 0 dI ∧ 3 ≤ plOf dI 0 ∧ Begins (st d0) 0 d0 ∧ plOf d0 0 < 1 ∧ Begins (st d1) 0 d1 ∧ plOf d1 0 < 2 :=
  ⟨begins_dI, by decide +kernel, begins_d0, by decide +kernel, begins_d1, by decide +kernel⟩

theorem witness_SystemRegisterMoves : Begins (st dI) 0 dI ∧ SrReach dI 0 Sr.EVEC ∧ (srMask (srHome (plOf dI 0) Sr.EVEC)).isSome = true
    ∧ isPmc (srHome (plOf dI 0) Sr.EVEC) = false ∧ srAssigned 0xFFF = false
    ∧ Begins (st d0) 0 d0 ∧ srAssigned Sr.EVEC = true ∧ srVector Sr.EVEC = false ∧ plOf d0 0 < Sr.EVEC / 1024 :=
  ⟨begins_dI, by unfold SrReach; decide +kernel, by decide +kernel, by decide +kernel, by decide +kernel, begins_d0, by decide +kernel⟩

theorem witness_TakeEvent : coreRuns dEv 0 = true ∧ wfeOver dEv 0 = true ∧ (eligibleEv dEv 0).isSome = true := by decide +kernel

/-! ### Witnesses: queues -/

/-- Queue 0: not packed, with a ring of 256 entries and tile 0 as its head engine, open to partition 0. -/
def qs0 : QueueSt := { imageQueue 0 with ringLg := 8, pushMask := 1, popMask := 1 }
/-- An entry of eight bytes. -/
def qe0 : QEntry := ⟨0x1122334455667788, false, 64, false, false, false⟩
/-- Core 0 with queue 0 as given, the head engine's domain on and the queue table in use. -/
def dQ (q : QueueSt) : Dev :=
  { setDomState 0 0 0 (wr 0 Reg.QTAB (setB Fl.QTAB_EN true 0) dI) with queues := [(0, some q)] }

theorem begins_dQ : Begins (st (dQ qs0)) 0 (dQ qs0) := begins (by decide +kernel)

theorem witness_QueuePushesEnterTheTailWindow : Begins (st (dQ qs0)) 0 (dQ qs0) ∧ QAdmits (dQ qs0) 0 ⟨0, 3, 8, 0⟩ qs0 ∧ (cacheSt (dQ qs0) 0).sb = []
    ∧ (tailOf qs0 0).length < 8 ∧ qLegal 0 ⟨0, 3, 8, 0⟩ = true ∧ QFaultFree (dQ qs0) 0 0 ⟨0, 3, 8, 0⟩
    ∧ qFaults (dQ qs0) 0 (gReg (dQ qs0) 0 2) (nsOf (dQ qs0) 0) (coreProd (dQ qs0) 0) = true :=
  ⟨begins_dQ, by unfold QAdmits QFaultFree; decide +kernel⟩

/-- A framed queue, on which packets are opened; one whose packet core 0 has open; a packed queue; and core 0 waiting with a push. -/
def qsF : QueueSt := { qs0 with framed := true }
def qsO : QueueSt := { qsF with issued := [(⟨0, false, 0, 0⟩, 1)] }
def qsW : QueueSt := { qs0 with packed := true }
def dQw : Dev := updCore 0 (fun x => { x with qwait := some ⟨0, ⟨0, 3, 8, 0⟩, 0, false⟩ }) (dQ qs0)

theorem witness_QueueWords : Begins (st (dQ qsW)) 0 (dQ qsW) ∧ QAdmits (dQ qsW) 0 ⟨0, 3, 31, 0⟩ qsW ∧ qLegal 1 ⟨0, 3, 31, 0⟩ = true
    ∧ QFaultFree (dQ qsW) 0 1 ⟨0, 3, 31, 0⟩ ∧ (tailOf qsW 0).getLast? = none :=
  ⟨begins (by decide +kernel), by unfold QAdmits QFaultFree; decide +kernel⟩

theorem witness_QueuePackets : Begins (st (dQ qsF)) 0 (dQ qsF) ∧ qLegal 4 ⟨0, 3, 0, 0⟩ = true ∧ QFaultFree (dQ qsF) 0 4 ⟨0, 3, 0, 0⟩
    ∧ Begins (st (dQ qsO)) 0 (dQ qsO) ∧ qLegal 5 ⟨0, 3, 0, 0⟩ = true ∧ QFaultFree (dQ qsO) 0 5 ⟨0, 3, 0, 0⟩ :=
  ⟨begins (by decide +kernel), by decide +kernel, by unfold QFaultFree; decide +kernel, begins (by decide +kernel),
   by unfold QFaultFree; decide +kernel⟩

theorem witness_WaitingPush : Begins (st dQw) 0 (begun dQw 0) ∧ (∃ q' b, (coreSt dQw 0).qwait = some ⟨0, ⟨0, 3, 8, 0⟩, q', b⟩)
    ∧ QAdmits (begun dQw 0) 0 ⟨0, 3, 8, 0⟩ qs0 ∧ QFaultFree (begun dQw 0) 0 0 ⟨0, 3, 8, 0⟩ :=
  ⟨⟨by decide +kernel, rfl, by decide +kernel⟩, ⟨0, false, by decide +kernel⟩, by unfold QAdmits; decide +kernel, by unfold QFaultFree; decide +kernel⟩

/-- One entry in the head window; a framed queue with a header without payload; an empty queue. -/
def qsP : QueueSt := { qs0 with win := [qe0], tail := 1 }
def qsH : QueueSt := { qsF with win := [{ qe0 with header := true, last := true }], tail := 1 }

theorem witness_QueuePopsDeliverTheHead : Begins (st (dQ qsP)) 0 (dQ qsP) ∧ QAdmits (dQ qsP) 0 ⟨8, 3, 1, 0⟩ qsP
    ∧ engOn (dQ qsP) (headCore 0 qsP) = true ∧ (qEng (dQ qsP) (headCore 0 qsP)).slots.length < 31 ∧ qLegal 2 ⟨8, 3, 1, 0⟩ = true
    ∧ QFaultFree (dQ qsP) 0 2 ⟨8, 3, 1, 0⟩ ∧ popWhy qsP = none ∧ qsP.win = [qe0] ∧ qe0.poison = false
    ∧ popWhy qs0 = some 0 ∧ qLegal 3 ⟨24, 3, 1, 0⟩ = true ∧ QFaultFree (dQ qs0) 0 3 ⟨24, 3, 1, 0⟩
    ∧ qLegal 6 ⟨0, 3, 0, 0⟩ = true ∧ QFaultFree (dQ qsH) 0 6 ⟨0, 3, 0, 0⟩ ∧ qsH.inPkt = false
    ∧ qLegal 7 ⟨31, 3, 0, 0⟩ = true ∧ QFaultFree (dQ qs0) 0 7 ⟨31, 3, 0, 0⟩ :=
  ⟨begins (by decide +kernel), by unfold QAdmits QFaultFree; decide +kernel⟩

/-- A waiting entry of stop 5; an entry in the ring; a packer and an open packet whose times have passed. -/
def qsT : QueueSt := { qs0 with tails := [(5, [(⟨5, false, 5, 0⟩, .full 7)])] }
def qsR : QueueSt := { qs0 with ring := [qe0], tail := 1, ringBase := 0x200000 }
def qsK : QueueSt := { qs0 with packed := true, pack := some ⟨⟨5, false, 5, 0⟩, [7], false, 0, false⟩ }
def qsD : QueueSt := { qsF with opened := some ⟨⟨5, false, 5, 0⟩, some 0, 0, 0⟩, openTo := 1, win := [{ qe0 with header := true }], tail := 1 }
/-- Firewall 44 admits what firewall 0 does, and 1 µs has passed. -/
def dQt (q : QueueSt) : Dev :=
  wr 0 Reg.TIM_NOW 1000 (wr 0 (Reg.FW_MASK 44 0) 1 (wr 0 (Reg.FW_LIMIT 44 0) (setF Fl.FW_LIMIT_LIMIT 512 0) (wr 0 (Reg.FW_CFG 44 0) 7 (dQ q))))

theorem witness_QueueEngineCommands : queueAt (dQt qsT) 0 = some qsT ∧ tailOf qsT 5 = [(⟨5, false, 5, 0⟩, .full 7)] ∧ qsT.full = false
    ∧ engOn (dQt qsT) (headCore 0 qsT) = true ∧ (qEng (dQt qsT) (headCore 0 qsT)).slots.length < 32
    ∧ queueAt (dQt qsR) 0 = some qsR ∧ spillAdmits (dQt qsR) 0 qsR .r (ringPlace qsR (qsR.head + qsR.win.length)) = true
    ∧ queueAt (dQt qsK) 0 = some qsK ∧ 0 + qsK.packWait * 10 ≤ nowOf (dQt qsK) (qDie 0) ∧ qsK.full = false
    ∧ queueAt (dQt qsD) 0 = some qsD ∧ 0 - qsD.head < qsD.win.length ∧ 0 + qsD.openTo * 1000 ≤ nowOf (dQt qsD) (qDie 0) := by
  decide +kernel

/-- The image of a queue with a ring at `ring` of 2^8 entries, owned by partition 0. -/
def img (ring : Nat) : Nat := (8 <<< 8) + (ring <<< 64) + (1 <<< 128) + (1 <<< 192)
/-- Core 0, a valid core, holds the line of address 0x200000 with that image; g7 and g5 are the commands to create queue 0x1FFE and to
destroy queue 0. -/
def dQc (ring : Nat) : Dev :=
  { updCache 0 (fun x => { x with l2 := [(lineKey 0x200000 false, some { lineM with data := BitVec.ofNat 512 (img ring) })] })
      (coreD [(5, 0x40000), (7, 0x1FFE)] [(Sr.QIMG, 0x200000)]) with
    regs := (setFlg 0 (Reg.LCORE 0) Fl.LCORE_VALID true (dQt qs0)).regs, queues := [(0, some qs0)] }

theorem witness_QueueAndLockCommands_queues : Begins (st (dQc 0x300000)) 0 (dQc 0x300000) ∧ 1 ≤ plOf (dQc 0x300000) 0
    ∧ bitsOf (gReg (dQc 0x300000) 0 7) 19 18 = 0 ∧ bitsOf (gReg (dQc 0x300000) 0 5) 19 18 = 1
    ∧ (readImage 0 0x200000 (dQc 0x300000)).2 = .ok (img 0x300000)
    ∧ qOutcome (readImage 0 0x200000 (dQc 0x300000)).1 0x1FFE (img 0x300000) 3 false 0 = 0
    ∧ Begins (st (dQc 0x300040)) 0 (dQc 0x300040) ∧ (readImage 0 0x200000 (dQc 0x300040)).2 = .ok (img 0x300040)
    ∧ qOutcome (readImage 0 0x200000 (dQc 0x300040)).1 0x1FFE (img 0x300040) 3 false 0 ≠ 0
    ∧ qOutcome (dQc 0x300000) (gReg (dQc 0x300000) 0 5) 0 3 false 0 = 0 ∧ (∀ x ∈ (dQc 0x300000).cores, x.2.qwait = none) :=
  ⟨begins (by decide +kernel), by decide +kernel, by decide +kernel, by decide +kernel, by decide +kernel, by decide +kernel,
   begins (by decide +kernel), by decide +kernel⟩

/-- A lock and an unlock have been answered. Scratchpad is memory that is not normal cacheable, but no DRAM: a DRAM page of another type
is mapped by a TLB entry. -/
def dLk : Dev := updCache 0 (fun x => { x with miss := [doneMiss .lock 0, doneMiss .unlock 1] }) dL

theorem witness_QueueAndLockCommands_locks : Begins (st dLk) 0 dLk ∧ 1 ≤ plOf dLk 0 ∧ translate 0 (gReg dLk 0 6) .load dLk = (dLk, .ok xl2000)
    ∧ (takeResult 0 (lineKey 0x2000 false) .lock dLk).isSome = true ∧ (takeResult 0 (lineKey 0x2000 false) .unlock dLk).isSome = true :=
  ⟨begins (by decide +kernel), by decide +kernel⟩

/-- A page of DRAM mapped non-cacheable at PL3 of the secure world, and the cacheable page of the program counter. -/
def tlbNc : TlbEnt := ⟨0x2000, 12, none, 0, false, 2, false, 0x2000, 0x2000, 0x1F, 0x1F, true, true, 1, false, false⟩
def tlbPc : TlbEnt := ⟨0x1000, 12, none, 0, false, 2, false, 0x1000, 0x1000, 0x1F, 0x1F, true, true, 0, false, false⟩
def dNc : Dev := updCore 0 (fun x => { x with tlb := [tlbNc, tlbPc] }) (coreD [(6, 0x2000), (7, 8)] [(Sr.PSTATE, 0x23), (Sr.MTTB, 1)])

theorem witness_LockElsewhere : Begins (st dNc) 0 dNc ∧ translate 0 (gReg dNc 0 6) .load dNc = (dNc, .ok { xl2000 with mt := 1 })
    ∧ 2 ≤ plOf dNc 0 ∧ bitOf (gReg dNc 0 7) 3 = true := ⟨begins (by decide +kernel), by decide +kernel⟩

/-! ### Witnesses: vectors -/

/-- Vector state enabled at PL3 with a group size, element width and vector length; g6 is the address of the held line. -/
def dV (vcfg vl : Word) : Dev :=
  updCache 0 (fun x => { x with l2 := [(lineKey 0x2000 false, some lineM)] })
    (coreD [(6, 0x2000)] [(Sr.PSTATE, 0x23), (Sr.VCFG, vcfg), (Sr.VL, vl)])

theorem begins_dV64 : Begins (st (dV 0xC 1)) 0 (dV 0xC 1) := begins (by decide +kernel)
theorem begins_dV32 : Begins (st (dV 8 128)) 0 (dV 8 128) := begins (by decide +kernel)

theorem witness_VectorConfiguration : Begins (st (dV 0xC 1)) 0 (dV 0xC 1) ∧ getB Ps.VEN (pstate (dV 0xC 1) 0) = true
    ∧ Begins (st dI) 0 dI ∧ getB Ps.VEN (pstate dI 0) = false := ⟨begins_dV64, by decide +kernel, begins_dI, by decide +kernel⟩

theorem witness_VectorElementResults : Begins (st (dV 0xC 1)) 0 (dV 0xC 1) ∧ getB Ps.VEN (pstate (dV 0xC 1) 0) = true
    ∧ vec0Legal ⟨1, 2, 3, 0, 0⟩ = true ∧ vCheck (dV 0xC 1) 0 (needSame 0 ⟨1, 2, 3, 0, 0⟩ (fun _ => true) (dV 0xC 1)) = none
    ∧ vec1Legal 0 ⟨1, 2, 3, 0, 0⟩ (dV 0xC 1) = true ∧ vArith (dV 0xC 1) 0 = some SF.b64
    ∧ vCheck (dV 0xC 1) 0 (needSame 0 ⟨1, 2, 3, 0, 0⟩ (fun d => (vArith d 0).isSome) (dV 0xC 1)) = none
    ∧ vcvtLegal 0 ⟨1, 2, 0, 0, 19⟩ (dV 0xC 1) = true ∧ vFmt (dV 0xC 1) 0 = some SF.b64
    ∧ vCheck (dV 0xC 1) 0 (vcvtNeed 0 ⟨1, 2, 0, 0, 19⟩ (dV 0xC 1)) = none
    ∧ redLegal 0 ⟨1, 2, 3, 0, 11⟩ (dV 0xC 1) = true
    ∧ vCheck (dV 0xC 1) 0 ⟨decide (vMem ⟨1, 2, 3, 0, 11⟩ < 8) || (vArith (dV 0xC 1) 0).isSome, [], [(2, 1)], none, true⟩ = none
    ∧ vCheck (dV 0xC 1) 0 (permNeed 0 ((⟨1, 2, 3, 0⟩ : OpV).fmt (3 * 64 + 16)) false (dV 0xC 1)) = none
    ∧ vCheck (dV 0xC 1) 0 (permNeed 0 ((⟨1, 2, 3, 0⟩ : OpV).fmt 19) true (dV 0xC 1)) = none
    ∧ vCheck (dV 0xC 1) 0 ⟨true, [], [(1, vG (dV 0xC 1) 0)], none, false⟩ = none ∧ 16 ≤ vSew (dV 0xC 1) 0 :=
  ⟨begins_dV64, by decide +kernel⟩

theorem witness_VectorWidths : Begins (st (dV 8 128)) 0 (dV 8 128) ∧ vwnLegal ⟨2, 4, 5, 0, 0⟩ = true ∧ isWiden ⟨2, 4, 5, 0, 0⟩ = true
    ∧ vCheck (dV 8 128) 0 (vwnNeed 0 ⟨2, 4, 5, 0, 0⟩ (dV 8 128)) = none ∧ vwnLegal ⟨2, 4, 7, 0, 9⟩ = true ∧ isWiden ⟨2, 4, 7, 0, 9⟩ = false
    ∧ vCheck (dV 8 128) 0 (vwnNeed 0 ⟨2, 4, 7, 0, 9⟩ (dV 8 128)) = none ∧ vdotLegal 0 ⟨2, 4, 7, 0, 27⟩ (dV 8 128) = true ∧ vSew (dV 8 128) 0 = 32
    ∧ vCheck (dV 8 128) 0 ⟨true, [], [(2, 1), (4, 1), (7, 1)], none, false⟩ = none := ⟨begins_dV32, by decide +kernel⟩

theorem witness_VectorMasksAndScalars : Begins (st (dV 0xC 1)) 0 (dV 0xC 1) ∧ vcmpLegal ⟨7, 2, 3, 0, 7⟩ = true
    ∧ vCheck (dV 0xC 1) 0 ⟨true, [], [(2, 1), (3, 1)], none, false⟩ = none ∧ maskLegal ⟨7, 2, 0, 0, 36⟩ = true
    ∧ vCheck (dV 0xC 1) 0 (maskNeed (dV 0xC 1)) = none ∧ vFmt (dV 0xC 1) 0 = some SF.b64 := ⟨begins_dV64, by decide +kernel⟩

/-- The answer to a packet of one scattered reduction has come. -/
def dVr : Dev := updCache 0 (fun x => { x with miss := [{ doneMiss .scatterRed 0 with
  req := { (doneMiss .scatterRed 0).req with elems := [⟨0, 0x2000, 3, 0, 0⟩] } }] }) (dV 0xC 1)

def opV : OpV := ⟨1, 6, 0, 0⟩

theorem witness_VectorLoads : Begins (st (dV 0xC 1)) 0 (dV 0xC 1) ∧ activeElts (dV 0xC 1) 0 0 = [0]
    ∧ vCheck (dV 0xC 1) 0 (vmemNeed 0 (opV.fmt (vmFunc 0 0 0 0)) false false (fun _ => true) (dV 0xC 1)) = none
    ∧ (loadElems 0 8 (putVd 0 (opV.fmt (vmFunc 0 0 0 0))) (vItems [0] (unitAddr (dV 0xC 1) 0 (opV.fmt 0))) (dV 0xC 1)).2 = .ok ()
    ∧ (((elemXl 0 .load 8 0x2000).bnd fun x => loadPart 0 x 8 0x2000 false) (dV 0xC 1)).2 = .ok 0x0807060504030201
    ∧ vCheck (dV 0xC 1) 0 (vmemNeed 0 (opV.fmt (vmFunc 3 0 0 0)) true true (fun _ => true) (dV 0xC 1)) = none
    ∧ (gatherAll 0 8 (putVd 0 (opV.fmt (vmFunc 3 0 0 0))) (chunks 64 1 (vItems [0] (indexAddr (dV 0xC 1) 0 (opV.fmt 0) 0))) (dV 0xC 1)).2 = .ok none :=
  ⟨begins_dV64, by decide +kernel⟩

/-- Transfers begin at their last 8-byte unit, so that they read or write one. -/
def dVx : Dev :=
  updCache 0 (fun x => { x with l2 := [(lineKey 0x2000 false, some lineM)] })
    (coreD [(6, 0x2000 - 504)] [(Sr.PSTATE, 0x23), (Sr.VCFG, 0xC), (Sr.VL, 1), (Sr.VSTART, 63)])

theorem witness_VectorTransfers : Begins (st dVx) 0 dVx ∧ xferLegal dVx 0 opV = true ∧ xferUnits dVx 0 = [63]
    ∧ (loadElems 0 8 (fun i v d => setV 0 1 (putUnit (vReg d 0 1) i v) d) (vItems [63] (xferAddr dVx 0 opV)) dVx).2 = .ok ()
    ∧ (loadElems 0 8 (fun i v d => setK 0 1 (putUnit (kReg d 0 1) i v) d) (vItems [63] (xferAddr dVx 0 opV)) dVx).2 = .ok ()
    ∧ (∃ l, (storeElems 0 8 (fun i => elt (vReg dVx 0 1).toNat 64 i) (vItems [63] (xferAddr dVx 0 opV)) [] dVx).2 = .ok (l, some ()))
    ∧ (∃ l, (storeElems 0 8 (fun i => elt (kReg dVx 0 1).toNat 64 i) (vItems [63] (xferAddr dVx 0 opV)) [] dVx).2 = .ok (l, some ())) :=
  ⟨begins (by decide +kernel), by decide +kernel, by decide +kernel, by decide +kernel, by decide +kernel, ⟨[63], by decide +kernel⟩,
   ⟨[63], by decide +kernel⟩⟩

theorem witness_VectorStores : Begins (st (dV 0xC 1)) 0 (dV 0xC 1) ∧ (coreSt (dV 0xC 1) 0).vprog = none
    ∧ StoreHit (dV 0xC 1) 0 (unitAddr (dV 0xC 1) 0 (opV.fmt 0) 0) xl2000 lineM 0 0x2000
    ∧ StoreHit (dV 0xC 1) 0 (indexAddr (dV 0xC 1) 0 (opV.fmt (vmFunc 2 0 0 0)) 0 0) xl2000 lineM 0 0x2000 ∧ (cacheSt (dV 0xC 1) 0).sb = []
    ∧ (isLeader (dV 0xC 1) 0 && (coreSt (dV 0xC 1) 0).grp != 0) = false
    ∧ (∃ l, (scatterAll 0 8 none (getVd (dV 0xC 1) 0 (opV.fmt 0)) (chunks 64 1 (vItems [0] (fun _ => 0x2000))) [] (dV 0xC 1)).2 = .ok (l, some ()))
    ∧ vCheck (dV 0xC 1) 0 (vmemNeed 0 (opV.fmt (vmFunc 3 0 0 2)) true false (fun d => decide (32 ≤ vSew d 0)) (dV 0xC 1)) = none
    ∧ Begins (st dVr) 0 dVr ∧ (∃ l, (scatterAll 0 8 (some (redAtom 0 .add 2 dVr)) (getVd dVr 0 (opV.fmt 0))
        (chunks 64 1 (vItems [0] (fun _ => 0x2000))) [] dVr).2 = .ok (l, some ())) :=
  ⟨begins_dV64, by decide +kernel, by unfold StoreHit; decide +kernel, by unfold StoreHit; decide +kernel, by decide +kernel, by decide +kernel,
   ⟨[0], by decide +kernel⟩, by decide +kernel, begins (by decide +kernel), ⟨[0], by decide +kernel⟩⟩

/-! ### Witnesses: coherence -/

/-- The device after a command. -/
def out (i : Instr) (d : Dev) : Dev := match exec i (st d) with | .next t => t.dev | _ => d

/-- A message about the line of address 0x2000. -/
def msg (op : COp) (a b : Agent) : Msg := Msg.mk' op a b 1 0x2000 ⟨0, false⟩
def key0 : Nat := lineKey 0x2000 false
def lineH : LlcLine := ⟨0, 0, 0x1122334455667788, false, true, none⟩
/-- Slice 0 of die 0 is on and its LLC holds the line, with a directory entry, open transactions and messages on their way. -/
def dH (e : DirEnt) (ts : List Txn) (net : List Msg) : Dev :=
  { updHome 0 (fun x => { x with llc := [(key0, some lineH)], dir := KMap.put DirEnt.empty [] key0 e, txns := ts }) (setDomState 0 44 0 devM) with net := net }
/-- The same slice with nothing in it, and no region of the firewall open. -/
def dHr : Dev := setDomState 0 44 0 (Dev.resetOf SysCfg.default)

def rq (op : COp) : Msg := msg op (.core 0) (.home 0)
def dH0 (op : COp) : Dev := dH DirEnt.empty [] [rq op]
/-- Core `c` shares the line. -/
def shr (c : Nat) : DirEnt := { DirEnt.empty with sharers := [c] }
def own (c : Nat) : DirEnt := DirEnt.owned (.core c)

theorem witness_HomeGrantsLines : AtHome (dH0 .rdShared) (rq .rdShared) 0x2000 0 0 key0 (.core 0) DirEnt.empty []
    ∧ dirSetUse (dH0 .rdShared) 0 (dirSet key0) < 12 ∧ sourceRefused (dH0 .rdShared) 0 key0 ⟨0, false⟩ .r = false := by
  unfold AtHome HomeServes; decide +kernel
theorem witness_HomeGrants_refused : AtHome dHr (rq .rdShared) 0x2000 0 0 key0 (.core 0) DirEnt.empty []
    ∧ sourceRefused dHr 0 key0 ⟨0, false⟩ .r = true := by unfold AtHome HomeServes; decide +kernel
theorem witness_HomeGrants_shared : AtHome (dH (shr 1) [] []) (rq .rdShared) 0x2000 0 0 key0 (.core 0) (shr 1) [] ∧ (shr 1).any = true := by
  unfold AtHome HomeServes; decide +kernel
theorem witness_HomeGrants_owned : AtHome (dH (own 1) [] []) (rq .rdShared) 0x2000 0 0 key0 (.core 0) (own 1) [] := by
  unfold AtHome HomeServes; decide +kernel
theorem witness_HomeGrants_upgrade : AtHome (dH (shr 0) [] []) (rq .upgrade) 0x2000 0 0 key0 (.core 0) (shr 0) [] := by
  unfold AtHome HomeServes; decide +kernel

theorem test_rdshared : (out (.rdshared (rq .rdShared)) (dH0 .rdShared)).net = [withLine ((rq .rdShared).reply .data (.home 0)) (0x1122334455667788, false) stE]
    ∧ dirEnt (out (.rdshared (rq .rdShared)) (dH0 .rdShared)) 0 key0 = own 0 := by decide +kernel
theorem test_rdshared_refused : (out (.rdshared (rq .rdShared)) { dHr with net := [rq .rdShared] }).net
    = [withLine ((rq .rdShared).reply .data (.home 0)) (0, true) stI] := by decide +kernel
theorem test_rdunique_snoops : (out (.rdunique (rq .rdUnique)) (dH (own 1) [] [rq .rdUnique])).net
    = [snoopTo 0 key0 (rq .rdUnique) .snpUnique (.core 1)] := by decide +kernel
theorem test_upgrade_grants : (out (.upgrade (rq .upgrade)) (dH (shr 0) [] [rq .upgrade])).net = [{ (rq .upgrade).reply .grant (.home 0) with st := 3 }]
    ∧ dirEnt (out (.upgrade (rq .upgrade)) (dH (shr 0) [] [rq .upgrade])) 0 key0 = own 0 := by decide +kernel
theorem test_rdonce : (out (.rdonce (rq .rdOnce)) (dH (shr 1) [] [rq .rdOnce])).net
    = [withLine ((rq .rdOnce).reply .data (.home 0)) (0x1122334455667788, false) stI] := by decide +kernel

/-- An atomic ADD of 1 to 8 bytes, and a packet of one element at the line. -/
def atom1 : Atom := ⟨.add, 8, false, none, 1, 0⟩
def rqA : Msg := { rq .atomicHome with atom := some atom1 }
def rqE (op : COp) : Msg := { rq op with elems := [⟨0, 0x2008, 3, 0, 0xAB⟩], atom := if op == .scatterRed then some atom1 else none }

theorem witness_HomeAppliesWritesAndAtomics : llcLine (dH0 .wrFull) 0 key0 = some lineH ∧ lineH.poison = false ∧ rqA.atom = some atom1
    ∧ AtHome (dH0 .wrFull) (rq .wrFull) 0x2000 0 0 key0 (.core 0) DirEnt.empty []
    ∧ AtHome (dH0 .gather) (rqE .gather) 0x2008 0 0 key0 (.core 0) DirEnt.empty [] ∧ regionOf 0x2008 = .dram 0 0x2008 := by
  unfold AtHome HomeServes; decide +kernel

theorem test_wrfull : llcLine (out (.wrfull { rq .wrFull with line := 7 }) (dH0 .wrFull)) 0 key0 = some { lineH with data := 7 } := by decide +kernel
theorem test_wrpartial : llcLine (out (.wrpartial { rq .wrPartial with line := 0xFFFF, be := 1 }) (dH0 .wrPartial)) 0 key0
    = some { lineH with data := 0x11223344556677FF } := by decide +kernel
theorem test_atomichome : llcLine (out (.atomichome rqA) (dH0 .atomicHome)) 0 key0 = some { lineH with data := 0x1122334455667789 } := by decide +kernel
theorem test_scatter : llcLine (out (.scatter (rqE .scatter)) (dH0 .scatter)) 0 key0
    = some { lineH with data := 0xAB0000000000000000 + 0x1122334455667788#512 } := by decide +kernel
theorem test_scatterred : llcLine (out (.scatterred (rqE .scatterRed)) (dH0 .scatterRed)) 0 key0
    = some { lineH with data := 0xAB0000000000000000 + 0x1122334455667788#512 } := by decide +kernel

theorem witness_HomeMaintenanceAndLocks : llcLine (dH0 .lock) 0 key0 = some lineH ∧ AtHome (dH0 .lock) (rq .lock) 0x2000 0 0 key0 (.core 0) DirEnt.empty []
    ∧ lockOutcome (dH0 .lock) 0 key0 (BitVec.ofNat 6 (rq .lock).arg) ≤ 7 ∧ lineH.way < 8 := by unfold AtHome HomeServes; decide +kernel

theorem test_cmoclean : llcLine (out (.cmocleanMsg (rq .cmoClean)) (dH0 .cmoClean)) 0 key0 = some { lineH with dirty := false }
    ∧ memByte (out (.cmocleanMsg (rq .cmoClean)) (dH0 .cmoClean)) 0x2001 = 0x77 := by decide +kernel
theorem test_cmoinv : llcLine (out (.cmoinvMsg (rq .cmoInv)) (dH0 .cmoInv)) 0 key0 = none := by decide +kernel
theorem test_cmoflush : llcLine (out (.cmoflushMsg (rq .cmoFlush)) (dH0 .cmoFlush)) 0 key0 = none
    ∧ memByte (out (.cmoflushMsg (rq .cmoFlush)) (dH0 .cmoFlush)) 0x2007 = 0x11 := by decide +kernel

theorem test_lock : llcLine (out (.lock (rq .lock)) (dH0 .lock)) 0 key0 = some { lineH with lock := some 0 } := by decide +kernel
theorem test_unlock : (out (.unlock (rq .unlock)) (dH0 .unlock)).net.map (fun m => (m.op, m.arg)) = [(.comp, 6)] := by decide +kernel

theorem witness_CleanedLinesReachMemory : llcLine (dH0 .cmoClean) 0 key0 = some lineH
    ∧ AtHome (dH0 .cmoClean) (rq .cmoClean) 0x2000 0 0 key0 (.core 0) DirEnt.empty [] ∧ portState (dH0 .cmoClean) (portOf (dH0 .cmoClean) 0x2000).1 ≠ 6
    ∧ lineH.dirty = true := by unfold AtHome HomeServes; decide +kernel

/-- A maintenance walk of slice 0 is under way. -/
def dMaint (op : Nat) : Dev := setSfld 0 Reg.SLICE_MAINT Fl.SLICE_MAINT_OP op (setSfld 0 Reg.SLICE_MAINT Fl.SLICE_MAINT_BUSY 1 (dH0 .cmoClean))

theorem witness_MaintComplete : sliceArray (dMaint 1) 0 = 0 ∧ HomeServes (dMaint 1) 0 0 [] ∧ homeKeys (dMaint 1) 0 = [key0]
    ∧ llcLine (dMaint 1) 0 key0 = some lineH ∧ dirEnt (dMaint 1) 0 key0 = DirEnt.empty ∧ sfld (dMaint 1) 0 Reg.SLICE_MAINT Fl.SLICE_MAINT_BUSY = 1
    ∧ sfld (dMaint 1) 0 Reg.SLICE_MAINT Fl.SLICE_MAINT_OP = 1 ∧ sfld (dMaint 0) 0 Reg.SLICE_MAINT Fl.SLICE_MAINT_OP = 0 ∧ lineH.lock = none := by
  unfold HomeServes; decide +kernel

theorem test_maintComplete : llcLine (out (.maintComplete 0) (dMaint 1)) 0 key0 = none
    ∧ sfld (out (.maintComplete 0) (dMaint 1)) 0 Reg.SLICE_MAINT Fl.SLICE_MAINT_BUSY = 0 := by decide +kernel

/-- Open transactions of the line: one that waits for its requester, a recall that waits for one core, and one that waits for two. -/
def txAck : Txn := Txn.ofReq key0 (rq .rdShared) .ack [] false
def txRecall : Txn := { txAck with req := none, phase := .inval, wait := [.core 0] }
def txTwo : Txn := { txAck with phase := .inval, wait := [.core 0, .core 1] }
def two : DirEnt := { DirEnt.empty with sharers := [0, 1, 2] }

theorem witness_WriteBacksAndSnoopAnswersAtAHome : AtHome (dH (own 0) [] []) (rq .wbDirty) 0x2000 0 0 key0 (.core 0) (own 0) []
    ∧ AtHome (dH { own 0 with wbp := true } [] []) (rq .wbData) 0x2000 0 0 key0 (.core 0) { own 0 with wbp := true } []
    ∧ llcLine (dH (own 0) [] []) 0 key0 = some lineH := by unfold AtHome HomeServes; decide +kernel
theorem witness_KeeperEvict : AtHome (dH { DirEnt.empty with pkgs := 2 } [] []) (msg .keeperEvict (.keeper 1 0) (.home 0)) 0x2000 0 0 key0 (.pkg 1)
    { DirEnt.empty with pkgs := 2 } [] := by unfold AtHome HomeServes; decide +kernel
theorem witness_CompAck : AtHome (dH (own 0) [txAck] []) (rq .compAck) 0x2000 0 0 key0 (.core 0) (own 0) [txAck] ∧ txAck.key = key0 ∧ txAck.phase = .ack := by
  unfold AtHome HomeServes; decide +kernel
theorem witness_SnpResp : AtHome (dH (shr 0) [txRecall] []) (rq .snpResp) 0x2000 0 0 key0 (.core 0) (shr 0) [txRecall] ∧ txRecall.wait = [(rq .snpResp).src]
    ∧ (rq .snpResp).st = stI := by unfold AtHome HomeServes; decide +kernel
theorem witness_SnpResp_first : AtHome (dH two [txTwo] []) (rq .snpResp) 0x2000 0 0 key0 (.core 0) two [txTwo]
    ∧ txTwo.wait.erase (rq .snpResp).src ≠ [] ∧ two.owner ≠ some (.core 0) := by unfold AtHome HomeServes; decide +kernel

theorem test_wbdirty : dirEnt (out (.wbdirty (rq .wbDirty)) (dH (own 0) [] [rq .wbDirty])) 0 key0 = { own 0 with wbp := true }
    ∧ (out (.wbdirty (rq .wbDirty)) (dH (own 0) [] [rq .wbDirty])).net = [] := by decide +kernel
theorem test_wbdata : llcLine (out (.wbdata { rq .wbData with line := 9 }) (dH { own 0 with wbp := true } [] [])) 0 key0 = some { lineH with data := 9 }
    ∧ dirEnt (out (.wbdata { rq .wbData with line := 9 }) (dH { own 0 with wbp := true } [] [])) 0 key0 = DirEnt.empty := by decide +kernel
theorem test_evictclean : dirEnt (out (.evictclean (rq .evictClean)) (dH two [] [])) 0 key0 = { two with sharers := [1, 2] }
    ∧ (out (.evictclean (rq .evictClean)) (dH two [] [])).net = [(rq .evictClean).reply .wbAck (.home 0)] := by decide +kernel
theorem test_keeperevict : dirEnt (out (.keeperevict (msg .keeperEvict (.keeper 1 0) (.home 0))) (dH { DirEnt.empty with pkgs := 2 } [] [])) 0 key0
    = DirEnt.empty := by decide +kernel
theorem test_compack : (homeSt (out (.compack (rq .compAck)) (dH (own 0) [txAck] [])) 0).txns = [] := by decide +kernel
theorem test_snpresp : (homeSt (out (.snpresp (rq .snpResp)) (dH (shr 0) [txRecall] [])) 0).txns = []
    ∧ dirEnt (out (.snpresp (rq .snpResp)) (dH (shr 0) [txRecall] [])) 0 key0 = DirEnt.empty := by decide +kernel
theorem test_snpresp_first : (homeSt (out (.snpresp (rq .snpResp)) (dH two [txTwo] [])) 0).txns = [{ txTwo with wait := [.core 1] }]
    ∧ dirEnt (out (.snpresp (rq .snpResp)) (dH two [txTwo] [])) 0 key0 = { two with sharers := [1, 2] } := by decide +kernel
theorem test_snpdata : (homeSt (out (.snpdata { rq .snpData with line := 5, st := 4 }) (dH two [txTwo] [])) 0).txns
    = [{ txTwo with got := some (5, false), gotDirty := true }] := by decide +kernel

/-! ### Witnesses: coherence at a core, and at a port -/

/-- A snoop of core 0 by home 0 on behalf of core 1, and a message to core 0 from its home. -/
def sn (op : COp) : Msg := { msg op (.home 0) (.core 0) with fwd := some (.core 1) }
def toCore (op : COp) : Msg := msg op (.home 0) (.core 0)
/-- Core 0 holds the line in a state; a dwell of the line runs; and its request 1 is open. -/
def dS (x : L2State) : Dev := updCache 0 (fun y => { y with l2 := [(key0, some { lineM with st := x })] }) devM
def dDw (held : List Msg) : Dev := updCache 0 (fun y => { y with dwell := [(key0, 10)], held := held }) devM
def openMiss : Miss := ⟨rq .rdShared, false, none, none⟩
def dRe : Dev := updCache 0 (fun y => { y with miss := [openMiss] }) devM
def dUp : Dev := updCache 0 (fun y => { y with miss := [openMiss], l2 := [(key0, some { lineM with st := .S })] }) devM

theorem witness_SnoopsAtACore : (sn .snpShared).dst = .core 0 ∧ lineKey (sn .snpShared).addr false = key0 ∧ dwelling (dS .E) 0 key0 = false
    ∧ l2Line (dS .E) 0 key0 = some { lineM with st := .E } ∧ SnpTarget 0 (sn .snpShared) (.core 1) :=
  ⟨rfl, rfl, by decide +kernel, by decide +kernel, Or.inr ⟨0, 1, rfl, rfl, rfl, rfl, rfl⟩⟩
theorem witness_Snoops_absent : dwelling devM 0 key0 = false ∧ l2Line devM 0 key0 = none ∧ (∀ e ∈ (cacheSt devM 0).vict, e.1 ≠ key0)
    ∧ absentResult devM 0 key0 = stI ∧ dwelling (dDw []) 0 key0 = true ∧ (cacheSt (dDw []) 0).held.length < 16 := by decide +kernel
/-- The dwell is over at 10 ns, with a snoop held or with none. -/
theorem witness_DwellEnd : (cacheSt (wr 0 Reg.TIM_NOW 10 (dDw [sn .snpInv])) 0).dwell.find? (fun x => x.1 == key0) = some (key0, 10)
    ∧ 10 ≤ nowOf (wr 0 Reg.TIM_NOW 10 (dDw [sn .snpInv])) 0 ∧ (cacheSt (wr 0 Reg.TIM_NOW 10 (dDw [sn .snpInv])) 0).held = [sn .snpInv]
    ∧ lineKey (sn .snpInv).addr (sn .snpInv).who.ns = key0 ∧ (cacheSt (wr 0 Reg.TIM_NOW 10 (dDw [])) 0).held = [] := by decide +kernel

theorem test_snpshared : (out (.snpshared (sn .snpShared)) (dS .M)).net
    = [{ msg .snpData (.core 0) (.core 1) with line := lineM.data, st := 1 }, { msg .snpResp (.core 0) (.home 0) with st := 4, arg := 1 }]
    ∧ l2Line (out (.snpshared (sn .snpShared)) (dS .M)) 0 key0 = some { lineM with st := .O } := by decide +kernel
theorem test_snpunique : (out (.snpunique (sn .snpUnique)) (dS .S)).net = [msg .snpResp (.core 0) (.home 0)]
    ∧ l2Line (out (.snpunique (sn .snpUnique)) (dS .S)) 0 key0 = none := by decide +kernel
theorem test_snpinv : l2Line (out (.snpinv (sn .snpInv)) (dS .M)) 0 key0 = none ∧ (out (.snpinv (sn .snpInv)) (dDw [])).net = [] := by decide +kernel
theorem test_snppeek : l2Line (out (.snppeek (sn .snpPeek)) (dS .M)) 0 key0 = some lineM := by decide +kernel
theorem test_snpclean : l2Line (out (.snpclean (sn .snpClean)) (dS .O)) 0 key0 = some { lineM with st := .S } := by decide +kernel
theorem test_recall : (out (.recall (toCore .recall)) (dS .O)).net.map (fun m => (m.op, m.st, m.arg)) = [(.wbData, 3, 0), (.snpResp, 0, 1)] := by decide +kernel
theorem test_dwellEnd : (out (.dwellEnd 0 key0) (wr 0 Reg.TIM_NOW 10 (dDw [sn .snpInv]))).net = [msg .snpResp (.core 0) (.home 0)]
    ∧ (cacheSt (out (.dwellEnd 0 key0) (wr 0 Reg.TIM_NOW 10 (dDw [sn .snpInv]))) 0).held = [] := by decide +kernel

theorem witness_RepliesAtACore : (toCore .data).dst = .core 0 ∧ lineKey (toCore .data).addr false = key0 ∧ findMiss dRe 0 1 = some openMiss
    ∧ grantedState 2 = some .E ∧ grantedState 0 = none ∧ l2Line dRe 0 key0 = none
    ∧ (List.range 16).find? (fun w => !(l2SetLines dRe 0 (Config.l2Set key0 % 1024)).any (fun e => e.2.way == w)
        && !(cacheSt dRe 0).off.contains (Config.l2Set key0 % 1024, w)) = some 0
    ∧ findMiss dUp 0 1 = some openMiss ∧ l2Line dUp 0 key0 = some { lineM with st := .S } ∧ (cacheSt dUp 0).sb = [] := by decide +kernel

theorem test_grant : (l2Line (out (.grant { toCore .grant with st := 3 }) dUp) 0 key0).map (·.st) = some .M
    ∧ (out (.grant { toCore .grant with st := 3 }) dUp).net = [rq .compAck] := by decide +kernel
theorem test_data_refused : (cacheSt (out (.data (toCore .data)) dRe) 0).miss.map (·.result) = [some (toCore .data)] := by decide +kernel
theorem test_comp : (cacheSt (out (.comp (toCore .comp)) dRe) 0).miss.map (·.result) = [some (toCore .comp)] := by decide +kernel
theorem test_defer : (cacheSt (out (.defer { toCore .defer with arg := 5 }) dRe) 0).miss.map (·.deferred) = [some 5] := by decide +kernel
theorem test_resume : (out (.resume (toCore .resume)) dRe).net = [rq .rdShared] := by decide +kernel
theorem test_wback : (cacheSt (out (.wback (toCore .wbAck)) (updCache 0 (fun y => { y with vict := [(key0, lineM)] }) devM)) 0).vict = [] := by decide +kernel

/-- A request of core 0 to port 0 for an atomic on the line. -/
def atM : Msg := { msg .atomicMem (.core 0) (.port 0) with atom := some atom1 }

theorem witness_AtomicsAtAPortAndStrayMessages : atM.dst = .port 0 ∧ atM.atom = some atom1 ∧ dramAdmits devM atM.who .rw 0x2000 = true
    ∧ lineValue devM 0x2000 = (0, false) ∧ portState devM (portOf devM 0x2000).1 ≠ 6 ∧ dramAdmits dHr atM.who .rw 0x2000 = false
    ∧ HoldRoom devM 0 ∧ agentUnit (.core 0) = agentUnit (.core 0) ∧ sliceArray dHr 0 = 0 ∧ HomeServes dHr 0 0 [] ∧ pkgCores dHr (slicePkg 0) = []
    ∧ (∀ q, q < 4 → q ≠ slicePkg 0 → dHr.cfg.ndie q = 0) := by unfold HoldRoom HomeServes; decide +kernel

theorem test_atomicmem : memByte (out (.atomicmem atM) devM) 0x2000 = 1 ∧ (out (.atomicmem atM) devM).net = [msg .respData (.port 0) (.core 0)] := by
  decide +kernel
theorem test_unrecognisedMessage : (dieSt (out (.unrecognisedMessage (.core 0)) devM) 0).hold.map (fun r => (r.cls, r.kind, r.code)) = [(0, 0x01, 0x1E)] := by
  decide +kernel
theorem test_directoryError : dirEnt (out (.directoryError 0 key0 true) (dH (shr 0) [] [])) 0 key0 = DirEnt.empty := by decide +kernel

/-! ### Witnesses: core units, slices, power -/

/-- Cores 0 and 1 are on tiles 0 and 1; neither runs. Then tiles 0 and 1 are a pair that is bound or unbinding, in a state. -/
def dT : Dev := setFld 0 (Reg.LCORE 1) Fl.LCORE_PTILE 1 (setFlg 0 (Reg.LCORE 1) Fl.LCORE_VALID true (setFlg 0 (Reg.LCORE 0) Fl.LCORE_VALID true devM))
def dPair (run : Bool) (n : Nat) : Dev :=
  setPair 0 1 n 0 (setPair 0 0 n 1 (updCore 0 (fun x => { x with run := run, snap := some Arch.init }) dT))

theorem witness_PaceRecordingAndDebugHalt : arbAllowed devM 0 = true
    ∧ fld (setFld 0 Reg.ARBREC_CTL Fl.ARBREC_CTL_MODE 2 devM) 0 Reg.ARBREC_CTL Fl.ARBREC_CTL_MODE = 2 := by decide +kernel

/-- A rate of 128 with a burst depth of 2 tokens. -/
def dPace : Dev := wr 0 (Reg.PACE_CTL 0) (setF Fl.PACE_CTL_BURST 2 (setF Fl.PACE_CTL_RATE 128 (setB Fl.PACE_CTL_EN true 0))) devM

theorem test_paceCredit : (coreSt (out (.paceCredit 0) dPace) 0).tokens = 128 ∧ (coreSt (out (.paceCredit 0) (out (.paceCredit 0) dPace)) 0).tokens = 200 := by
  decide +kernel
theorem test_arbrecOff : fld (out (.arbrecOff 0 0x30) (setFld 0 Reg.ARBREC_CTL Fl.ARBREC_CTL_MODE 2 devM)) 0 Reg.ARBREC_CTL Fl.ARBREC_CTL_MODE = 0 := by
  decide +kernel
theorem test_replayTimeout : flg (out (.replayTimeout 0) (setFld 0 Reg.ARBREC_CTL Fl.ARBREC_CTL_MODE 2 devM)) 0 Reg.ARBREC_STATUS Fl.ARBREC_STATUS_DIVERGED = true := by
  decide +kernel

theorem witness_CoreArraysAndCheckedPairs : HoldRoom devM 0 ∧ l2Line dL 0 key0 = some lineM ∧ lineM.st.dirty = true
    ∧ pairState (dPair false 1) 0 0 = 1 ∧ bindRefusal devM 0 0 1 ≠ 0 ∧ pairState devM 0 0 ≠ 1
    ∧ bindRefusal dT 0 0 1 = 0 ∧ tileCore dT 0 0 = some 0 ∧ tileCore dT 0 1 = some 1
    ∧ fld (dPair false 2) 0 (Reg.PAIR_STATUS 0) Fl.PAIR_STATUS_PARTNER = 1 ∧ 2 ≤ pairState (dPair false 2) 0 0
    ∧ (coreSt (dPair false 2) 0).run = false ∧ (coreSt (dPair false 2) 1).run = false ∧ tileCore (dPair true 2) 0 0 = some 0
    ∧ (coreSt (dPair true 2) 0).run = true ∧ isLeader (dPair true 2) 0 = true ∧ coreTile (dPair true 2) 0 = 0 := by unfold HoldRoom; decide +kernel

theorem test_coreArrayError : (l2Line (out (.coreArrayError 0 (.l2Two key0 7)) dL) 0 key0).map (·.poison) = some 0x80
    ∧ (dieSt (out (.coreArrayError 0 (.l2Two key0 7)) dL) 0).hold.map (fun r => (r.cls, r.code, r.addr)) = [(1, 2, some 0x2038)] := by decide +kernel
theorem test_coreArrayError_regs : (coreSt (out (.coreArrayError 0 .regs) dI) 0).run = false
    ∧ (dieSt (out (.coreArrayError 0 .regs) dI) 0).hold.map (fun r => (r.cls, r.code)) = [(2, 3)] := by decide +kernel
theorem test_bind : pairState (out (.bind 0 0 1) dT) 0 1 = 1 ∧ fld (out (.bind 0 0 0) dT) 0 (Reg.PAIR_STATUS 0) Fl.PAIR_STATUS_REASON = 3 := by decide +kernel
theorem test_unbind : pairState (out (.unbind 0 0) (dPair false 2)) 0 1 = 0
    ∧ fld (out (.unbind 0 0) (dPair true 2)) 0 (Reg.PAIR_STATUS 0) Fl.PAIR_STATUS_REASON = 1 := by decide +kernel
theorem test_pairSignatureCompare : (coreSt (out (.pairSignatureCompare 0 false) (dPair true 2)) 0).run = false
    ∧ 6 ∈ (dieSt (out (.pairSignatureCompare 0 false) (dPair true 2)) 0).raised := by decide +kernel

/-- A timer armed at 0 in the secure world; then expired at 0, with a record of the normal world. -/
def wrec : WorldRec := ⟨[], [], [], 0x4000, 0x0C⟩
def dSvc (armed expired : Option Nat) : Dev :=
  wr 0 Reg.SVC_CTL 0 (wr 0 Reg.TIM_NOW 10000 (updCore 0 (fun x => { x with run := false, armedAt := armed, expiredAt := expired, world := some wrec }) dI))

theorem witness_ServiceTimerAndForcedExit : nsOf (dSvc (some 0) none) 0 = false
    ∧ 0 + usNs (fld (dSvc (some 0) none) 0 Reg.SVC_CTL Fl.SVC_CTL_TIMEOUT) 1 ≤ nowOf (dSvc (some 0) none) 0
    ∧ (coreSt (dSvc (some 0) (some 0)) 0).expiredAt = some 0 ∧ (coreSt (dSvc (some 0) (some 0)) 0).world = some wrec
    ∧ 0 + usNs (fld (dSvc (some 0) (some 0)) 0 Reg.SVC_CTL Fl.SVC_CTL_GRACE) 10 ≤ nowOf (dSvc (some 0) (some 0)) 0 ∧ HoldRoom (dSvc (some 0) (some 0)) 0 := by
  unfold HoldRoom; decide +kernel

theorem test_serviceTimerExpiry : (coreSt (out (.serviceTimerExpiry 0) (dSvc (some 0) none)) 0).expiredAt = some 10000 := by decide +kernel
theorem test_forcedExit : pcOf (out (.forcedExit 0) (dSvc (some 0) (some 0))) 0 = 0x4000 ∧ pstate (out (.forcedExit 0) (dSvc (some 0) (some 0))) 0 = 0x0C
    ∧ gReg (out (.forcedExit 0) (dSvc (some 0) (some 0))) 0 3 = 0xFFFFFFFFFFFFFFFE := by decide +kernel

/-- Slice 0 with 2 scratchpad ways, a conversion to 8 under way or not, and its status busy or not. -/
def dSp (busy : Nat) (conv : Option Nat) : Dev :=
  updHome 0 (fun x => { x with conv := conv, spad := [(100, (7, false)), (6143, (9, false))] })
    (setSfld 0 Reg.SLICE_STATUS Fl.SLICE_STATUS_SPAD_BUSY busy (setSfld 0 Reg.SLICE_STATUS Fl.SLICE_STATUS_SPAD_WAYS 2 (dH0 .rdShared)))

theorem witness_ScratchpadLocksAndSliceArrays : sliceArray (dSp 1 (some 8)) 0 = 0
    ∧ fld (dSp 1 (some 8)) 0 (Reg.SLICE_STATUS (arrTile (dSp 1 (some 8)) 0)) Fl.SLICE_STATUS_SPAD_BUSY = 1 ∧ spadWays (dSp 0 none) 0 < 8
    ∧ sliceLocked (dSp 0 none) 0 = false ∧ 1 < spadWays (dSp 0 none) 0 ∧ (homeSt (dSp 1 (some 8)) 0).conv = some 8
    ∧ (∀ e ∈ (homeSt (dSp 1 (some 8)) 0).llc, (dirEnt (dSp 1 (some 8)) 0 e.1).any = false) ∧ getB Fl.LOCK_CTL_CLR_ALL 0 = false
    ∧ fld devM 0 (Reg.SLICE_MAINT (arrTile devM 0)) Fl.SLICE_MAINT_BUSY ≠ 1 ∧ homeKeys (setSfld 0 Reg.SLICE_MAINT Fl.SLICE_MAINT_BUSY 1 devM) 0 = []
    ∧ HoldRoom devM 0 ∧ llcLine (dSp 0 none) 0 key0 = some lineH ∧ lineH.dirty = true := by unfold HoldRoom; decide +kernel

theorem test_spadCtlWrite : spadWays (out (.spadCtlWrite 0 1) (dSp 0 none)) 0 = 1 ∧ spadLine (out (.spadCtlWrite 0 1) (dSp 0 none)) 0 6143 = (0, false)
    ∧ spadLine (out (.spadCtlWrite 0 1) (dSp 0 none)) 0 100 = (7, false) := by decide +kernel
theorem test_scratchpadConversion : spadWays (out (.scratchpadConversion 0) (dSp 1 (some 8))) 0 = 8 := by decide +kernel
theorem test_clrAll : (llcLine (out (.clrAll 0 0) (out (.lock (rq .lock)) (dH0 .lock))) 0 key0).map (·.lock) = some none := by decide +kernel
theorem test_sliceArrayError : (llcLine (out (.sliceArrayError 0 (.dataTwo key0)) (dSp 0 none)) 0 key0).map (·.poison) = some true
    ∧ spadLine (out (.sliceArrayError 0 (.spadTwo 100)) (dSp 0 none)) 0 100 = (7, true) := by decide +kernel

theorem witness_RegisterWritesThatSetFields : devM.cfg.present 31 = false ∧ devM.cfg.present 7 = true ∧ (regRow? Reg.LOG_CTL).isSome = true
    ∧ (⟨1, false⟩ : Who) ≠ Who.platform ∧ (BitVec.ofNat 32 4).toNat % 8 ≠ 0 := by decide +kernel
theorem test_registerWrite : rg (out (.registerWrite 0 (BitVec.ofNat 32 Reg.COH_CTL) 0xFFFF Who.platform) devM) 0 Reg.COH_CTL
    ≠ rg devM 0 Reg.COH_CTL ∧ rg (out (.registerWrite 0 (BitVec.ofNat 32 Reg.COH_CTL) 0xFFFF ⟨1, false⟩) devM) 0 Reg.COH_CTL = rg devM 0 Reg.COH_CTL := by
  decide +kernel

/-- Domain `i` of die 0 in a state, and what it is between. -/
def dD (i n : Nat) (x : DomSt) : Dev := updDom 0 i (fun _ => x) (setDomState 0 i n devM)
def reqS (n : Nat) : DomReq := ⟨n, 0, 0, 0xFFF, 0⟩

theorem witness_SecureDomainRequests : flg (dD 98 0 DomSt.init) 0 (Reg.DOM_CTL 98) Fl.DOM_CTL_SECURE_HOLD = false ∧ domState (dD 98 0 DomSt.init) 0 98 = 0
    ∧ domRefusal (dD 99 0 DomSt.init) 0 99 1 false = some 4 ∧ domRefusal (dD 98 0 DomSt.init) 0 98 1 false = none
    ∧ domState (dD 98 5 { DomSt.init with cur := some (reqS 0) }) 0 98 = 5
    ∧ domRefusal (dD 98 5 { DomSt.init with cur := some (reqS 0) }) 0 98 1 false = none := by decide +kernel

theorem test_domainOff : domState (out (.domainOff 0 98) (dD 98 0 DomSt.init)) 0 98 = 4 := by decide +kernel
theorem test_domainRetention : fld (out (.domainRetention 0 99) (dD 99 0 DomSt.init)) 0 (Reg.DOM_STATUS 99) Fl.DOM_STATUS_RESULT = 4 := by decide +kernel
theorem test_domainOn_held : (domSt (out (.domainOn 0 98) (dD 98 4 { DomSt.init with cur := some (reqS 2) })) 0 98).held = some (reqS 0) := by decide +kernel

theorem witness_HoldsVoltageAndNormalRequests : fld (dD 98 0 DomSt.init) 0 (Reg.DOM_CTL 98) Fl.DOM_CTL_REQ = 0
    ∧ domRefusal (dD 98 2 DomSt.init) 0 98 0 false = none ∧ domState (dD 98 4 { DomSt.init with cur := some ⟨2, 1, 0, 0xFFF, 1⟩ }) 0 98 = 4
    ∧ domClocked 98 = true ∧ 749 < oppMin 98 (fld devM 0 (Reg.DOM_CTL 98) Fl.DOM_CTL_OPP) ∧ 749 ≠ fld (dD 98 0 DomSt.init) 0 (Reg.DOM_CTL 98) Fl.DOM_CTL_VOLT
    ∧ domClocked 0 = false ∧ 600 ≠ fld (dD 0 0 DomSt.init) 0 (Reg.DOM_CTL 0) Fl.DOM_CTL_VOLT
    ∧ domRefusal (setFlg 0 (Reg.DOM_CTL 98) Fl.DOM_CTL_SECURE_HOLD true (dD 98 0 DomSt.init)) 0 98 1 true = some 1
    ∧ domRefusal (dD 98 0 DomSt.init) 0 98 1 true = none := by decide +kernel

theorem test_secureHold : domState (out (.secureHold 0 98) (dD 98 2 DomSt.init)) 0 98 = 5
    ∧ 483 ∈ (dieSt (out (.secureHold 0 98) (dD 98 4 { DomSt.init with cur := some ⟨2, 1, 0, 0xFFF, 1⟩ })) 0).raised := by decide +kernel
theorem test_voltWrite : fld (out (.voltWrite 0 0 600) (dD 0 0 DomSt.init)) 0 (Reg.DOM_CTL 0) Fl.DOM_CTL_VOLT = 600
    ∧ fld (out (.voltWrite 0 98 749) (dD 98 0 DomSt.init)) 0 (Reg.DOM_STATUS 98) Fl.DOM_STATUS_RESULT = 5 := by decide +kernel
theorem test_nsDomreq : fld (out (.nsDomreq 0 101 0) devM) 0 Reg.NS_DOMRES Fl.NS_DOMRES_RESULT = 4
    ∧ domState (out (.nsDomreq 0 98 1) (dD 98 0 DomSt.init)) 0 98 = 3 := by decide +kernel

/-- Bridge domain 98 on its way off; the domain of tile 0 on its way to retention while a store waits for a line that it does not have;
the same domain waking, with a core that is to run. -/
def dOff : Dev := dD 98 4 { DomSt.init with cur := some (reqS 2) }
def dRet : Dev := { updDom 0 0 (fun x => { x with cur := some (reqS 1) }) (setDomState 0 0 3 dT) with caches := [(0, { CacheSt.init with sb := [sbE] })] }
def dWake : Dev := updDom 0 0 (fun x => { x with was := 2, cur := some (reqS 0) }) (setDomState 0 0 5 (updCore 0 (fun x => { x with wantRun := true }) dT))

theorem witness_TransitionsEnd : (∀ E, E / 8 = 0 → (hspSt dOff E).inq = []) ∧ domState dOff 0 98 = 4 ∧ (domEnter 0 98 true dOff).2 = true
    ∧ (domEnter 0 98 true dOff).1.hsps = dOff.hsps ∧ (domEnter 0 98 true dOff).1.cfg = dOff.cfg ∧ (domSt (domEnter 0 98 true dOff).1 0 98).cur = some (reqS 2)
    ∧ domState dRet 0 0 = 3 ∧ (domEnter 0 0 false dRet).2 = false ∧ (domEnter 0 0 false dRet).1.hsps = dRet.hsps
    ∧ domState dWake 0 0 = 5 ∧ (domSt dWake 0 0).was = 2 ∧ (domSt dWake 0 0).cur = some (reqS 0) ∧ tileCore dWake 0 0 = some 0
    ∧ (coreSt dWake 0).wantRun = true := ⟨fun _ _ => rfl, by decide +kernel⟩

theorem test_domainTransitionEnd : domState (out (.domainTransitionEnd 0 98 0 []) dOff) 0 98 = 2
    ∧ (coreSt (out (.domainTransitionEnd 0 0 0 []) dWake) 0).run = true := by decide +kernel

theorem witness_RunAndStopCommands : runParty dT 0 ⟨1, false⟩ = false ∧ runParty devM 0 Who.platform = true ∧ flg devM 0 (Reg.LCORE 0) Fl.LCORE_VALID = false
    ∧ flg dT 0 (Reg.LCORE 0) Fl.LCORE_VALID = true ∧ runAllowed dT 0 1 Who.platform = true ∧ (coreSt dT 0).run = false
    ∧ domOn (setDomState 0 0 0 dT) 0 (coreTile dT 0) = true ∧ pairState dT 0 (coreTile dT 0) = 0 ∧ domState dT 0 (coreTile dT 0) = 2
    ∧ domRefusal dT 0 (coreTile dT 0) 0 false = none ∧ (coreSt (dPair true 2) 0).run = true ∧ runAllowed (dPair true 2) 0 2 Who.platform = true := by decide +kernel
/-- ISO.HYP_PART names partition 1: it may stop a core and run it again, but not run one with nothing kept. -/
theorem witness_RunDenied : runParty (setFld 0 Reg.HYP_PART Fl.HYP_PART_S_HYP 1 dT) 0 ⟨1, false⟩ = true
    ∧ runAllowed (setFld 0 Reg.HYP_PART Fl.HYP_PART_S_HYP 1 dT) 0 1 ⟨1, false⟩ = false := by decide +kernel

theorem test_run : (coreSt (out (.run 0 Who.platform) (wr 0 (Reg.PWR_ENTRY 0) 0x8003 (setDomState 0 0 0 dT))) 0).arch.pc = 0x8000
    ∧ domState (out (.run 0 Who.platform) dT) 0 0 = 5 := by decide +kernel
theorem test_stop : (coreSt (out (.stop 0 true Who.platform) (updCore 0 (fun x => { x with run := true }) dT)) 0).kept = true
    ∧ fld (out (.stop 1 true Who.platform) devM) 0 (Reg.RUNCTL 1) Fl.RUNCTL_RESULT = 2 := by decide +kernel

theorem witness_GovernorClampAndThermal : devM.cfg.ndie 0 ≠ 0 ∧ flg devM 0 Reg.PKG_LIMIT Fl.PKG_LIMIT_GOV_EN = true
    ∧ 640 ≤ min 640 (fld devM 0 Reg.PKG_LIMIT Fl.PKG_LIMIT_ICC_MAX) ∧ (dieSt devM 0).warnArmed = true ∧ fld devM 0 Reg.THERM_CTL Fl.THERM_CTL_WARN ≤ 255
    ∧ (dieSt devM 0).tripArmed = true ∧ (pkgSt devM 0).resv = none ∧ pkgReserve devM 0 = false
    ∧ HoldRoom devM 0 := by unfold HoldRoom; decide +kernel
/-- Phases 0 to 31 in service with 4 spares left, and all 36 in service with none. -/
def dPh (w : Word) (left : Nat) : Dev := wr 0 Reg.PHASE_STATUS (setF Fl.PHASE_STATUS_SPARES_LEFT left w) devM
theorem witness_PhaseFailure : fld (dPh 0xFFFFFFFF 4) 0 Reg.PHASE_STATUS Fl.PHASE_STATUS_SPARES_LEFT = 4
    ∧ (rg (dPh 0xFFFFFFFF 4) 0 Reg.PHASE_STATUS).getLsbD 31 = true
    ∧ (∀ j, j < 4 → (rg (dPh 0xFFFFFFFF 4) 0 Reg.PHASE_STATUS).getLsbD (36 - (j + 1)) = false)
    ∧ (rg (dPh 0xFFFFFFFFF 0) 0 Reg.PHASE_STATUS).getLsbD 35 = true := by decide +kernel

theorem test_fastClamp : fld (out (.fastClamp 0 641) dev1) 0 (Reg.PACE_STATUS 43) Fl.PACE_STATUS_PKG_CAP = 64
    ∧ (out (.fastClamp 0 640) devM).regs = devM.regs := by decide +kernel
theorem test_thermalSample : (dieSt (out (.thermalSample 0 3 110) devM) 0).raised = [480, 481]
    ∧ fld (out (.thermalSample 0 3 110) devM) 0 Reg.THERM_STATUS Fl.THERM_STATUS_TJ_MAX = 110 := by decide +kernel
theorem test_phaseFailure : rg (out (.phaseFailure 0 31) (dPh 0xFFFFFFFF 4)) 0 Reg.PHASE_STATUS = setF Fl.PHASE_STATUS_SPARES_LEFT 3 0x17FFFFFFF := by
  decide +kernel

/-! ### Witnesses: the mesh and the memory ports -/

/-- Link direction 5 paused by refusals; a sealed partition 3; bandwidth shares of partition 4. -/
def dLnk (w : Word) : Dev := wr 0 (Reg.LNK_STATUS 5) w devM
def dSeal : Dev := setFld 0 (Reg.PART 3) Fl.PART_STATE 3 devM
def shares (n : Nat) : Word := setB Fl.BWRES_EN true (setF Fl.BWRES_REQ n (setF Fl.BWRES_SNP n (setF Fl.BWRES_RSP n 0)))

theorem witness_LinksBridgesAndRoutes_links : flg (dLnk (setB Fl.LNK_STATUS_PAUSED true 0)) 0 (Reg.LNK_STATUS 5) Fl.LNK_STATUS_PAUSED = true
    ∧ flg devM 0 (Reg.LNK_STATUS 5) Fl.LNK_STATUS_PAUSED = false ∧ 2 ≤ (lnkSt (updLnk 0 5 (fun x => { x with refusals := 2 }) devM) 0 5).refusals
    ∧ (0 : Nat).testBit 15 = false ∧ isSealed dSeal 3 = true ∧ isSealed devM 4 = false
    ∧ 60 < bwTotal devM 0 - bwShares (rg devM 0 (Reg.BWRES 4)) + bwShares (shares 21)
    ∧ bwTotal devM 0 - bwShares (rg devM 0 (Reg.BWRES 4)) + bwShares (shares 20) ≤ 60 ∧ HoldRoom devM 0 := by unfold HoldRoom; decide +kernel

theorem test_handshake : (out (.handshake 0 5 .bad) (updLnk 0 5 (fun x => { x with refusals := 2 }) devM)).regs
    = (dLnk (setF Fl.LNK_STATUS_REPEATS 1 (setB Fl.LNK_STATUS_PAUSED true (setB Fl.LNK_STATUS_FAILED true (rg devM 0 (Reg.LNK_STATUS 5)))))).regs := by
  decide +kernel
theorem test_spareWireSwitch : fld (out (.spareWireSwitch 0 5 2 true) (dLnk (setB Fl.LNK_STATUS_PAUSED true 0))) 0 (Reg.LNK_STATUS 5) Fl.LNK_STATUS_SPARE_USED = 4
    ∧ flg (out (.spareWireSwitch 0 5 2 true) (dLnk (setB Fl.LNK_STATUS_PAUSED true 0))) 0 (Reg.LNK_STATUS 5) Fl.LNK_STATUS_PAUSED = false := by decide +kernel
theorem test_bwresWrite : fld (out (.bwresWrite 0 4 (shares 20)) devM) 7 Reg.BWSTAT Fl.BWSTAT_TOTAL = 60
    ∧ flg (out (.bwresWrite 0 4 (shares 21)) devM) 0 Reg.BWSTAT Fl.BWSTAT_REFUSED = true := by decide +kernel

/-- Bridge 1 of die 0 is on and up with both modules, or down. -/
def dB (state : Nat) : Dev :=
  setFld 0 (Reg.BRG_CTL 1) Fl.BRG_CTL_MARGIN_PERIOD 1 (setFld 0 (Reg.BRG_STATUS 1) Fl.BRG_STATUS_MOD_UP 3
    (setFld 0 (Reg.BRG_STATUS 1) Fl.BRG_STATUS_STATE state (setDomState 0 97 0 devM)))
def dTrain : Dev := updBrg 0 1 (fun x => { x with training := [0] }) (dB 2)

theorem witness_LinksBridgesAndRoutes_bridges : domOn (dB 2) 0 97 = true ∧ fld (dB 2) 0 (Reg.BRG_STATUS 1) Fl.BRG_STATUS_STATE = 2 ∧ (brgSt (dB 2) 0 1).hold = []
    ∧ 0 = (brgSt (dB 2) 0 1).expect ∧ deliverAll [] (dB 2) = dB 2 ∧ fld (dB 2) 0 (Reg.BRG_CTL 1) Fl.BRG_CTL_MARGIN_PERIOD ≠ 0
    ∧ (fld (dB 2) 0 (Reg.BRG_STATUS 1) Fl.BRG_STATUS_MOD_UP).testBit 1 = true ∧ 0 ∈ (brgSt dTrain 0 1).training
    ∧ fld (dB 3) 0 (Reg.BRG_STATUS 1) Fl.BRG_STATUS_STATE = 3 ∧ (pkgSt (updPkg 0 (fun x => { x with paused := [(0, 1)] }) devM) 0).paused ≠ [] := by decide +kernel

theorem test_bridgeFrame : (brgSt (out (.bridgeFrame 0 1 0 true []) (dB 2)) 0 1).expect = 1
    ∧ fld (out (.bridgeFrame 0 1 0 false []) (dB 2)) 0 (Reg.BRG_ERR 1) Fl.BRG_ERR_CRC_ERR = 1 := by decide +kernel
theorem test_negativeAcknowledgement : (brgSt (out (.negativeAcknowledgement 0 1 0 9) (dB 2)) 0 1).unack = some 9 := by decide +kernel
theorem test_marginCheck : (brgSt (out (.marginCheck 0 1 1 false) (dB 2)) 0 1).training = [1] := by decide +kernel
theorem test_moduleRetrain : fld (out (.moduleRetrain 0 1 0 4 false true) dTrain) 0 (Reg.BRG_STATUS 1) Fl.BRG_STATUS_REP0 = 4
    ∧ (fld (out (.moduleRetrain 0 1 0 5 false true) dTrain) 0 (Reg.BRG_STATUS 1) Fl.BRG_STATUS_MOD_UP).testBit 0 = false := by decide +kernel
theorem test_rerouteDrainComplete : (pkgSt (out (.rerouteDrainComplete 0) (updPkg 0 (fun x => { x with paused := [(0, 1)] }) devM)) 0).paused = [] := by decide +kernel

/-- The high-speed port of die 0 is a rein in a state toward die 0 of package 1. -/
def dRein (state : Nat) : Dev := setFld 0 Reg.REIN_STATUS Fl.REIN_STATUS_FAR_PKG 1 (setFld 0 Reg.REIN_STATUS Fl.REIN_STATUS_STATE state (setFld 0 Reg.HSP_MODE Fl.HSP_MODE_MODE 2 devM))
def idf (series : Nat) : IdFrame := ⟨series, true, 1, 0, false⟩

theorem witness_ReinsAndSuccession_reins : hspMode (dRein 1) 0 = 2 ∧ (dRein 1).cfg.present 0 = true ∧ idRefusal (dRein 1) 0 (idf 1) = 0 ∧ idRefusal (dRein 1) 0 (idf 2) ≠ 0
    ∧ 0 = (reinSt (dRein 3) 0).expect ∧ reinState (dRein 3) 0 = 3 ∧ reinState (dRein 4) 0 = 4
    ∧ (reinSt (updRein 0 (fun x => { x with was := some 3 }) (dRein 5)) 0).was = some 3
    ∧ (reinSt (updRein 0 (fun x => { x with failed := true }) (dRein 6)) 0).failed = true := by decide +kernel

theorem test_identityFrame : fld (out (.identityFrame 0 (idf 2)) (dRein 1)) 0 Reg.REIN_STATUS Fl.REIN_STATUS_REFUSE = 2
    ∧ reinState (out (.identityFrame 0 (idf 2)) (dRein 1)) 0 = 5 := by decide +kernel
theorem test_reinRecovery : reinState (out (.reinRecovery 0 true true false) (updRein 0 (fun x => { x with was := some 3 }) (dRein 5))) 0 = 6
    ∧ reinState (out (.reinRecovery 0 true false false) (updRein 0 (fun x => { x with was := some 4 }) (dRein 5))) 0 = 4 := by decide +kernel
theorem test_spareReinReplacement : (pkgSt (out (.spareReinReplacement 0) (updRein 0 (fun x => { x with failed := true }) { dRein 3 with cfg := dev1.cfg })) 0).fatal = true := by
  decide +kernel

/-- 10 ms have passed; die 3 has had no heartbeat. -/
def dHb : Dev := wr 3 Reg.TIM_NOW 10000000 devM

theorem witness_ReinsAndSuccession_succession : (dieSt dHb (crownDie dHb 0)).crownDown = false ∧ dHb.cfg.present 3 = true ∧ crownDie dHb 0 ≠ 3 ∧ (dieSt dHb 3).crownDown = false
    ∧ (dieSt dHb 3).hbAt + hbTimeout dHb 3 ≤ nowOf dHb 3 ∧ HoldRoom dHb 3
    ∧ ¬ (fld dHb 0 Reg.SUCC Fl.SUCC_EPOCH < 0 ∨ (fld dHb 0 Reg.SUCC Fl.SUCC_EPOCH = 0 ∧ 1 < fld dHb 0 Reg.SUCC Fl.SUCC_MASTER))
    ∧ fld dHb 0 Reg.SUCC Fl.SUCC_EPOCH < 1 := by unfold HoldRoom; decide +kernel

theorem test_heartbeatTimeout : (pkgSt (out (.heartbeatTimeout 3) dHb) 0).crown = 3 ∧ fld (out (.heartbeatTimeout 3) dHb) 3 Reg.SUCC Fl.SUCC_EPOCH = 1 := by decide +kernel
theorem test_claim : fld (out (.claim 0 7 5) devM) 0 Reg.SUCC Fl.SUCC_MASTER = 5 ∧ fld (out (.claim 0 1 5) devM) 0 Reg.SUCC Fl.SUCC_MASTER = 0 := by decide +kernel

/-- Ports 0 to 5 of die 0 serve its logical ports and port 6 is the spare; port `n` is in a state, the spare stands by. -/
def dP (n state : Nat) : Dev :=
  setFld 0 (Reg.PORT_STATUS n) Fl.PORT_STATUS_STATE state (setFld 0 (Reg.PORT_STATUS 6) Fl.PORT_STATUS_STATE 7
    (wr 0 Reg.MEMPORT (setB Fl.MEMPORT_SPARE_OK true (setF Fl.MEMPORT_SPARE 6 (BitVec.ofNat 64 (0 + 1 * 8 + 2 * 64 + 3 * 512 + 4 * 4096 + 5 * 32768)))) devM))
/-- The port of address 0x2000, and a device in which it is active. -/
def k0 : Nat := (portOf devM 0x2000).1
def dPa : Dev := setFld 5 (Reg.PORT_STATUS 2) Fl.PORT_STATUS_STATE 3 devM
def mr (op : MemOp) : MemReq := ⟨.core 0, 9, op, 0, 0x2000, ⟨0, false⟩, 0, 0, none⟩
def dThr : Dev := updPort k0 (fun x => { x with throttles := [⟨⟨0, false⟩, 0, 5, 0⟩], slots := [mr .read] }) (setFld 5 (Reg.RD_CTL 2) Fl.RD_CTL_THR_SLOTS 1 dPa)
/-- One read in the only slot in use, whose value has been determined. -/
def rd0 : MemReq := { mr .read with val := some (7, false) }
def dSlot : Dev := updPort k0 (fun x => { x with slots := [rd0] }) dPa

theorem witness_RequestsAtAMemoryPort : k0 = 37 ∧ portDie k0 = 5 ∧ dramAdmits dHr ⟨0, false⟩ .r 0x2000 = false ∧ portState dPa k0 = 3
    ∧ (portSt dPa k0).hold.length < 64 ∧ dramAdmits dPa ⟨0, false⟩ .r 0x2000 = true ∧ mayTake dThr k0 ⟨0, false⟩ = false
    ∧ mayTake dPa k0 ⟨0, false⟩ = true ∧ slotFor dPa k0 0 = true ∧ (portOf dPa 0x2000).1 = k0 ∧ dramAdmits dPa ⟨0, false⟩ .w 0x2000 = true
    ∧ (splitD dSlot k0 rd0.d).chan = 0 ∧ gapOk dSlot k0 rd0 = true ∧ shareOk dSlot k0 rd0 = true ∧ (portSt dSlot k0).hold = [] := by decide +kernel

theorem test_memoryRequest : memByte (out (.memoryRequest (.core 0) 9 (.write 0x55AA false) 0x2000 ⟨0, false⟩ 0) dPa) 0x2001 = 0x55
    ∧ (portSt (out (.memoryRequest (.core 0) 9 .read 0x2000 ⟨0, false⟩ 0) dHr) (portOf dHr 0x2000).1).done = [(9, 0, true)] := by decide +kernel
theorem test_commandIssue : (portSt (out (.commandIssue 37 0) dSlot) 37).done = [(9, 7, false)] := by
  decide +kernel

theorem witness_PortUpkeepRemapAndIntegrity_upkeep : (portSt devM 3).hold = [] ∧ portState (dP 0 3) 0 = 3 ∧ mapLocked devM 0 = false
    ∧ mapLocked (setFlg 0 Reg.MEMMAP Fl.MEMMAP_LOCK true devM) 0 = true ∧ maskBad 0 0x100 = false ∧ maskBad 0 0x300 = true
    ∧ isSealed dSeal (fld (setFld 0 (Reg.PORT_RESV 1 2) Fl.PORT_RESV_PART 3 dSeal) 0 (Reg.PORT_RESV 1 2) Fl.PORT_RESV_PART) = true
    ∧ isSealed devM (fld devM 0 (Reg.PORT_RESV 1 2) Fl.PORT_RESV_PART) = false := by decide +kernel

theorem test_rdWindowClear : (portSt (out (.rdWindowClear 3) (updPort 3 (fun x => { x with rd := [(1, [])] }) devM)) 3).rd = [] := by decide +kernel
theorem test_perBankRefresh : (portSt (out (.perBankRefresh 3 1 2) (updPort 3 (fun x => { x with openRow := [(18, some 5), (19, some 6)] }) devM)) 3).openRow
    = [(19, some 6)] := by decide +kernel
theorem test_conditionRetrain : 352 ∈ (dieSt (out (.conditionRetrain 0 1000 90) (dP 0 3)) 0).raised
    ∧ (out (.conditionRetrain 0 0 0) (dP 0 3)).regs = (dP 0 3).regs := by decide +kernel
theorem test_maskWrite : flg (out (.maskWrite 0 0 0 0x300) devM) 0 (Reg.PORT_STATUS 0) Fl.PORT_STATUS_MASK_REFUSED = true
    ∧ rg (out (.maskWrite 0 0 5 0x12000) devM) 0 (Reg.BAMASK 0 3) = 0x12000 := by decide +kernel
theorem test_resvWrite : flg (out (.resvWrite 0 0 0 (setB Fl.PORT_RESV_EN true (setF Fl.PORT_RESV_SHARE 49 0))) devM) 0 (Reg.PORT_STATUS 0) Fl.PORT_STATUS_RESV_REFUSED = true := by
  decide +kernel
theorem test_lockMemmap : mapLocked (out (.lockMemmap 0) devM) 0 = true := by decide +kernel

/-- An entry of the repeat tracker that is due; a check line held dirty; a conversion of region 0 to the light code under way. -/
def tr0 : TrackEnt := ⟨0x4000, 0x2000, 3, .repairDue⟩
def dTr : Dev := updPort 0 (fun x => { x with track := [tr0], ccache := [(1, 1), (2, 2)] }) (dP 0 3)
def dConv (left : Nat) : Dev :=
  setFlg 0 (Reg.CONV_FENCE 0) Fl.CONV_FENCE_ACTIVE true (setFld 0 Reg.CODE_CONV Fl.CODE_CONV_PORTS_LEFT left
    (setFlg 0 Reg.CODE_CONV Fl.CODE_CONV_NEWCODE true (setFlg 0 Reg.CODE_CONV Fl.CODE_CONV_BUSY true (dP 0 3))))
def dCopy : Dev := setFld 0 (Reg.PORT_COPY 0) Fl.PORT_COPY_TARGET 6 (setFlg 0 (Reg.PORT_COPY 0) Fl.PORT_COPY_ACTIVE true (dP 0 3))

theorem witness_PortUpkeepRemapAndIntegrity_remap :
    (List.range 64).find? (fun e => !flg (dP 0 3) 0 (Reg.REMAP 0 (0 * 64 + e)) Fl.REMAP_VALID) = some 0 ∧ (freeSpare (dP 0 3) 0 0 15).isSome = true
    ∧ fld (dP 0 3) 0 Reg.MEMPORT ⟨2, 0⟩ = 0 ∧ physPort (dP 0 3) 0 0 = 0 ∧ spareOf (dP 0 3) 0 = some 6 ∧ inReserve (dP 0 3) 0 = false
    ∧ flg dCopy 0 (Reg.PORT_COPY 0) Fl.PORT_COPY_ACTIVE = true ∧ fld dCopy 0 (Reg.PORT_COPY 0) Fl.PORT_COPY_TARGET = 6
    ∧ lportOf (dP 0 3) 0 = some 0 ∧ flg (dP 0 3) 0 (Reg.PORT_COPY 0) Fl.PORT_COPY_ACTIVE = false
    ∧ spareOf (setFlg 0 Reg.MEMPORT Fl.MEMPORT_SPARE_OK false (dP 0 3)) 0 = none
    ∧ flg (setFlg 0 Reg.SPARE_CTL Fl.SPARE_CTL_PORT_LOSS_RESERVE false (dP 0 3)) 0 Reg.SPARE_CTL Fl.SPARE_CTL_PORT_LOSS_RESERVE = false ∧ trackFind dTr 0 0x4000 = some tr0 ∧ HoldRoom dTr 0
    ∧ flg (dP 0 3) 0 (Reg.ECC_CTL 0) Fl.ECC_CTL_SCRUB_EN = true ∧ KMap.look 0 (portSt dTr 0).ccache 2 = 2 ∧ KMap.look 0 (portSt dTr 0).ccache 1 = 1
    ∧ flg (dConv 1) 0 (Reg.CONV_FENCE 0) Fl.CONV_FENCE_ACTIVE = true ∧ flg (dConv 1) 0 Reg.CODE_CONV Fl.CODE_CONV_BUSY = true
    ∧ fld (dConv 0) 0 Reg.CODE_CONV Fl.CODE_CONV_PORTS_LEFT = 0 := by unfold HoldRoom; decide +kernel

theorem test_rowRemap : 355 ∈ (dieSt (rowRemap 0 0 15 8 (dP 0 3)) 0).raised := by decide +kernel
theorem test_sparePortTakeover : fld (out (.sparePortTakeover 0 0) (dP 0 3)) 0 (Reg.PORT_COPY 0) Fl.PORT_COPY_TARGET = 6 := by decide +kernel

theorem test_takeoverSwitch : physPort (portSwitch 0 0 6 false dCopy) 0 0 = 6 ∧ portState (portSwitch 0 0 6 false dCopy) 0 = 6
    ∧ portState (portSwitch 0 0 6 false dCopy) 6 = 3 := by decide +kernel
theorem test_portFailure : (portSt (portSwitch 0 0 6 true (dP 0 3)) 6).allPoison = true := by decide +kernel
theorem test_repairRewrite : (trackFind (out (.repairRewrite 0 0x4000) dTr) 0 0x4000).map (·.st) = some .rewritten := by decide +kernel
theorem test_checkCacheError : (portSt (out (.checkCacheError 0 2 true) dTr) 0).ccache = [(1, 1)]
    ∧ 357 ∈ (dieSt (out (.checkCacheError 0 2 true) dTr) 0).raised := by decide +kernel
theorem test_conversionComplete : flg (out (.conversionComplete 0) (dConv 0)) 0 (Reg.CODE_REG 0) Fl.CODE_REG_CODE = true := by decide +kernel

/-! ### Witnesses: firewalls and partitions -/

/-- The device with a region of partition 3, which is sealed. -/
def dFw : Dev := wr 0 (Reg.FW_MASK 0 5) 8 dSeal

theorem witness_FirewallsAndPartitions_firewalls : dFw.cfg.present 31 = false ∧ regionLocked dFw 0 0 5 = true ∧ namesSealed dFw 0x18 = true ∧ namesSealed dFw 0x10 = false
    ∧ dFw.cfg.present 0 = true ∧ regionLocked dFw 0 0 1 = false ∧ regionLocked dFw 0 44 31 = false
    ∧ ((2 : Fin 3), Reg.FW_MASK (0 : Fin 45).val (1 : Fin 32).val, (5 : Word)) ∈ [((0 : Fin 3), Reg.FW_CFG 0 1, (5 : Word) &&& 0xFFFFFFE0000F#64),
        (1, Reg.FW_LIMIT 0 1, 5 &&& 0xFFFFFFE00000#64), (2, Reg.FW_MASK 0 1, 5)] := by decide +kernel

theorem test_firewallWrite : rg (out (.firewallWrite 0 0 1 1 0x2000F0) dFw) 0 (Reg.FW_LIMIT 0 1) = 0x200000
    ∧ rg (out (.firewallWrite 0 0 5 2 0xF0) dFw) 0 (Reg.FW_MASK 0 5) = 8 := by decide +kernel
theorem test_firewallWriteApplied : flg (out (.firewallWriteApplied 0) (out (.firewallWrite 0 0 1 2 1) dFw)) 0 (Reg.FW_STATUS 0) Fl.FW_STATUS_PENDING = false := by
  decide +kernel

/-- Partition 1 is in a state. With `own` it owns core 0 and that core's slice, with mesh shares and a pace floor. -/
def dPt (state : Nat) : Dev := setFld 0 (Reg.PART 1) Fl.PART_STATE state (wr 0 (Reg.FW_MASK 0 0) 1 devM)
def ownPart : Word := setB Fl.CORE_OWN_EN true (setF Fl.CORE_OWN_PART 1 0)
def allShares : Word := setF Fl.BWRES_DAT 4 (setF Fl.BWRES_QUE 1 (shares 2))
def dOwn (state : Nat) : Dev :=
  setFld 0 (Reg.PACE_CTL 0) Fl.PACE_CTL_FLOOR 64 (wr 0 (Reg.BWRES 1) allShares (wr 0 (Reg.SLICE_OWN 0) ownPart (wr 0 (Reg.CORE_OWN 0) ownPart
    (setFld 0 (Reg.LCORE 0) Fl.LCORE_TL_SLICE 0 (setFlg 0 (Reg.LCORE 0) Fl.LCORE_VALID true (dPt state))))))

theorem witness_FirewallsAndPartitions_partitions : partState (dPt 0) 1 = 0 ∧ partState (dPt 1) 1 = 1 ∧ sealResult (dPt 1) 1 = 3 ∧ sealResult (dOwn 1) 1 = 0
    ∧ sealResult (setFld 0 (Reg.PACE_CTL 0) Fl.PACE_CTL_FLOOR 63 (dOwn 1)) 1 = 7
    ∧ partState (dPt 2) 1 = 2 ∧ partRuns (updCore 0 (fun x => { x with run := true }) (dOwn 2)) 1 = true ∧ partRuns (dPt 2) 1 = false
    ∧ ownSlices (dPt 2) 1 = [] ∧ (∀ e ∈ (dPt 2).queues, ∀ q, e.2 = some q → q.owner.toNat ≠ 1) ∧ partState (dPt 4) 1 = 4
    ∧ inUse (dOwn 4) 1 = true ∧ inUse (dPt 4) 1 = false := by
  refine ⟨by decide +kernel, by decide +kernel, by decide +kernel, by decide +kernel, by decide +kernel, by decide +kernel, by decide +kernel,
    by decide +kernel, by decide +kernel, ?_, by decide +kernel, by decide +kernel, by decide +kernel⟩
  intro e h; exact absurd h (by rw [show (dPt 2).queues = [] from rfl]; simp)

theorem test_build : partState (out (.buildNs 1) (dPt 0)) 1 = 1 ∧ flg (out (.buildNs 1) (dPt 0)) 0 (Reg.PART 1) Fl.PART_WORLD = true
    ∧ partState (out (.buildS 1) (dPt 0)) 1 = 1 ∧ flg (out (.buildS 1) (dPt 0)) 0 (Reg.PART 1) Fl.PART_WORLD = false := by decide +kernel
theorem test_partOpen : partState (out (.partOpen 1) (dPt 1)) 1 = 2 ∧ fld (out (.partOpen 1) (dPt 3)) 0 (Reg.PART 1) Fl.PART_RESULT = 1 := by decide +kernel
theorem test_partSeal : partState (out (.partSeal 1) (dOwn 1)) 1 = 3 := by decide +kernel
theorem test_partTeardown : partState (out (.partTeardown 1) (dPt 2)) 1 = 4 := by decide +kernel
theorem test_partFree : partState (out (.partFree 1) (dPt 4)) 1 = 0 ∧ fld (out (.partFree 1) (dOwn 4)) 0 (Reg.PART 1) Fl.PART_RESULT = 9 := by decide +kernel

/-! ### Witnesses: events and the time base -/

/-- Local event 12 of die 0 is raised, or pending toward core 0 of its die in the secure group at level 0. -/
def dRaised : Dev := updDie 0 (fun x => { x with raised := [12] }) devM
def rt (pend : Bool) : Word := setB Fl.EVC_ROUTE_EN true (setF Fl.EVC_ROUTE_PRIO 3 (setB Fl.EVC_ROUTE_PENDING pend 0))
def dPend : Dev :=
  updCif 0 false (fun x => { x with cfg := BitVec.allOnes 64 })
    (wr 0 (Reg.EVC_ROUTE 12) (rt true) (setFlg 0 (Reg.LCORE 0) Fl.LCORE_VALID true (setFlg 0 (Reg.LCORE 1) Fl.LCORE_VALID true devM)))
def dStk : Dev := updCif 0 false (fun x => { x with stack := [(12, 3)] }) dPend

theorem witness_EventsAndTheTimeBase_events : 13 ∉ (dieSt dRaised 0).raised ∧ 12 ∈ (dieSt dRaised 0).raised ∧ 5 < 320 ∧ 5 % 8 = 5
    ∧ flg devM 0 (Reg.EVC_ROUTE 5) Fl.EVC_ROUTE_PENDING = false ∧ bestOfGroup devM 0 false = none
    ∧ (bestOfGroup dPend 0 false).map (fun e => (e.key, e.prio, e.ns, e.virt)) = some (12, 3, false, false)
    ∧ (cifSt dStk 0 false).stack = (12, 3) :: [] ∧ (cacheSt devM 0).sb = []
    ∧ cifRaiseOk dPend 0 false (partId dPend 0) 12 = true ∧ cifRaiseOk dPend 0 false (partId dPend 0) 13 = false := by decide +kernel

theorem test_eventArrival : flg (out (.eventArrival 0 12) dRaised) 0 (Reg.EVC_ROUTE 12) Fl.EVC_ROUTE_PENDING = true := by decide +kernel
theorem test_routeWrite : fld (out (.routeWrite 0 400 (rt false)) devM) 0 (Reg.EVC_ROUTE 400) Fl.EVC_ROUTE_PRIO = 3
    ∧ flg (out (.routeWrite 0 400 (rt true)) devM) 0 (Reg.EVC_ROUTE 400) Fl.EVC_ROUTE_PENDING = false := by decide +kernel
theorem test_cifTake : (cifSt (out (.cifTake 0 false) dPend) 0 false).stack = [(12, 3)]
    ∧ flg (out (.cifTake 0 false) dPend) 0 (Reg.EVC_ROUTE 12) Fl.EVC_ROUTE_ACTIVE = true := by decide +kernel
theorem test_cifFinish : (cifSt (out (.cifFinish 0 false 0x600C) dStk) 0 false).stack = []
    ∧ (cifSt (out (.cifFinish 0 false 0x400C) dStk) 0 false).finishErr = true := by decide +kernel
theorem test_cifRaise : (dieSt (out (.cifRaise 0 false 12) dPend) 0).raised = [12]
    ∧ (cifSt (out (.cifRaise 0 false 13) dPend) 0 false).raiseRefused = true := by decide +kernel
theorem test_cifTcmpWrite : (cifSt (out (.cifTcmpWrite 0 true 99) dPend) 0 true).tcmp = 99 := by decide +kernel
theorem test_timerComparator : (dieSt (out (.timerComparator 0 false) (out (.cifTcmpWrite 0 false 0) dPend)) 0).raised = [2] := by decide +kernel

/-- Time 5000 ns, increment of 10 ns; a follower with 7 ns to slew and an interval of one microsecond passed. -/
def dTm : Dev := wr 1 Reg.TIM_NOW 5000 (wr 0 Reg.TIM_NOW 5001 devM)
def dSlew : Dev := updDie 1 (fun x => { x with slew := 7, slewAge := 255000 }) dTm
def dStop : Dev := updPkg 0 (fun x => { x with refStop := true }) dTm
def dPps : Dev := updDie 0 (fun x => { x with ppsAt := some 0 }) (wr 0 Reg.TIM_NOW 1100000001 (setFlg 0 Reg.TIM_CTL Fl.TIM_CTL_PPS_EN true devM))

theorem witness_EventsAndTheTimeBase_time : (pkgSt dStop 0).refStop = true ∧ (pkgSt dTm 0).refStop = false ∧ dTm.cfg.present 1 = true ∧ slewLeft dTm 1 = 0
    ∧ 0 < slewLeft dSlew 1 ∧ (1 : Nat) ≠ refDie dSlew ∧ max 1 (fld dSlew 1 Reg.TIM_CTL Fl.TIM_CTL_SLEW_US) * 1000 ≤ (dieSt dSlew 1).slewAge
    ∧ synced (setFlg 1 Reg.TIM_QUALITY Fl.TIM_QUALITY_SYNCED true dTm) 1 = true ∧ refDie devM = 0
    ∧ flg devM 0 Reg.TIM_CTL Fl.TIM_CTL_PPS_EN = false ∧ flg dPps 0 Reg.TIM_CTL Fl.TIM_CTL_PPS_EN = true ∧ (dieSt dPps 0).ppsAt = some 0
    ∧ 0 + 1100000000 < nowOf dPps 0 := by decide +kernel

theorem test_referenceEdge : rg (out (.referenceEdge 1) dTm) 1 Reg.TIM_NOW = 5010 ∧ rg (out (.referenceEdge 1) dSlew) 1 Reg.TIM_NOW = 5011 := by decide +kernel
theorem test_timestampExchange : (dieSt (out (.timestampExchange 1) dTm) 1).slew = 1 ∧ synced (out (.timestampExchange 1) dTm) 1 = true := by decide +kernel
theorem test_alignmentLost : 504 ∈ (dieSt (out (.alignmentLost 1) (setFlg 1 Reg.TIM_QUALITY Fl.TIM_QUALITY_SYNCED true dTm)) 1).raised := by decide +kernel
theorem test_ppsEdge : rg (out .ppsEdge dPps) 0 Reg.PPS_CAP = 1100000001 ∧ (out .ppsEdge devM).regs = devM.regs := by decide +kernel
theorem test_ppsLoss : (dieSt (out .ppsLoss dPps) 0).raised = [502] := by decide +kernel
theorem test_adjWrite : rg (out (.adjWrite 0 0x1FFFFFFFFFFFFFFF) dTm) 0 Reg.TIM_ADJ = 0xFFFFFFFFFFFFFF ∧ (out (.adjWrite 1 5) dTm).regs = dTm.regs := by decide +kernel
theorem test_incrWrite : rg (out (.incrWrite 1 0x1234567890) dTm) 1 Reg.REF_CFG = 0x234567890 := by decide +kernel
theorem test_referenceStop : (pkgSt (out (.referenceStop 0) dTm) 0).refStop = true := by decide +kernel
theorem test_referenceResume : rg (out (.referenceResume 0 2) dStop) 1 Reg.TIM_NOW = 66035 ∧ rg (out (.referenceResume 0 2) dStop) 1 Reg.LAST_GAP = 2 := by
  decide +kernel

/-! ### Witnesses: the high-speed port -/

/-- The port of die 0 in a mode over a device, its domain on and its link up or down. -/
def dHsp (mode : Nat) (up : Bool) (d : Dev) : Dev :=
  setFlg 0 Reg.HSP_MODE Fl.HSP_MODE_LINK_UP up (setFlg 0 Reg.HSP_MODE Fl.HSP_MODE_PERST false (setFld 0 Reg.HSP_MODE Fl.HSP_MODE_MODE mode
    (setDomState 0 95 0 (setFld 0 Reg.BOOT_STATUS Fl.BOOT_STATUS_STAGE 3 d))))
def dEp : Dev := dHsp 0 true devM
def dEpDn : Dev := dHsp 0 false devM
def dRoot : Dev := dHsp 1 true devM
def dPerst : Dev := setFlg 0 Reg.HSP_MODE Fl.HSP_MODE_PERST true dEpDn
def dPme (d : Dev) : Dev := updHsp 0 (fun x => { x with cfg := [(cfgKey 1 17, 0x100)] }) d

theorem witness_PortLinksAndResets : linkUp dEpDn 0 = false ∧ mayTrain dEpDn 0 = true ∧ linkUp dEp 0 = true ∧ hspEnd dEp 0 = true ∧ perstOn dEp 0 = false
    ∧ perstOn dPerst 0 = true ∧ hspEnd dPerst 0 = true ∧ fnExists (dPme dEp) 0 1 = true ∧ cfgStored (dPme dEp) 0 (pfOf 1) 17 / 256 % 2 = 1
    ∧ fld (setFld 0 Reg.HSP_MODE Fl.HSP_MODE_LSTATE 2 (dPme dEpDn)) 0 Reg.HSP_MODE Fl.HSP_MODE_LSTATE = 2
    ∧ domState dEp 0 95 ≠ 1 ∧ domState (setDomState 0 95 1 dEp) 0 95 = 1 ∧ hspRoot dRoot 0 = true := by decide +kernel

theorem test_linkUp : fld (out (.linkUp 0 16 6 true) dEpDn) 0 (Reg.DOM_CTL 95) Fl.DOM_CTL_OPP = 3 ∧ 416 ∈ (dieSt (out (.linkUp 0 16 6 true) dEpDn) 0).raised := by
  decide +kernel
theorem test_linkRetrain : fld (out (.linkRetrain 0 8 5 false) dEp) 0 Reg.HSP_MODE Fl.HSP_MODE_WIDTH = 8 := by decide +kernel
theorem test_linkDown : fld (out (.linkDown 0) dEp) 0 Reg.HSP_MODE Fl.HSP_MODE_LSTATE = 3 := by decide +kernel
theorem test_perstNAssert : linkUp (out (.perstNAssert 0) dEp) 0 = false ∧ perstOn (out (.perstNAssert 0) dEp) 0 = true := by decide +kernel
theorem test_perstNDeassert : (dieSt (out (.perstNDeassert 0) dPerst) 0).raised = [428] := by decide +kernel
theorem test_pmeTurnOff : (hspSt (out (.pmeTurnOff 0) dEp) 0).sent = [.pmeToAck] := by decide +kernel
theorem test_pmeReq : (hspSt (out (.pmeReq 0 1) (dPme dEp)) 0).sent = [.pme 1] ∧ (hspSt (out (.pmeReq 0 1) dEp) 0).sent = [] := by decide +kernel
theorem test_electricalIdleExit : domState (out (.electricalIdleExit 0) (setDomState 0 95 1 dEp)) 0 95 = 5 := by decide +kernel
theorem test_errorMessageReceived : (dieSt (out (.errorMessageReceived 0 2) dRoot) 0).raised = [436] := by decide +kernel
theorem test_pmeMessageReceived : (dieSt (out (.pmeMessageReceived 0) dRoot) 0).raised = [438] := by decide +kernel
theorem test_rootRstWrite : linkUp (out (.rootRstWrite 0 true) dRoot) 0 = false := by decide +kernel

/-- Functions 0 and 1 have their enables set and function 1 may carry traffic; channel 2 of function 1 is in a state; a request is outstanding. -/
def fnBits : Word := setB Fl.FN_STATUS_BME true (setB Fl.FN_STATUS_MSE true 0)
def dFn (d : Dev) : Dev :=
  wr 0 (Reg.FN_STATUS 1) fnBits (wr 0 (Reg.FN_STATUS 0) fnBits (setFlg 0 (Reg.FN_CFG 1) Fl.FN_CFG_EN true (wr 0 (Reg.DMA_CFG 2) (setF Fl.DMA_CFG_FN 1 (setB Fl.DMA_CFG_EN true 0)) d)))
def dCh (n : Nat) : Dev := setChanState 0 2 n (dFn dEp)
def oReq (by' : OutFor) (drop : Bool) : OutReq := ⟨5, 1, by', 0x100, 8, 0, 0, drop, false⟩
def dOut (o : OutReq) : Dev := updHsp 0 (fun x => { x with outs := [o] }) (dCh 1)
def dFnB (fl : Fld) : Dev := setFnFlg 0 1 fl true (dFn dEp)
def dRel : Dev := setFlg 0 Reg.BOOT_STATUS Fl.BOOT_STATUS_RELEASED true dEp
def dWin (held : List (KMap Word)) : Dev := updHsp 0 (fun x => { x with commits := held }) (setFlg 0 Reg.WIN_STATUS Fl.WIN_STATUS_PENDING true dEp)

theorem witness_PortFunctions : hspEnd dEp 0 = true ∧ fnExists dEp 0 1 = true ∧ fnFlg dEp 0 1 Fl.FN_STATUS_VF_EN = false
    ∧ (fnFld dEp 0 1 Fl.FN_STATUS_DSTATE == 3) = !true ∧ fnFlg (dCh 1) 0 1 Fl.FN_STATUS_BME = true ∧ chanFn (dCh 1) 0 2 = 1 ∧ chanState (dCh 1) 0 2 = 1
    ∧ fnFlg (dFnB Fl.FN_STATUS_QUIESCING) 0 1 Fl.FN_STATUS_QUIESCING = true ∧ (∀ o ∈ (hspSt (dFnB Fl.FN_STATUS_QUIESCING) 0).outs, o.fn ≠ 1)
    ∧ fnFlg (dFnB Fl.FN_STATUS_FLR_BUSY) 0 1 Fl.FN_STATUS_FLR_BUSY = true ∧ linkUp dEp 0 = true ∧ domOn dEp 0 95 = true ∧ fnExists dEp 0 2 = false
    ∧ inReserve dEp 0 = false ∧ released dEp 0 = false ∧ released dRel 0 = true ∧ (3 : Nat) ∉ [1, 17, 20, 26, 174]
    ∧ outAt (dOut (oReq (.core 0) true)) 0 5 = some (oReq (.core 0) true) ∧ outAt (dOut (oReq (.core 0) false)) 0 5 = some (oReq (.core 0) false)
    ∧ outAt (dOut (oReq (.chan 2) false)) 0 5 = some (oReq (.chan 2) false)
    ∧ nowOf (dOut (oReq (.core 0) false)) 0 < 0 + cplTimeout (dOut (oReq (.core 0) false)) 0 1
    ∧ 0 + cplTimeout (wr 0 Reg.TIM_NOW 0xFFFFFFFFFFFF (dOut (oReq (.core 0) false))) 0 1 ≤ nowOf (wr 0 Reg.TIM_NOW 0xFFFFFFFFFFFF (dOut (oReq (.core 0) false))) 0
    ∧ flg dEp 0 Reg.WIN_STATUS Fl.WIN_STATUS_PENDING = false ∧ flg (dWin [[]]) 0 Reg.WIN_STATUS Fl.WIN_STATUS_PENDING = true
    ∧ (hspSt (dWin []) 0).commits = [] ∧ (hspSt (dWin [[]]) 0).commits = [] :: [] := by decide +kernel

theorem test_bmeClear : chanState (out (.bmeClear 0 1) (dCh 1)) 0 2 = 3 ∧ (hspSt (out (.bmeClear 0 1) (dOut (oReq (.core 0) false))) 0).outs = [oReq (.core 0) true] := by
  decide +kernel
theorem test_quiesceEnd : (dieSt (out (.quiesceEnd 0 1) (dFnB Fl.FN_STATUS_QUIESCING)) 0).raised = [422] := by decide +kernel
theorem test_enableSet : fnFlg (out (.enableSet 0 1 2) dEp) 0 1 Fl.FN_STATUS_VF_EN = true ∧ 429 ∈ (dieSt (out (.enableSet 0 1 2) dEp) 0).raised := by decide +kernel
theorem test_flr : fnFlg (out (.flr 0 1) (dFn dEp)) 0 1 Fl.FN_STATUS_MSE = false := by decide +kernel
theorem test_flrComplete : 423 ∈ (dieSt (out (.flrComplete 0 1) (dFnB Fl.FN_STATUS_FLR_BUSY)) 0).raised := by decide +kernel
theorem test_dStateChange : chanState (out (.dStateChange 0 1 true) (dCh 1)) 0 2 = 2 := by decide +kernel
theorem test_configurationRequest : (hspSt (out (.configurationRequest 0 2 0 none 9) dEp) 0).sent = [.cpl 2 9 1 false []]
    ∧ (hspSt (out (.configurationRequest 0 1 0 none 9) dEp) 0).sent = [.cpl 1 9 2 false []] := by decide +kernel
theorem test_completionReceived : outAt (out (.completionReceived 0 5 0 false [1, 2, 3, 4, 5, 6, 7, 8]) (dOut (oReq (.core 0) false))) 0 5 = none
    ∧ fnFld (out (.completionReceived 0 5 0 false []) (dOut (oReq (.core 0) true))) 0 1 Fl.FN_STATUS_CPL_DISCARD = 1 := by decide +kernel
theorem test_completionTimeout : 421 ∈ (dieSt (out (.completionTimeout 0 5) (wr 0 Reg.TIM_NOW 0xFFFFFFFFFFFF (dOut (oReq (.core 0) false)))) 0).raised := by
  decide +kernel
theorem test_go : flg (out (.go 0) dEp) 0 Reg.WIN_STATUS Fl.WIN_STATUS_PENDING = true ∧ flg (out (.go 0) (dWin [])) 0 Reg.WIN_STATUS Fl.WIN_STATUS_HELD = true := by
  decide +kernel
theorem test_winCommitComplete : flg (out (.winCommitComplete 0) (dWin [])) 0 Reg.WIN_STATUS Fl.WIN_STATUS_PENDING = false := by decide +kernel

/-- The BAR4 window of function 1 maps the low DRAM; a doorbell page, a queue and a device in which slice 1, its home, keeps the line of 0x2000. -/
def dIn (q : QueueSt) : Dev :=
  { updHsp 0 (fun x => { x with live := [(33, setB Fl.WIN_CTL_EN true 0)] }) (dFn (wr 0 (Reg.DB_MAP 0) (setB Fl.DB_MAP_EN true 0)
      (wr 0 Reg.QTAB (setB Fl.QTAB_EN true 0) (dHsp 0 true (updHome 1 (fun x => { x with llc := [(key0, some lineH)] }) (setDomState 0 44 0 devM)))))) with queues := [(0, some q)] }
def qIn : QueueSt := { imageQueue 0 with ringLg := 8, pushMask := 1, popMask := 1, packed := true }
def dI2 : Dev := dIn qIn
def eight : List (Option Byte) := [some 1, some 2, some 3, some 4, some 5, some 6, some 7, some 8]
def itm : QItem := .words [0x0807060504030201]
def prod1 : QProd := fnProd dI2 0 1
def dNoMse : Dev := setFnFlg 0 1 Fl.FN_STATUS_MSE false dI2
def dNoEn : Dev := setFlg 0 (Reg.FN_CFG 1) Fl.FN_CFG_EN false dI2

theorem witness_PortTraffic_inbound : tgtFits dI2 0 (.bar 4 0x2000) = true ∧ linkUp dI2 0 = true ∧ domOn dI2 0 95 = true ∧ (hspSt dI2 0).inq = []
    ∧ inGate dNoMse 0 1 = some 1 ∧ inGate dI2 0 1 = none ∧ inOff dNoEn 0 1 = true ∧ inGate dNoEn 0 1 = none ∧ inOff dI2 0 1 = false
    ∧ inPlace dI2 0 1 (.bar 0 8) = .bar0 8 ∧ inPlace dI2 0 1 (.bar 2 0x400FFFFF) = .page 255 ∧ inPlace dI2 0 1 (.bar 2 0x3FFFFFFF) = .win 15 0x3FFFFFF
    ∧ inPlace dI2 0 1 (.bar 4 0x2000) = .win 16 0x2000 ∧ winTranslate dI2 0 0 0 8 = none ∧ winTranslate dI2 0 16 0x2000 8 = some 0x2000
    ∧ regionOf 0x2000 = .dram 0 0x2000 ∧ rangeAwake dI2 0 0x2000 8 = true ∧ (∀ a, HostTgt.bar 4 0x2000 = .bus a → isMsi dI2 0 a eight = false)
    ∧ 0 < msixCount 1 ∧ 0 < msixCount 65 := by
  refine ⟨?_, ?_, ?_, ?_, ?_, ?_, ?_, ?_, ?_, ?_, ?_, ?_, ?_, ?_, ?_, ?_, ?_, ?_, ?_, ?_⟩ <;> first | decide +kernel | (intro a h; cases h)

theorem test_inboundMemoryRead : (hspSt (out (.inboundMemoryRead 0 1 (.bar 4 0x2000) 8 7) dI2) 0).sent
      = [.cpl 1 7 0 false [0x88, 0x77, 0x66, 0x55, 0x44, 0x33, 0x22, 0x11]]
    ∧ (hspSt (out (.inboundMemoryRead 0 1 (.bar 2 0) 8 7) dI2) 0).sent = [.cpl 1 7 1 false []] := by decide +kernel
theorem test_inboundMemoryWrite : llcLine (out (.inboundMemoryWrite 0 1 (.bar 4 0x2000) eight false) dI2) 1 key0
      = some { lineH with data := 0x0807060504030201 }
    ∧ msixWord (out (.inboundMemoryWrite 0 1 (.bar 0 0x10000C) [some 0, some 0, some 0, some 0] false) dI2) 0 1 0 3 = 0 := by decide +kernel

/-- The tail buffer holds a doorbell entry; a doorbell waits behind a full one. -/
def dBuf : Dev := updHsp 0 (fun x => { x with buf := [(0, prod1, itm)] }) dI2
def dFull : Dev := wr 0 Reg.TIM_NOW 1000000 (updHsp 0 (fun x => { x with buf := List.replicate 8 (1, prod1, .closeMark), inq := [(.db 1 0 prod1 [itm], 0)] }) dI2)

theorem witness_PortTraffic_doorbells : dbItems dI2 0 1 1 0x40001000 eight = none ∧ HoldRoom dI2 0 ∧ dbItems dI2 0 1 0 0x40000008 eight = some [itm] ∧ (hspSt dI2 0).buf = []
    ∧ bufUse dI2 0 < 8 ∧ (hspSt dBuf 0).inq = [] ∧ (hspSt dBuf 0).buf = (0, prod1, itm) :: []
    ∧ (tailPush 0 prod1 itm (updHsp 0 (fun z => { z with buf := [] }) dBuf)).isSome = true ∧ (hspSt dFull 0).inq = [(.db 1 0 prod1 (itm :: []), 0)]
    ∧ bufAdd 0 0 prod1 itm (updHsp 0 (fun z => { z with inq := [] }) dFull) = none
    ∧ 0 + max 1 (fld dFull 0 Reg.DB_CTL Fl.DB_CTL_DB_TO) * 1000 ≤ nowOf dFull 0 := by unfold HoldRoom; decide +kernel

theorem test_doorbellWrite : (hspSt (out (.doorbellWrite 0 1 0 8 eight) dI2) 0).buf = [(0, prod1, itm)]
    ∧ fnFld (out (.doorbellWrite 0 1 1 0 eight) dI2) 0 1 Fl.FN_STATUS_DB_DISCARD = 1 := by decide +kernel
theorem test_doorbellRelease : (hspSt (out (.doorbellRelease 0) dBuf) 0).buf = []
    ∧ (queueAt (out (.doorbellRelease 0) dBuf) 0).map (fun q => tailOf q 2000) = some [(prod1, itm)] := by decide +kernel
theorem test_doorbellTimeout : 425 ∈ (dieSt (out (.doorbellTimeout 0) dFull) 0).raised ∧ (hspSt (out (.doorbellTimeout 0) dFull) 0).inq = [] := by decide +kernel

/-- Channel 2 of function 1 takes its descriptors from queue 0, whose entry asks for a READ of 64 bytes from host address 0x9000 to 0x2000;
or it runs with a current descriptor of the given operation. -/
def desc : QEntry := ⟨BitVec.ofNat 512 (64 * 2 ^ 32 + 0x9000 * 2 ^ 64 + 0x2000 * 2 ^ 128 + 0x77 * 2 ^ 192), false, 64, false, false, false⟩
def qDma : QueueSt := { imageQueue 0 with ringLg := 8, pushMask := 1, popMask := 1, win := [desc], tail := 1 }
def dRun (op state : Nat) (due : Bool) : Dev :=
  updChan 0 2 (fun x => { x with due := due }) (wr 0 (Reg.DMA_CUR 2 2) 0x2000 (wr 0 (Reg.DMA_CUR 2 1) 0x9000
    (wr 0 (Reg.DMA_CUR 2 0) (BitVec.ofNat 64 (op + 64 * 2 ^ 32)) (setChanState 0 2 state (dIn qDma)))))
def wDesc (i : Nat) : Word := BitVec.ofNat 64 (lineGet desc.data (8 * i) 8)

theorem witness_PortTraffic_dma : chanFn (dIn qDma) 0 2 = 1 ∧ dmaReady (dIn qDma) 0 2 = true ∧ fld (dIn qDma) 0 (Reg.DMA_CFG 2) Fl.DMA_CFG_DQ = 0
    ∧ qFaults (dIn qDma) qPOP (BitVec.ofNat 64 0) (fnWho (dIn qDma) 0 1).ns (fnProd (dIn qDma) 0 1) = false ∧ queueAt (dIn qDma) 0 = some qDma
    ∧ qDma.packed = false ∧ qDma.framed = false ∧ popWhy qDma = none ∧ qDma.win = desc :: [] ∧ desc.poison = false ∧ badDesc 1 wDesc = false
    ∧ chanState (dRun 0 1 false) 0 2 = 1 ∧ (chanSt (dRun 0 1 false) 0 2).due = false ∧ fnIssues (dRun 0 1 false) 0 1 = true
    ∧ (chanSt (dRun 0 1 false) 0 2).pos < dmaLen (dRun 0 1 false) 0 2 ∧ dmaOp (dRun 0 1 false) 0 2 = 0 ∧ (hspSt (dRun 0 1 false) 0).outs.length < 512
    ∧ dmaOp (dRun 1 1 false) 0 2 = 1 ∧ unitAwake (dRun 1 1 false) 0 0x2000 = true ∧ unitAwake (dRun 1 1 false) 0 0x203F = true
    ∧ (chanSt (dRun 0 1 true) 0 2).due = true ∧ (dmaPush 0 2 (dRun 0 1 true)).2 = true ∧ (chanSt (dRun 0 1 true) 0 2).status = 0
    ∧ chanState (dRun 0 5 false) 0 2 = 5 ∧ chanState (dRun 0 4 false) 0 2 = 4 := by decide +kernel

theorem test_dmaDescriptorPop : chanState (out (.dmaDescriptorPop 0 2) (dIn qDma)) 0 2 = 1 ∧ dmaHost (out (.dmaDescriptorPop 0 2) (dIn qDma)) 0 2 = 0x9000 := by
  decide +kernel
theorem test_dmaRead : (hspSt (out (.dmaRead 0 2) (dRun 0 1 false)) 0).sent = [.memRd 1 1 0x9000 64] := by decide +kernel
theorem test_dmaWrite : (hspSt (out (.dmaWrite 0 2) (dRun 1 1 false)) 0).sent = [.memWr 1 0x9000 ([0x88, 0x77, 0x66, 0x55, 0x44, 0x33, 0x22, 0x11] ++ List.replicate 56 0) false] := by
  decide +kernel
theorem test_dmaCompletionPush : chanState (out (.dmaCompletionPush 0 2) (dRun 0 1 true)) 0 2 = 0
    ∧ fld (out (.dmaCompletionPush 0 2) (dRun 0 1 true)) 0 (Reg.DMA_STATUS 2) Fl.DMA_STATUS_DONE = 1 := by decide +kernel
theorem test_dmaResume : chanState (out (.dmaResume 0 2) (dRun 0 5 false)) 0 2 = 1 := by decide +kernel
theorem test_abort : chanState (out (.abort 0 2) (dRun 0 4 false)) 0 2 = 0 := by decide +kernel

/-- Vector 0 of function 1 may be sent; a root port with its MSI map entry 3 for vector 9 of core 1 of die 0. -/
def dMsix : Dev := updHsp 0 (fun x => { x with cfg := [(cfgKey 1 20, 0x80000000)], msix := [(2048, 0x1000), (2050, 0x55), (2051, 0)] }) dI2
def dMsi : Dev := wr 0 (Reg.MSI_MAP 3) (setB Fl.MSI_MAP_EN true (setF Fl.MSI_MAP_CORE 1 (setF Fl.MSI_MAP_VEC 9 0))) (setFlg 0 Reg.MSI_CAP Fl.MSI_CAP_EN true dRoot)

theorem witness_PortTraffic_interrupts : hspEnd dI2 0 = true ∧ fnExists dI2 0 1 = true ∧ (255 : BitVec 9).toNat < msixCount 1 ∧ msixReady dI2 0 1 0 = false
    ∧ msixReady dMsix 0 1 0 = true ∧ hspRoot dMsi 0 = true ∧ flg dMsi 0 Reg.MSI_CAP Fl.MSI_CAP_EN = true ∧ linkUp dMsi 0 = true ∧ domOn dMsi 0 95 = true
    ∧ (hspSt dMsi 0).inq = [] ∧ getB Fl.MSI_MAP_EN (rg dMsi 0 (Reg.MSI_MAP ((2051 : BitVec 32).toNat % 2048))) = true
    ∧ getB Fl.MSI_MAP_EN (rg dMsi 0 (Reg.MSI_MAP ((4 : BitVec 32).toNat % 2048))) = false := by decide +kernel

theorem test_fnMsixSend : (hspSt (out (.fnMsixSend 0 1 0) dMsix) 0).sent = [.msix 1 0 0x1000 0x55] ∧ (hspSt (out (.fnMsixSend 0 1 0) dI2) 0).pend = [(1, 0)] := by
  decide +kernel
theorem test_messageSignalledInterrupt : 9 ∈ (cifSt (out (.messageSignalledInterrupt 0 3) dMsi) 1 false).vpend
    ∧ 437 ∈ (dieSt (out (.messageSignalledInterrupt 0 4) dMsi) 0).raised := by decide +kernel
theorem test_virtualEvent : (cifSt (out (.virtualEvent 3 true 200) devM) 3 true).vpend = [200] := by decide +kernel

/-! ### Witnesses: Reserve mode, restitching, records -/

/-- Two packages of two dies; package 1 has heard nothing for 10 ms. The entry of package 0 into Reserve mode is due. -/
def d2 : Dev := wr 8 Reg.TIM_NOW 10000000 (Dev.resetOf ⟨[2, 2, 0, 0], 0, []⟩)
def dResv : Dev := updCore 0 (fun x => { x with run := true }) (updPkg 0 (fun x => { x with resv := some 7 }) dev1)
def dExit : Dev := setFlg 0 Reg.RAS_RESERVE Fl.RAS_RESERVE_EXITING true (setFlg 0 Reg.RAS_RESERVE Fl.RAS_RESERVE_IN true devM)
def dVin : Dev := updDie 0 (fun x => { x with vinBad := 2 }) devM

theorem witness_ReserveModeEntryAndExit : 0 < devM.cfg.ndie 0 ∧ (dieSt dVin 0).vinBad = 2 ∧ flg dVin 0 Reg.SUPPLY Fl.SUPPLY_VIN_OOR = false
    ∧ (pkgSt dVin 0).resv = none ∧ pkgReserve dVin 0 = false ∧ (1 : Nat) ≠ d2.cfg.master ∧ 0 < d2.cfg.ndie 1
    ∧ (pkgSt d2 1).xchgAt + 10000000 ≤ nowOf d2 (crownDie d2 1) ∧ (pkgSt d2 1).resv = none ∧ pkgReserve d2 1 = false
    ∧ (pkgSt dResv 0).resv = some 7 ∧ allExiting dExit = true := by decide +kernel

theorem test_supplySample : rg (out (.supplySample 0 2500 1 5000) devM) 7 Reg.SUPPLY = 0x1388000109C4
    ∧ (pkgSt (out (.supplySample 0 2499 1 5000) { dVin with cfg := dev1.cfg }) 0).resv = some 1 ∧ (pkgSt (out (.supplySample 0 6000 1 5000) dVin) 0).resv = none := by decide +kernel
theorem test_masterLoss : (pkgSt (out (.masterLoss 1) d2) 1).resv = some 3 ∧ (pkgSt (out (.masterLoss 0) d2) 0).resv = none := by decide +kernel
theorem test_reserveModeEntry : fld (out (.reserveModeEntry 0 false) dResv) 0 Reg.RAS_RESERVE Fl.RAS_RESERVE_CAUSE = 7 := by decide +kernel
theorem test_reserveExitComplete : (coreSt (out .reserveExitComplete { dExit with cfg := dev1.cfg }) 0).run = true := by
  decide +kernel

/-- Core 0 and slice 0 of die 0 are in service on tile 0 and slice 1 on tile 1; with `sp` every other tile of the die is absent. -/
def dSvcTiles : Dev :=
  setFld 0 (Reg.LSLICE 1) Fl.LSLICE_PTILE 1 (setFlg 0 (Reg.LSLICE 1) Fl.LSLICE_VALID true (setFlg 0 (Reg.LSLICE 0) Fl.LSLICE_VALID true
    (setFlg 0 (Reg.LCORE 0) Fl.LCORE_VALID true devM)))
def dNoSpare : Dev := updDie 0 (fun x => { x with badCore := List.range 44, badSlice := List.range 44 }) dSvcTiles
def dMov : Dev := updDie 0 (fun x => { x with moving := some (0, 2) }) dSvcTiles
def erec : ErrRec := ErrRec.mk' 1 0 3 2
def dLog : Dev := updDie 0 (fun x => { x with hold := [erec] }) (setFlg 0 Reg.LOG_CTL Fl.LOG_CTL_EN true { wr 0 Reg.QTAB (setB Fl.QTAB_EN true 0) devM with queues := [(0, some qIn)] })
def dDbg : Dev := setFlg 0 Reg.DBG_STATUS Fl.DBG_STATUS_NW_CONTROL true (setFlg 0 Reg.DBG_STATUS Fl.DBG_STATUS_SW_CONTROL true devM)
def inj : Word := setF Fl.RAS_INJECT_TYPE 2 (setF Fl.RAS_INJECT_UNIT 3 (setF Fl.RAS_INJECT_KIND 7 0))

theorem witness_RestitchingWearAndRecords : flg dSvcTiles 0 (Reg.LCORE 0) Fl.LCORE_VALID = true ∧ inReserve dSvcTiles 0 = false
    ∧ mayRestitch dSvcTiles 0 true .error = true ∧ mayRestitch (setFlg 0 Reg.SPARE_CTL Fl.SPARE_CTL_WEAR_CORE true dNoSpare) 0 true .wear = true
    ∧ spareCores dSvcTiles 0 = 1 :: (List.range 42).map (· + 2) ∧ (cacheSt dSvcTiles 0).l2 = [] ∧ (cacheSt dSvcTiles 0).sb = [] ∧ (qEng dSvcTiles 0).slots = []
    ∧ spareCores dNoSpare 0 = [] ∧ flg dSvcTiles 0 (Reg.LSLICE 0) Fl.LSLICE_VALID = true ∧ flg dSvcTiles 0 (Reg.LSLICE 0) Fl.LSLICE_REDIRECTED = false
    ∧ (dieSt dSvcTiles 0).moving = none ∧ mayRestitch dSvcTiles 0 false .command = true ∧ spareSlices dSvcTiles 0 = 2 :: (List.range 41).map (· + 3)
    ∧ (homeSt dSvcTiles 0).dir = [] ∧ (homeSt dSvcTiles 0).llc = [] ∧ spareSlices dNoSpare 0 = []
    ∧ mayRestitch (setFlg 0 Reg.SPARE_CTL Fl.SPARE_CTL_WEAR_SLICE true dNoSpare) 0 false .wear = true ∧ (dieSt dMov 0).moving = some (0, 2)
    ∧ fld dNoSpare 0 (Reg.LSLICE 1) Fl.LSLICE_PTILE = 1 ∧ flg dNoSpare 0 (Reg.SLICE_STATUS 1) Fl.SLICE_STATUS_REDIRECT = false
    ∧ (dieSt dLog 0).hold = erec :: [] ∧ (dieSt dLog 0).holdDropped = false ∧ flg dLog 0 Reg.LOG_CTL Fl.LOG_CTL_EN = true ∧ inReserve dLog 0 = false
    ∧ (tailPush (fld dLog 0 Reg.LOG_CTL Fl.LOG_CTL_QID) ⟨4000, false, 0, 0⟩ (.full (ofLineBytes erec.bytes)) dLog).isSome = true
    ∧ dbgControl dDbg false = true ∧ dbgControl dDbg true = true ∧ getF Fl.RAS_INJECT_TYPE inj = 2 := by decide +kernel

theorem test_coreRestitch : (dieSt (coreRestitch 0 .error dSvcTiles) 0).badCore = [0] := by decide +kernel
theorem test_coreRestitch_worn : (dieSt (out (.coreRestitch 0 .wear) (setFlg 0 Reg.SPARE_CTL Fl.SPARE_CTL_WEAR_CORE true dNoSpare)) 0).worn = [0] := by decide +kernel
theorem test_sliceRestitch : (dieSt (out (.sliceRestitch 0 .command) dSvcTiles) 0).moving = some (0, 2) := by decide +kernel
theorem test_sliceSwitch : (dieSt (sliceSwitch 0 dMov) 0).badSlice = [0] := by decide +kernel
theorem test_sliceRedirect : (dieSt (sliceRedirect 0 1 dNoSpare) 0).moving = none := by decide +kernel
theorem test_wearMeasurement : flg (out (.wearMeasurement 0 5 false 2899 3) devM) 0 (Reg.WEAR_STATUS 5 0) Fl.WEAR_STATUS_BELOW_FLOOR = true
    ∧ flg (out (.wearMeasurement 0 5 true 2899 3) devM) 0 (Reg.WEAR_STATUS 5 1) Fl.WEAR_STATUS_BELOW_FLOOR = false := by decide +kernel
theorem test_errorRecordPush : (dieSt (out (.errorRecordPush 0) dLog) 0).hold = [] := by decide +kernel
theorem test_injectGo : (7, 3, 2) ∈ (dieSt (out (.injectGo 0 inj) dDbg) 0).armed ∧ (portSt (out (.injectGo 0 inj) dDbg) 3).inject = some 2
    ∧ (dieSt (out (.injectGo 0 inj) devM) 0).armed = [] := by decide +kernel

/-! ### Witnesses: the Crown -/

/-- The Crown of die 0 runs at SRAM address 0x100 with c1 = 5, c2 = -1, c4 and c14 at SRAM places, and the bytes 0x80 to 0x87 at 0x200. -/
def crn : CrnSt := { CrnSt.init 0 with pc := 0x10000100, rom := false, c := [(1, 5), (2, 0xFFFFFFFF), (4, 0x10000201), (14, 0x10000200)], sram := [(0x200, 0x80), (0x201, 0x81),
                                (0x202, 0x82), (0x203, 0x83), (0x204, 0x84), (0x205, 0x85), (0x206, 0x86), (0x207, 0x87)] }
def dC (x : CrnSt) : Dev := { devM with crns := [(0, x)] }
def xOf (i : Instr) (x : CrnSt) : CrnSt := crnSt (out i (dC x)) 0
/-- It stands in the slot of a branch, taken to 0x10000400. -/
def crnS : CrnSt := { crn with slot := some ⟨0x100000FE, some 0x10000400, false⟩ }

/-- The decidable form of a Crown that executes an instruction outside a slot. -/
theorem crnReady {d : Dev} {D : Nat} {ctl : Bool} {l : List Nat}
    (h : (crnRuns d D && decide ((crnSt d D).pc % 2 = 0) && crnFetches (crnSt d D).pc && !l.any (crnPending (crnSt d D)) && (crnSt d D).slot.isNone) = true) :
    CrnReady d D ctl l := by
  simp only [Bool.and_eq_true, decide_eq_true_eq, Bool.not_eq_true', Option.isNone_iff_eq_none] at h
  exact ⟨h.1.1.1.1, h.1.1.1.2, h.1.1.2, h.1.2, fun b hb => by simp [h.2] at hb⟩

theorem witness_CrownArithmeticAndMemory : CrnReady (dC crn) 0 false [1, 1, 2] ∧ CrnReady (dC crn) 0 false [15, 14] ∧ CrnReady (dC crn) 0 false [2, 3, 14]
    ∧ ¬ ((1 : BitVec 3) = 0 ∧ (1 : CReg) = 0 ∧ (2 : CReg) = 0) ∧ 12 ≤ (8191 : BitVec 13).toNat
    ∧ (crnReg crn 14 + BitVec.ofNat 32 (4 * (1 : BitVec 7).toNat)).toNat % 4 = 0 ∧ crnPlace 0x10000204 4 = .sram 0x204 ∧ crnPlace 0x1003FFFC 4 = .sram 0x3FFFC
    ∧ 0x10000201 % 4 ≠ 0 ∧ crnPlace 0x10040000 4 = .none' ∧ crnPlace 0x10000200 8 = .sram 0x200 ∧ crnPlace 0x10040000 8 = .none' :=
  ⟨crnReady (by decide +kernel), crnReady (by decide +kernel), crnReady (by decide +kernel), by decide +kernel⟩

theorem test_c16rAlu : crnReg (xOf (.c16rAlu 0 2 1 2) crn) 1 = 6 ∧ (xOf (.c16rAlu 0 2 1 2) crnS).pc = 0x10000400
    ∧ (xOf (.c16rAlu 0 0 0 0) crn).ecause = 1 := by decide +kernel
theorem test_cAddi : crnReg (xOf (.cAddi 0 1 0x7F) crn) 1 = 4 ∧ crnReg (xOf (.cLi 0 0 9) crn) 0 = 0 := by decide +kernel
theorem test_cLi : crnReg (xOf (.cLi 0 3 0x40) crn) 3 = 0xFFFFFFC0 := by decide +kernel
theorem test_c32rAlu : crnReg (xOf (.c32rAlu 0 7 3 2 1) crn) 3 = 0xFFFFFFFF ∧ crnReg (xOf (.c32rAlu 0 11 3 2 2) crn) 3 = 0xFFFFFFFE
    ∧ (xOf (.c32rAlu 0 12 3 2 1) crn).ecause = 1 := by decide +kernel
theorem test_c32iImmediate : crnReg (xOf (.c32iImmediate 0 .ori 3 0 0x1FFFF) crn) 3 = 0x1FFFF ∧ crnReg (xOf (.c32iImmediate 0 .lui 3 0 0x1FFFF) crn) 3 = 0xFFFF8000
    ∧ crnReg (xOf (.c32iImmediate 0 .addi 3 1 0x1FFFF) crn) 3 = 4 := by decide +kernel
theorem test_cLw : crnReg (xOf (.cLw 0 3 1) crn) 3 = 0x87868584 := by decide +kernel
theorem test_cSw : (xOf (.cSw 0 2 2) crn).sram = crn.sram ++ [(0x208, 0xFF), (0x209, 0xFF), (0x20A, 0xFF), (0x20B, 0xFF)] := by decide +kernel
theorem test_crownLd : crnReg (xOf (.crownLd 0 0 3 4 0) crn) 3 = 0x81 ∧ crnReg (xOf (.crownLd 0 3 2 14 0) crn) 3 = 0x87868584
    ∧ (xOf (.crownLd 0 2 3 4 0) crn).ecause = 3 := by decide +kernel
theorem test_crownSt : KMap.look 0 (xOf (.crownSt 0 1 2 14 0x7FFE) crn).sram 0x1FE = 0xFF ∧ (xOf (.crownSt 0 1 2 1 0) crn).ecause = 3 := by decide +kernel

/-- A station in use, one that has completed; IE set; a mesh segment. -/
def sta (o : CrnLong) (c : Option Nat) : Station := ⟨o, 6, 0x100, 0, 0, 0xAABBCCDD11223344, true, c⟩
def crnT (o : CrnLong) (c : Option Nat) : CrnSt := { crn with stations := [(2, some (sta o c))] }
def crnI : CrnSt := { crn with ie := true }

theorem witness_CrownControlAndStations : CrnReady (dC crn) 0 true [1, 2] ∧ CrnReady (dC crn) 0 true [15] ∧ CrnReady (dC crn) 0 true []
    ∧ (crnS.slot.isSome = true ∧ CrnReady (dC crnS) 0 false []) ∧ CrnReady (dC crn) 0 false [2, 3, 1] ∧ CrnReady (dC (crnT .mrd none)) 0 false []
    ∧ KMap.look none crn.stations 3 = none ∧ KMap.look none (crnT .mrd none).stations 2 = some (sta .mrd none) ∧ (dC (crnT .mrd none)).cfg.present 0 = true
    ∧ (sta .crypt none).rd ≠ 0 ∧ (dieSt (dC crn) 0).crownDown = false ∧ crnI.ie = true ∧ crnI.slot = none
    ∧ ((crnReg crn 1).toNat + 8 * (1 : BitVec 15).toNat) % 2 ^ 32 % 8 ≠ 0 ∧ ((crnReg crn 14).toNat + 8 * (1 : BitVec 15).toNat) % 2 ^ 32 % 8 = 0 := by
  refine ⟨crnReady (by decide +kernel), crnReady (by decide +kernel), crnReady (by decide +kernel), ⟨rfl, ?_⟩, crnReady (by decide +kernel),
    crnReady (by decide +kernel), by decide +kernel⟩
  refine ⟨by decide +kernel, by decide +kernel, by decide +kernel, by decide +kernel, ?_⟩
  intro b h
  rw [show (crnSt (dC crnS) 0).slot = some ⟨0x100000FE, some 0x10000400, false⟩ from rfl] at h
  cases h; exact ⟨rfl, rfl⟩

theorem test_cBeqz : (xOf (.cBeqz 0 3 false 0x3F) crn).slot = some ⟨0x10000100, some 0x100000FE, false⟩
    ∧ (xOf (.cBeqz 0 1 true 4) crn).slot = some ⟨0x10000100, none, true⟩ := by decide +kernel
theorem test_cBnez : (xOf (.cBnez 0 1 true 4) crn).slot = some ⟨0x10000100, some 0x10000108, false⟩ ∧ (xOf (.cBnez 0 1 true 4) crn).pc = 0x10000102 := by
  decide +kernel
theorem test_crownBranch : (xOf (.crownBranch 0 .blt false 2 1 0x8000) crn).slot = some ⟨0x10000100, some 0x0FFF0100, false⟩
    ∧ (xOf (.crownBranch 0 .bltu false 2 1 4) crn).slot = some ⟨0x10000100, none, false⟩ := by decide +kernel
theorem test_cJr : (xOf (.cJr 0 0 4) crn).slot = some ⟨0x10000100, some 0x10000201, false⟩ ∧ (xOf (.cJr 0 1 4) crn).ecause = 1 := by decide +kernel
theorem test_j : (xOf (.j 0 0xFFFFFF) crn).slot = some ⟨0x10000100, some 0x100000FE, false⟩ ∧ (xOf (.j 0 0) crnS).epc = 0x100000FE := by decide +kernel
theorem test_call : crnReg (xOf (.call 0 8 true) crn) 15 = 0x10000108 := by decide +kernel
theorem test_crownJalr : crnReg (xOf (.crownJalr 0 3 4 false) crn) 3 = 0x10000106 := by decide +kernel
theorem test_mrd : ((KMap.look none (xOf (.mrd 0 6 0 1 0) crn).stations 1).map (·.op)) = some .mrd ∧ (xOf (.mrd 0 5 0 1 0) crn).ecause = 1 := by decide +kernel
theorem test_fread : (KMap.look none (xOf (.fread 0 4 1 0 7) crn).stations 0) = some ⟨.fread, 4, 5, 0x10000201, 7, 0, true, none⟩ := by decide +kernel
theorem test_crypt : (KMap.look none (xOf (.crypt 0 4 1 3 7) crn).stations 3) = some ⟨.crypt, 4, 5, 0x10000201, 7, 0, true, none⟩ := by decide +kernel
theorem test_stationComplete : crnReg (xOf (.stationComplete 0 2 0 0 0 []) (crnT .mrd none)) 7 = 0xAABBCCDD
    ∧ crnReg (xOf (.stationComplete 0 2 3 9 0 []) (crnT .crypt none)) 6 = 0 := by decide +kernel
theorem test_waitt : (xOf (.waitt 0 2) (crnT .mrd (some 5))).rsstat = 0x500 ∧ (xOf (.waitt 0 2) (crnT .mrd none)).pc = 0x10000100 := by decide +kernel
theorem test_csr : crnReg (xOf (.csrr 0 3 3) { crn with mseg := 6 }) 3 = 6 ∧ (xOf (.csrw 0 3 2) crn).mseg = 31 ∧ (xOf (.csrw 0 8 2) crn).ecause = 1 := by decide +kernel
theorem test_flushi : (xOf (.flushi 0) { crn with btb := [(1, 2)] }).btb = [] := by decide +kernel
theorem test_sleep : (xOf (.sleep 0) crn).asleep = true ∧ (xOf (.sleep 0) { crn with evpend := 1 }).asleep = false := by decide +kernel
theorem test_reti : (xOf (.reti 0) { crn with epc := 0x40 }).pc = 0x40 := by decide +kernel
theorem test_trap : (xOf (.trap 0) crnI).ecause = 5 ∧ (xOf (.trap 0) crnI).epc = 0x10000100 ∧ (xOf (.trap 0) crnI).ie = false := by decide +kernel
theorem test_crownEvent : (xOf (.crownEvent 0 .mailbox) crnI).pc = 0x10000000 ∧ (xOf (.crownEvent 0 .timer) crn).pc = 0x10000100 := by decide +kernel
theorem test_sramUe : (xOf (.sramUe 0) crn).ecause = 4 ∧ (xOf (.sramUe 0) crn).pc = 0 := by decide +kernel

/-! ### Witnesses: mailboxes and management -/

/-- Package 0 has been released, and the high-speed port of die 0 is an endpoint. -/
def dMb : Dev := dHsp 0 true (setFld 0 Reg.BOOT_STATUS Fl.BOOT_STATUS_STAGE 9 devM)
def dPk (f : PkgSt → PkgSt) : Dev := updPkg 0 f dMb
def tick (code state : Nat) : Ticket := ⟨5, code, 0, 0, state, 0⟩
def dTick (code state : Nat) : Dev := dPk (fun x => { x with tickets := [tick code state] })
def chl (sig : List Word) : DbgChal := ⟨77, 3, 0, sig⟩
def dChl (sig : List Word) : Dev := dPk (fun x => { x with chal := some (chl sig) })
def dFlt : Dev := dPk (fun x => { x with faults := [⟨1, 0, 2, 7, 0, 3, 0x17, 0⟩] })
/-- Code region 5 is on under the strong code. -/
def dCode : Dev := wr 0 (Reg.CODE_REG 5) (setB Fl.CODE_REG_EN true 0) dMb
def reg5 : Word := BitVec.ofNat 64 (5 + b2n true * 2 ^ 8)
/-- A one-package system in Reserve mode whose conditions for an exit hold. -/
def dOkExit : Dev := wr 0 Reg.TIM_NOW 10000000 (updDie 0 (fun x => { x with vinOk := some 0 }) (setFlg 0 Reg.RAS_RESERVE Fl.RAS_RESERVE_IN true dMb))

theorem mbxReady {d : Dev} {D : Nat} {b : Mbx} {n : Nat}
    (h : (mbxExists d D b && !(mbxSt d D b).busy && mbxServed d D b && decide (b ∈ mbxAllowed n) && !flg d 0 Reg.DBG_STATUS Fl.DBG_STATUS_LOCKOUT
      && !(pkgReserve d (D / 8) && notInReserve n)) = true) : MbxReady d D b n := by
  simp only [Bool.and_eq_true, Bool.not_eq_true', decide_eq_true_eq] at h
  exact ⟨h.1.1.1.1.1, h.1.1.1.1.2, h.1.1.1.2, h.1.1.2, fun _ => h.1.2, h.2⟩

theorem witness_MailboxesReady : (∀ n ∈ [1, 2, 3, 4, 6, 7, 8, 9, 10, 11, 12, 13, 18], MbxReady dMb 0 .crn n) ∧ MbxReady dMb 0 .host 5
    ∧ MbxReady dMb 0 .jtag 16 ∧ MbxReady dMb 0 .jtag 17 ∧ MbxReady dOkExit 0 .crn 9 ∧ MbxReady dMb 0 .mctp 4 := by
  refine ⟨fun n h => ?_, mbxReady (by decide +kernel), mbxReady (by decide +kernel), mbxReady (by decide +kernel), mbxReady (by decide +kernel),
    mbxReady (by decide +kernel)⟩
  have h' : (mbxExists dMb 0 .crn && !(mbxSt dMb 0 .crn).busy && mbxServed dMb 0 .crn && !flg dMb 0 Reg.DBG_STATUS Fl.DBG_STATUS_LOCKOUT
      && !pkgReserve dMb (0 / 8)) = true := by decide +kernel
  have hn : ∀ n ∈ [1, 2, 3, 4, 6, 7, 8, 9, 10, 11, 12, 13, 18], Mbx.crn ∈ mbxAllowed n := by decide +kernel
  simp only [Bool.and_eq_true, Bool.not_eq_true'] at h'
  exact ⟨h'.1.1.1.1, h'.1.1.1.2, h'.1.1.2, hn n h, fun e => by simp at e, by simp [h'.2]⟩

theorem witness_MailboxCommands : (mbxSt (updMbx 0 .crn (fun x => { x with busy := true }) dMb) 0 .crn).busy = true ∧ Mbx.host ∉ mbxAllowed 4
    ∧ mbxExists dMb 0 .host = true ∧ mbxServed dMb 0 .host = true ∧ mbxAllowed (0xEE : BitVec 8).toNat = []
    ∧ (pkgSt dMb 0).tickets.find? (fun k => k.id == 6) = none ∧ (pkgSt (dTick 6 1) 0).tickets.find? (fun k => k.id == 5) = some (tick 6 1)
    ∧ (0 : Nat) = 0 / 8 * 8 + 0 % 8 ∧ domRefusal dMb 0 3 2 true = none ∧ domState dMb 0 3 = 2 ∧ flg dCode 0 Reg.CODE_CONV Fl.CODE_CONV_BUSY = false
    ∧ flg dCode 0 (Reg.CODE_REG 5) Fl.CODE_REG_EN = true ∧ flg dCode 0 (Reg.CODE_REG 5) Fl.CODE_REG_CODE ≠ true
    ∧ ticketBusy dMb 0 7 (· == 0x01000100) = false ∧ (packages dMb ≠ [] ∧ (pkgSt dMb 0).resv = none ∧ pkgReserve dMb 0 = false)
    ∧ ((packages dOkExit).all (fun p => pkgReserve dOkExit p && exitOk dOkExit p) = true)
    ∧ ((packages dMb).all (fun p => pkgReserve dMb p && exitOk dMb p) = false) ∧ 0 < (pkgSt dFlt 0).faults.length
    ∧ flashLost dMb 0 = false ∧ ticketBusy dMb 0 12 (fun _ => true) = false ∧ (pkgSt dMb 0).upd = none
    ∧ KMap.look 0 (pkgSt (dPk (fun x => { x with staged := [(1, 2)] })) 0).staged 1 = 2 ∧ KMap.look 0 (pkgSt dMb 0).staged 1 = 0
    ∧ 5 &&& fld dMb 0 Reg.DBG_STATUS Fl.DBG_STATUS_FUSED_OFF = 0 ∧ (pkgSt (dChl []) 0).chal = some (chl []) ∧ (pkgSt dMb 0).chal = none
    ∧ (pkgSt (dTick 6 0) 0).tickets.find? (fun x => x.id == (tick 6 0).id && x.state == 0) = some (tick 6 0) ∧ ticketRuns (dTick 6 0) 0 (tick 6 0) = false := by
  decide +kernel
theorem witness_SensorRead : sensorValue dMb 0 0 = none ∨ ∃ v, sensorValue dMb 0 0 = some v := by
  cases sensorValue dMb 0 0 with | none => exact .inl rfl | some v => exact .inr ⟨v, rfl⟩
theorem witness_CasebackGenerationChanged :
    let d := dPk (fun x => { x with ev500At := some 0, ev500Held := true })
    (pkgSt (wr 0 Reg.TIM_NOW 1000000 d) 0).ev500At = some 0 ∧ (pkgSt (wr 0 Reg.TIM_NOW 1000000 d) 0).ev500Held = true
      ∧ 0 + 1000000 ≤ nowOf (wr 0 Reg.TIM_NOW 1000000 d) (crownDie (wr 0 Reg.TIM_NOW 1000000 d) 0) := by decide +kernel
/-- The signature check is opaque: whatever its key and message, the other hypotheses of an accepted response hold. -/
theorem witness_DbgResponse (sig : List Word)
    (h : Config.ecdsaOk (Config.dbgKey 0 0) (((chl [1, 2, 3, 4, 5, 6]).sig ++ sig).flatMap (fun w => toBytes 8 w.toNat)) (dbgMessage 0 (chl [1, 2, 3, 4, 5, 6])) = true) :
    let d := dChl [1, 2, 3, 4, 5, 6]
    ∃ c ks, (pkgSt d 0).chal = some c ∧ c.sig.length = 6 ∧ nowOf d (crownDie d 0) ≤ c.at' + 10000000000 ∧ ks < 4
      ∧ Config.ecdsaOk (Config.dbgKey 0 ks) ((c.sig ++ sig).flatMap (fun w => toBytes 8 w.toNat)) (dbgMessage 0 c) = true :=
  ⟨chl [1, 2, 3, 4, 5, 6], 0, by decide +kernel, rfl, by decide +kernel, by decide, h⟩

def box (d : Dev) (b : Mbx) : MbxSt := mbxSt d 0 b
theorem test_getStatus : (box (out (.getStatus 0 .crn 1 5) (dTick 6 1)) .crn).resp = [(0, 0x6401)] ∧ (box (out (.getStatus 0 .crn 1 6) dMb) .crn).result = 4 := by
  decide +kernel
theorem test_setPowerLimit : fld (out (.setPowerLimit 0 .crn 1 1000) dMb) 0 Reg.PKG_LIMIT Fl.PKG_LIMIT_LIMIT_W = 1000
    ∧ (box (out (.setPowerLimit 0 .host 1 1000) dMb) .host).result = 5 := by decide +kernel
theorem test_domainReq : (box (out (.domainReq 0 .host 1 0x20300) dMb) .host).result = 0 := by decide +kernel
theorem test_codeConvert : flg (out (.codeConvert 0 .crn 1 reg5) dCode) 0 Reg.CODE_CONV Fl.CODE_CONV_BUSY = true
    ∧ (box (out (.codeConvert 0 .crn 1 reg5) dCode) .crn).result = 1 := by decide +kernel
theorem test_reserveEnter : (pkgSt (out (.reserveEnter 0 .crn 1) { dMb with cfg := dev1.cfg }) 0).resv = some 4 := by decide +kernel
theorem test_reserveExit : flg (out (.reserveExit 0 .crn 1) dOkExit) 0 Reg.RAS_RESERVE Fl.RAS_RESERVE_EXITING = true
    ∧ (box (out (.reserveExit 0 .crn 1) dMb) .crn).result = 7 := by decide +kernel
theorem test_faultAck : (pkgSt (out (.faultAck 0 .crn 1 0) dFlt) 0).faults = [] ∧ (box (out (.faultAck 0 .crn 1 0) dMb) .crn).result = 4 := by decide +kernel
theorem test_fwStage : (pkgSt (out (.fwStage 0 .crn 1 0x2000 0x200) dMb) 0).tickets.map (fun t => (t.code, t.a0, t.a1)) = [(12, 0x2000, 0x200)] := by decide +kernel
theorem test_fwActivate : (pkgSt (out (.fwActivate 0 .crn 1 1) (dPk (fun x => { x with staged := [(1, 2)] }))) 0).select = [(1, 2)]
    ∧ (box (out (.fwActivate 0 .crn 1 1) dMb) .crn).result = 7 := by decide +kernel
theorem test_dbgResponse : ((pkgSt (out (.dbgResponse 0 .jtag 1 0 1 2 3 4 5 6) (dChl [])) 0).chal.map (·.sig)) = some [1, 2, 3, 4, 5, 6]
    ∧ fld (out (.dbgResponse 0 .jtag 1 1 1 2 3 4 5 6) dMb) 0 Reg.DBG_STATUS Fl.DBG_STATUS_FAILS = 1 := by decide +kernel
theorem test_dbgClear : flg (out (.dbgClear 0 .jtag 1 15) dDbg) 0 Reg.DBG_STATUS Fl.DBG_STATUS_NW_CONTROL = true := by decide +kernel
theorem test_badCmd : (box (out (.badCmd 0 .crn 1 0xEE) dMb) .crn).result = 3 := by decide +kernel
theorem test_backgroundCommandEnd : (pkgSt (out (.backgroundCommandEnd 0 5 false) (dTick 6 0)) 0).tickets.map (fun t => (t.state, t.result)) = [(2, 7)] := by
  decide +kernel

/-- The endpoint of package 0 has ID 9; an update of type 2 is under way in a phase. -/
def dEid : Dev := dPk (fun x => { x with eid := 9 })
def dUpd (n : Nat) : Dev := dPk (fun x => { x with eid := 9, upd := some (2, [1, 2], n) })

theorem witness_ManagementEndpoint : endpointUp dEid 0 = true ∧ (pkgSt dEid 0).eid ≠ 0 ∧ (pkgSt dEid 0).upd = none ∧ ticketBusy dEid 0 12 (fun _ => true) = false
    ∧ (pkgSt (dUpd 0) 0).upd = some (2, [1, 2], 0) ∧ (pkgSt (dUpd 1) 0).upd = some (2, [1, 2], 1) ∧ imageOk (dUpd 1) 0 2 [1, 2] = false
    ∧ endpointServes dEid 0 = true ∧ smbusServed dMb 0 (0x4C : BitVec 7).toNat = true ∧ (3 : BitVec 8).toNat ∉ [0, 2, 5] := by decide +kernel
theorem witness_VendorDefinedPciMessage : MbxReady dEid (flashDie dEid 0) .mctp 4 := mbxReady (by decide +kernel)

theorem test_mctp : (pkgSt (out (.setEndpointId 0 0x22) dMb) 0).eid = 0x22 ∧ (pkgSt (out (.getEndpointId 0) dEid) 0).rsp = [.eid 9]
    ∧ (pkgSt (out (.getMessageTypeSupport 0) dMb) 0).rsp = [.types [0, 1, 0x7E]] := by decide +kernel
theorem test_vendorDefinedPciMessage : fld (out (.vendorDefinedPciMessage 0 4 1 [500]) dEid) 0 Reg.PKG_LIMIT Fl.PKG_LIMIT_LIMIT_W = 500 := by decide +kernel
theorem test_pldm : (pkgSt (out (.getpldmtypes 0) dEid) 0).rsp = [.pldm true [0, 2, 5]] ∧ (pkgSt (out (.getpdrrepositoryinfo 0) dEid) 0).rsp = [.pldm true [13]]
    ∧ (pkgSt (out (.getpldmtypes 0) dMb) 0).rsp = [] := by decide +kernel
theorem test_pldmFirmwareUpdate : (pkgSt (out (.pldmFirmwareUpdate 0 (.data [3])) (dUpd 0)) 0).upd = some (2, [1, 2, 3], 0)
    ∧ (pkgSt (out (.pldmFirmwareUpdate 0 .verifyComplete) (dUpd 1)) 0).upd = none := by decide +kernel
theorem test_smbus : (pkgSt (out (.smbusReadByte 0 0x4C 1) dFlt) 0).rsp = [.byte 1] ∧ (pkgSt (out (.smbusReadByte 0 0x4D 1) dFlt) 0).rsp = [] := by decide +kernel
theorem test_entdaa : (pkgSt (out (.entdaa 0 0x51) dMb) 0).i3c = 0x51 := by decide +kernel

/-! ### Witnesses: boot -/

/-- A package of one die at a boot stage. -/
def dSt (n : Nat) : Dev := setFld 0 Reg.BOOT_STATUS Fl.BOOT_STATUS_STAGE n dev1
def bd : BoardDesc := ⟨1, 200, false, (List.range 7).map (fun n => (n, setF Fl.PORT_CFG_RATE 40 0)), [], []⟩
def dB2 : Dev := updPkg 0 (fun x => { x with pwrok := true }) (updDie 0 (fun x => { x with vinOk := some 0 }) (dSt 2))
def dB3 : Dev := updPkg 0 (fun x => { x with board := some bd }) (setFlg 0 Reg.STRAPS Fl.STRAPS_MASTER_SEL true (dSt 3))
/-- Six ports of the die in a state, filled and trained as loaded, with the map locked. -/
def dPorts (st : Nat) (d : Dev) : Dev :=
  setFlg 0 Reg.MEMMAP Fl.MEMMAP_LOCK true (wr 0 Reg.MEMPORT (BitVec.ofNat 64 (0 + 1 * 8 + 2 * 64 + 3 * 512 + 4 * 4096 + 5 * 32768))
    (forAll (List.range 6) (fun n d => setFlg 0 (Reg.SCRUB_STATUS n) Fl.SCRUB_STATUS_FILLED true
      (setFlg 0 (Reg.PORT_STATUS n) Fl.PORT_STATUS_LOADED_TRAINED true (setFld 0 (Reg.PORT_STATUS n) Fl.PORT_STATUS_STATE st d))) d))
def dB7 : Dev := updPkg 0 (fun x => { x with confirmed := true }) (dSt 7)

theorem witness_PackageResetsAndBootStages : 0 < dev1.cfg.ndie 0 ∧ (pkgSt dev1 0).vsb = true ∧ (pkgSt dev1 0).rstn = false ∧ stage (dSt 1) 0 = 1
    ∧ crownImaged (dSt 1) 0 = false ∧ fld (dSt 1) 0 Reg.STRAPS Fl.STRAPS_BOOT_SRC ≠ 3 ∧ acceptedImage (dSt 1) 0 1 = none
    ∧ crownImaged (updPkg 0 (fun x => { x with fw := [(1, some ⟨1, 1, 0⟩)] }) (dSt 1)) 0 = true ∧ acceptedImage (dSt 1) 0 3 = none
    ∧ stage dB2 0 = 2 ∧ (pkgSt dB2 0).pwrok = true ∧ flg dB2 0 Reg.SUPPLY Fl.SUPPLY_VIN_OOR = false ∧ (dieSt dB2 0).vinOk ≠ none ∧ (pkgSt dB2 0).nv = []
    ∧ masters dB3 = 0 :: [] ∧ confirmable dB3 0 = true ∧ booting dB3 0 = true ∧ (pkgSt dB3 0).confirmed = false
    ∧ (pkgSt dB3 0).stepAt + 200 * 1000000 ≤ nowOf (wr 0 Reg.TIM_NOW 200000000 dB3) 0 ∧ stage dB3 0 = 3
    ∧ (∀ k ∈ pkgPorts dB3 0, portUnset (mapLoad 0 dB3) k = false) ∧ (∀ D ∈ dB3.cfg.diesOf 0, ∀ n, n < 6 → physPort dB3 D n / 7 = D) ∧ stage (dSt 5) 0 = 5
    ∧ stage (dPorts 2 (dSt 6)) 0 = 6 ∧ (∀ D ∈ (dPorts 2 (dSt 6)).cfg.diesOf 0, (portsIn (dPorts 2 (dSt 6)) D 2).length = 6) ∧ packages dB7 ≠ []
    ∧ (∀ q ∈ packages dB7, stage dB7 q = 7 ∧ (pkgSt dB7 q).confirmed = true) ∧ acceptedImage dB7 dB7.cfg.master 2 = none
    ∧ (∀ q ∈ packages (dPorts 3 (dSt 8)), stage (dPorts 3 (dSt 8)) q = 8 ∧ portsFit (dPorts 3 (dSt 8)) q = true
        ∧ ∀ D ∈ (dPorts 3 (dSt 8)).cfg.diesOf q, mapLocked (dPorts 3 (dSt 8)) D = true)
    ∧ dev1.cfg.present 0 = true ∧ (pkgSt (dSt 9) 0).warm = false ∧ warmOk (dSt 9) = true ∧ warmOk (dSt 8) = false
    ∧ (∀ q ∈ packages (updPkg 0 (fun x => { x with warm := true }) (dSt 0xB)), (pkgSt (updPkg 0 (fun x => { x with warm := true }) (dSt 0xB)) q).warm = true)
    ∧ (3 ≤ stage (dSt 3) 0 ∧ stage (dSt 8) 0 ≤ 8) ∧ (pkgSt (dSt 9) 0).resv = none ∧ pkgReserve (dSt 9) 0 = false := by
  refine ⟨?_, ?_, ?_, ?_, ?_, ?_, ?_, ?_, ?_, ?_, ?_, ?_, ?_, ?_, ?_, ?_, ?_, ?_, ?_, ?_, ?_, ?_, ?_, ?_, ?_, ?_, ?_, ?_, ?_, ?_, ?_, ?_, ?_, ?_, ?_, ?_⟩
    <;> decide +kernel

/-- A flash whose directory gives slot A of each type an image without payload; everything but the header and the key slot is erased. -/
def le (n w : Nat) : List Byte := toBytes w n
def dirOf (t : Nat) : List Byte := le t 4 ++ le 0 4 ++ le (0x1000 * t) 4 ++ le 0x200 4
def hdrOf (t : Nat) : List Byte := le 0x315A4B53 4 ++ le 1 2 ++ le t 2 ++ le 7 4 ++ le 0 4 ++ le 0x10000000 4 ++ le 0x10000040 4 ++ le 0 4 ++ le 0 4
def flash3 : KMap Byte :=
  [1, 2, 3].foldl (fun m t => flashPut (flashPut m (0x1000 * t) (hdrOf t)) (0x1000 * t + 0x50) [0])
    (flashPut [] 0 (dirOf 1 ++ dirOf 2 ++ dirOf 3))
def dImg : Dev := updPkg 0 (fun x => { x with flash := flash3 }) (dSt 1)
def flImg (t : Nat) : List Byte := (slotImage dImg 0 t 0).getD []

/-- The conditions of an image that are opaque: the digest of its key, its signature and the digest of its payload. -/
def Signed (l : List Byte) : Prop :=
  Config.sha384 ((l.drop 0x60).take 96) = Config.fuseHash 0 (imgKeySlot l)
  ∧ Config.ecdsaOk ((l.drop 0x60).take 96) ((l.drop 0xC0).take 96) (l.take 0xC0) = true ∧ Config.sha384 (imgPayload l) = (l.drop 0x20).take 48

theorem img_slots : ∀ t ∈ [1, 2, 3], slotOrder dImg 0 t = [0, 1] ∧ (slotImage dImg 0 t 0).isSome = true := by decide +kernel
theorem img_head : ∀ t ∈ [1, 2, 3], leAt (flImg t) 0 4 = 0x315A4B53 ∧ leAt (flImg t) 4 2 = 1 ∧ imgType (flImg t) = t ∧ 1 ≤ t ∧ t ≤ 3
    ∧ imgKeySlot (flImg t) < (if t = 3 then 2 else 1) ∧ KMap.look 0 (pkgSt dImg 0).fuses t ≤ imgSvn (flImg t) := by decide +kernel

theorem acceptedImage_first {d : Dev} {p t : Nat} {l : List Byte} (ho : slotOrder d p t = [0, 1]) (hs : slotImage d p t 0 = some l)
    (ok : imageOk d p t l = true) : acceptedImage d p t = some (0, l) := by simp [acceptedImage, ho, hs, ok]
theorem imageOk_of {d : Dev} {t : Nat} {l : List Byte} (h : leAt l 0 4 = 0x315A4B53 ∧ leAt l 4 2 = 1 ∧ imgType l = t ∧ 1 ≤ t ∧ t ≤ 3
    ∧ imgKeySlot l < (if t = 3 then 2 else 1) ∧ KMap.look 0 (pkgSt d 0).fuses t ≤ imgSvn l) (hs : Signed l) : imageOk d 0 t l = true := by
  simp only [imageOk, Bool.and_eq_true, beq_iff_eq, decide_eq_true_eq]
  exact ⟨⟨⟨⟨⟨⟨⟨⟨⟨h.1, h.2.1⟩, h.2.2.1⟩, h.2.2.2.1⟩, h.2.2.2.2.1⟩, h.2.2.2.2.2.1⟩, hs.1⟩, hs.2.1⟩, hs.2.2⟩, h.2.2.2.2.2.2⟩
theorem img_some (o : Option (List Byte)) (h : o.isSome = true) : o = some (o.getD []) := by cases o <;> simp_all
theorem witness_acceptedImage (t : Nat) (ht : t ∈ [1, 2, 3]) (h : Signed (flImg t)) : acceptedImage dImg 0 t = some (0, flImg t) :=
  acceptedImage_first (img_slots t ht).1 (img_some _ (img_slots t ht).2) (imageOk_of (img_head t ht) h)

theorem test_vsbPowerOn : fld (out (.vsbPowerOn 0) dB3) 0 Reg.BOOT_STATUS Fl.BOOT_STATUS_CAUSE = 1 ∧ stage (out (.vsbPowerOn 0) dB3) 0 = 0 := by decide +kernel
theorem test_vsbLoss : (pkgSt (out (.vsbLoss 0) dB3) 0).vsb = false := by decide +kernel
theorem test_resetNAssertion : stage (out (.resetNAssertion 0 11000) dB3) 0 = 0 ∧ stage (out (.resetNAssertion 0 8999) dB3) 0 = 3 := by decide +kernel
theorem test_resetNDeassertion : stage (out (.resetNDeassertion 0 true 1 [2]) dev1) 0 = 1 ∧ hspMode (out (.resetNDeassertion 0 true 1 [2]) dev1) 0 = 2
    ∧ rg (out (.resetNDeassertion 0 true 1 [2]) dev1) 0 Reg.STRAPS = 0x209 := by decide +kernel
theorem test_crownImageAcceptance : fld (out (.crownImageAcceptance 0) (dSt 1)) 0 Reg.BOOT_STATUS Fl.BOOT_STATUS_STOP = 1 := by decide +kernel
theorem test_dieBringup : fld (out (.dieBringup 0 [0] []) dB2) 0 Reg.BOOT_STATUS Fl.BOOT_STATUS_STOP = 3 ∧ stage (out (.dieBringup 0 [0] []) dB2) 0 = 0xA := by
  decide +kernel
theorem test_masterConfirmation : (pkgSt (out .masterConfirmation dB3) 0).confirmed = true ∧ stage (out .masterConfirmation dB3) 0 = 4 := by decide +kernel
theorem test_reinWaitTimeout : stage (out (.reinWaitTimeout 0) (wr 0 Reg.TIM_NOW 200000000 dB3)) 0 = 0xA ∧ stage (out (.reinWaitTimeout 0) dB3) 0 = 3 := by decide +kernel
theorem test_fill : stage (out (.fill 0) (dSt 5)) 0 = 6 := by decide +kernel
theorem test_monitorCopy : fld (out .monitorCopy dB7) 0 Reg.BOOT_STATUS Fl.BOOT_STATUS_STOP = 8 := by decide +kernel
theorem test_warm : stage (out (.warm 0) (dSt 9)) 0 = 0xB ∧ flg (out (.warm 0) (dSt 8)) 0 Reg.BOOT_STATUS Fl.BOOT_STATUS_WARM_REFUSED = true := by decide +kernel
theorem test_pwrok : (pkgSt (out (.pwrokAssert 0) dev1) 0).pwrok = true ∧ stage (out (.pwrokDeassert 0) (dSt 3)) 0 = 2
    ∧ (pkgSt (out (.pwrokDeassert 0) (dSt 9)) 0).resv = some 1 := by decide +kernel
theorem test_rtc : flg (out (.rtc32kSourceDecision 0 false) dev1) 0 Reg.RTC_CFG Fl.RTC_CFG_RC = true := by decide +kernel

/-! ### Steps, reset, generation -/

theorem witness_StepRunsTheFrontCommand : QueueOk ⟨devM, [.masterConfirmation]⟩ ∧ step ⟨devM, [.masterConfirmation]⟩ = exec .masterConfirmation ⟨devM, []⟩ :=
  ⟨by unfold QueueOk; decide +kernel, rfl⟩
theorem test_step_idle : step ⟨devM, []⟩ = .next ⟨devM, []⟩ := rfl
theorem test_step_takes_the_first : (match step ⟨devM, [.pwrokAssert 0, .referenceStop 0]⟩ with
    | .next t => decide (t.pending = [.referenceStop 0]) && (pkgSt t.dev 0).pwrok | _ => false) = true := by decide +kernel
theorem test_decodeTableWord : decodeTableWord 32 0 = none := rfl

theorem witness_ExceptionEntry : 1 ≤ 3 ∧ 3 ≤ 3 ∧ ∃ t, t = enter 0 3 0x1C 5 0x1004 none devM := ⟨by decide, by decide, _, rfl⟩
theorem witness_GenerationFollowsTheRecord : (∀ q, Instr.faultAck 0 .crn 1 0 ≠ .vsbPowerOn q) ∧ (∀ q, Instr.faultAck 0 .crn 1 0 ≠ .vsbLoss q)
    ∧ (∀ q n, Instr.faultAck 0 .crn 1 0 ≠ .resetNAssertion q n) ∧ 0 < dFlt.cfg.ndie 0 :=
  ⟨fun _ => nofun, fun _ => nofun, fun _ _ => nofun, by decide +kernel⟩
theorem test_generation : (pkgSt dFlt 0).generation = 1 ∧ (pkgSt (out (.faultAck 0 .crn 1 0) dFlt) 0).generation = 2
    ∧ (pkgSt (out (.faultAck 0 .crn 1 1) dFlt) 0).generation = 1 := by decide +kernel
theorem witness_MemoryStaysCanonical : MemOk (st devM) ∧ MemOk (st { devM with mem := [(5, 1), (9, 7)] }) ∧ ¬ MemOk (st { devM with mem := [(5, 0)] })
    ∧ ¬ MemOk (st { devM with mem := [(9, 7), (5, 1)] }) := by unfold MemOk; decide +kernel

/-! ### Ill-formed commands are refused -/

theorem smoke_registers : (Instr.registerWrite 0 4 0 Who.platform).wf = false ∧ (Instr.registerWrite 0 8 0 Who.platform).wf = true := by decide +kernel
theorem smoke_message_opcode : (Instr.rdshared (rq .rdUnique)).wf = false ∧ (Instr.rdshared (rq .rdShared)).wf = true := by decide +kernel
theorem smoke_message_agents : (Instr.lock { rq .lock with src := .core 1280 }).wf = false ∧ (Instr.lock { rq .lock with dst := .home 1344 }).wf = false
    ∧ (Instr.lock { rq .lock with src := .keeper 1 1 }).wf = false ∧ (Instr.lock { rq .lock with src := .port 224 }).wf = false
    ∧ (Instr.lock { rq .lock with src := .hsp 32 }).wf = false ∧ (Instr.lock { rq .lock with src := .crown 32 }).wf = false := by decide +kernel
theorem smoke_message_fields : (Instr.lock { rq .lock with addr := 2 ^ 48 }).wf = false ∧ (Instr.lock { rq .lock with qos := 16 }).wf = false
    ∧ (Instr.lock { rq .lock with st := 16 }).wf = false ∧ (Instr.lock { rq .lock with arg := 256 }).wf = false := by decide +kernel
theorem smoke_message_packet : (Instr.gather { rq .gather with elems := List.replicate 17 ⟨0, 0, 3, 0, 0⟩ }).wf = false
    ∧ (Instr.gather { rq .gather with elems := [⟨16, 0, 3, 0, 0⟩] }).wf = false ∧ (Instr.gather { rq .gather with elems := [⟨0, 2 ^ 48, 3, 0, 0⟩] }).wf = false
    ∧ (Instr.gather { rq .gather with elems := [⟨0, 0, 4, 0, 0⟩] }).wf = false ∧ (Instr.gather { rq .gather with elems := [⟨0, 0, 3, 64, 0⟩] }).wf = false := by
  decide +kernel
theorem smoke_atomic : (Instr.atomichome { rqA with atom := some { atom1 with size := 3 } }).wf = false
    ∧ (Instr.atomichome { rqA with atom := some { atom1 with size := 16 } }).wf = false
    ∧ (Instr.atomichome { rqA with atom := some { atom1 with size := 1, val := 256 } }).wf = false
    ∧ (Instr.atomichome { rqA with atom := some { atom1 with size := 1, cmp := 256 } }).wf = false ∧ (Instr.atomichome rqA).wf = true := by decide +kernel
theorem smoke_keys : (Instr.dwellEnd 0 (2 ^ 43)).wf = false ∧ (Instr.unrecognisedMessage (.core 1280)).wf = false := by decide +kernel
theorem smoke_frames : (Instr.bridgeFrame 0 1 0 true [{ rq .lock with qos := 16 }]).wf = false ∧ (Instr.bridgeFrame 0 1 0 true [rq .lock]).wf = true := by decide +kernel
theorem smoke_memoryRequest : (Instr.memoryRequest (.core 1280) 0 .read 0 Who.platform 0).wf = false
    ∧ (Instr.memoryRequest (.core 0) 0 .read (2 ^ 48) Who.platform 0).wf = false
    ∧ (Instr.memoryRequest (.core 0) 0 (.atomic 57 atom1) 0 Who.platform 0).wf = false
    ∧ (Instr.memoryRequest (.core 0) 0 (.atomic 56 atom1) 0 Who.platform 0).wf = true := by decide +kernel
theorem smoke_supplySample : (Instr.supplySample 0 65536 0 0).wf = false ∧ (Instr.supplySample 0 0 65536 0).wf = false ∧ (Instr.supplySample 0 0 0 65536).wf = false := by
  decide +kernel
theorem smoke_inbound : (Instr.inboundMemoryRead 0 0 (.bar 1 0) 4 0).wf = false ∧ (Instr.inboundMemoryRead 0 0 (.bar 0 (2 ^ 40)) 4 0).wf = false
    ∧ (Instr.inboundMemoryRead 0 0 (.bus (2 ^ 64)) 4 0).wf = false ∧ (Instr.inboundMemoryRead 0 0 (.bar 0 0) 0 0).wf = false
    ∧ (Instr.inboundMemoryWrite 0 0 (.bar 0 0) [] false).wf = false ∧ (Instr.inboundMemoryWrite 0 0 (.bar 0 0) (List.replicate 513 none) false).wf = false := by
  decide +kernel
theorem smoke_doorbell : (Instr.doorbellWrite 0 1 0 0 []).wf = false ∧ (Instr.doorbellWrite 0 1 0 4089 eight).wf = false ∧ (Instr.doorbellWrite 0 1 0 4088 eight).wf = true := by
  decide +kernel
theorem smoke_completion : (Instr.completionReceived 0 0 3 false []).wf = false ∧ (Instr.completionReceived 0 0 0 false (List.replicate 513 0)).wf = false := by decide +kernel
theorem smoke_straps : (Instr.resetNDeassertion 0 true 0 (List.replicate 9 0)).wf = false := by decide +kernel

end Sys2Proof.Tests
end

section
/-! SUPPORT. Laws of bit fields and of the stored device registers: the size of a field, a field of a masked word, and what the fields
of a register read as after one of them was set. -/

namespace Sys2Proof

theorem getF_lt (f : Fld) (w : Word) : getF f w < 2 ^ f.width := Nat.mod_lt _ (Nat.two_pow_pos _)

/-- A mask that covers a field leaves the field's value. -/
theorem getF_and_of_covers (f : Fld) (w m : Word) (hf : f.lo + f.width ≤ 64) (hm : f.mask &&& m = f.mask) :
    getF f (w &&& m) = getF f w := by
  apply Nat.eq_of_testBit_eq
  intro i
  rw [testBit_getF, testBit_getF]
  by_cases hi : i < f.width
  · have h64 : f.lo + i < 64 := by omega
    have hbit : f.mask.getLsbD (f.lo + i) = true := by rw [Fld.mask_getLsbD f _ h64]; simp [hi]
    have hcov : m.getLsbD (f.lo + i) = true := by
      rw [← hm, BitVec.getLsbD_and, Bool.and_eq_true] at hbit
      exact hbit.2
    simp [hcov]
  · simp [hi]

end Sys2Proof

namespace Sys2Proof.Machine

/-! ### Fields of stored registers -/

/-- Registers at two offsets of the 4 GiB register space have two keys, whichever dies hold them (R29). -/
theorem regKey_ne {D D' o o' : Nat} (ho : o < 2 ^ 32) (ho' : o' < 2 ^ 32) (h : o ≠ o') : regKey D o ≠ regKey D' o' := by
  unfold regKey
  omega

@[simp] theorem rg_setFld_same (D off : Nat) (f : Fld) (v : Nat) (d : Dev) : rg (setFld D off f v d) D off = setF f v (rg d D off) :=
  rg_wr_same _ _ _ _

@[simp] theorem rg_setFlg_same (D off : Nat) (f : Fld) (b : Bool) (d : Dev) : rg (setFlg D off f b d) D off = setB f b (rg d D off) :=
  rg_wr_same _ _ _ _

theorem rg_setFld_other (D off : Nat) (f : Fld) (v : Nat) (d : Dev) {D' off' : Nat} (h : regKey D' off' ≠ regKey D off) :
    rg (setFld D off f v d) D' off' = rg d D' off' := rg_wr_other _ _ _ _ h

theorem rg_setFlg_other (D off : Nat) (f : Fld) (b : Bool) (d : Dev) {D' off' : Nat} (h : regKey D' off' ≠ regKey D off) :
    rg (setFlg D off f b d) D' off' = rg d D' off' := rg_wr_other _ _ _ _ h

end Sys2Proof.Machine

namespace Sys2Proof.Safety

open Sys2Proof.Machine

/-! ### What a write of a device register leaves unchanged -/

theorem RegsBut.trans {d e t : Dev} {ks : List Nat} (h : RegsBut d e ks) (q : RegsBut e t ks) : RegsBut d t ks :=
  fun D o m => (q D o m).trans (h D o m)

theorem regsBut_wr {D off : Nat} {ks : List Nat} (h : regKey D off ∈ ks) (v : Word) (d : Dev) : RegsBut d (wr D off v d) ks :=
  fun _ _ m => rg_wr_other D off v d (fun e => m (by rw [e]; exact h))

theorem regsBut_setFld {D off : Nat} {ks : List Nat} (h : regKey D off ∈ ks) (f : Fld) (v : Nat) (d : Dev) :
    RegsBut d (setFld D off f v d) ks := regsBut_wr h _ d

theorem regsBut_setFlg {D off : Nat} {ks : List Nat} (h : regKey D off ∈ ks) (f : Fld) (b : Bool) (d : Dev) :
    RegsBut d (setFlg D off f b d) ks := regsBut_wr h _ d

theorem Quiet.trans {d e t : Dev} (h : Quiet d e) (q : Quiet e t) : Quiet d t := by
  obtain ⟨h1, h2, h3, h4, h5, h6⟩ := h
  obtain ⟨q1, q2, q3, q4, q5, q6⟩ := q
  exact ⟨q1.trans h1, q2.trans h2, q3.trans h3, q4.trans h4, q5.trans h5, q6.trans h6⟩

theorem quiet_wr (D off : Nat) (v : Word) (d : Dev) : Quiet d (wr D off v d) := ⟨rfl, rfl, rfl, rfl, rfl, rfl⟩

theorem quiet_setFld (D off : Nat) (f : Fld) (v : Nat) (d : Dev) : Quiet d (setFld D off f v d) := quiet_wr _ _ _ d

theorem quiet_setFlg (D off : Nat) (f : Fld) (b : Bool) (d : Dev) : Quiet d (setFlg D off f b d) := quiet_wr _ _ _ d

theorem quiet_raise (D n : Nat) (d : Dev) : Quiet d (raise D n d) := ⟨rfl, rfl, rfl, rfl, rfl, rfl⟩

/-! ### Commands that change only the device, and the step of GENERATION after them -/

/-- A meaning of the form `onDev` completes; its result is read after the step of GENERATION, which leaves registers, cores, caches,
slices, queues, memory and messages as they are. -/
theorem completes_onDev {i : Instr} {s : State} {f : Dev → Dev} {P : Dev → Prop} (he : exec i s = onDev s f)
    (h : P (genSync s.dev (f s.dev))) : Completes i s P := ⟨_, he, rfl, h⟩

theorem raised_raise_same (D n : Nat) (d : Dev) : Raised (raise D n d) D n := by simp [Raised, raise]

/-- An event on its way stays so when another one is raised. -/
theorem Raised.raise {d : Dev} {D n : Nat} (h : Raised d D n) (E m : Nat) : Raised (raise E m d) D n := by
  unfold Raised at h ⊢
  by_cases hE : D = E
  · subst hE; simp [Machine.raise, h]
  · rw [Machine.raise, dieSt_updDie_other _ _ _ hE]; exact h

theorem Raised.of_dies {d t : Dev} {D n : Nat} (h : Raised d D n) (e : t.dies = d.dies) : Raised t D n := by
  unfold Raised dieSt at h ⊢
  rwa [e]

end Sys2Proof.Safety

namespace Sys2Proof.Machine

open Sys2Proof.Safety

/-- What each step of a list of steps keeps, all of them keep. -/
theorem forAll_keeps {α : Type} (P : Dev → Prop) (f : α → Dev → Dev) (h : ∀ a d, P d → P (f a d)) (l : List α) {d : Dev} (hd : P d) :
    P (forAll l f d) := by
  induction l generalizing d with
  | nil => exact hd
  | cons a l ih => exact ih (h a d hd)

/-- A request of an MSI-X vector touches the port and the free values, no die. -/
@[simp] theorem msixReq_dies (D f vec : Nat) (d : Dev) : (msixReq D f vec d).dies = d.dies := by
  unfold msixReq msixOut
  split
  · rfl
  · split
    · split <;> rfl
    · split <;> rfl

theorem raised_genRaise {d : Dev} {D n : Nat} (h : Raised d D n) (p : Nat) : Raised (genRaise p d) D n := by
  unfold genRaise genMsix
  refine forAll_keeps (fun d => Raised d D n) _ (fun E d hd => hd.of_dies (msixReq_dies E 0 1 d)) _ ?_
  exact ((h.of_dies (updPkg_dies p _ d)).raise _ 500).of_dies (updPkg_dies p _ _)

theorem raised_genEvent {d : Dev} {D n : Nat} (h : Raised d D n) (p : Nat) : Raised (genEvent p d) D n := by
  unfold genEvent
  split
  · split
    · exact h.of_dies (updPkg_dies p _ d)
    · exact raised_genRaise h p
  · exact raised_genRaise h p

/-- The step of GENERATION may raise event 500 and takes no event back (R433). -/
theorem raised_genSync {d : Dev} {D n : Nat} (h : Raised d D n) (d0 : Dev) : Raised (genSync d0 d) D n := by
  refine forAll_keeps (fun d => Raised d D n) (genStep d0) (fun p d hd => ?_) _ h
  unfold genStep setGen
  split
  · exact hd.of_dies (updPkg_dies p _ d)
  · exact raised_genEvent (hd.of_dies (updPkg_dies p _ d)) p

end Sys2Proof.Machine
end

section
/-! PROOFS. Pace credits, arbitration recording and a debugger's halt request (R37 to R48, R82, R331). -/

namespace Sys2Proof.Machine

open Sys2Proof.Safety

/-! ### Pace credit (R37 to R40) -/

/-- The effective rate by the five rules of R39, case by case of which caps are present: RATE while EN is 1, PKG_CAP unless it is 0. -/
theorem paceEffective_fst (ctl : Word) (cap : Nat) : (paceEffective ctl cap).1 =
    if getB Fl.PACE_CTL_EN ctl = false ∧ cap = 0 then 0
    else max 64 (max (getF Fl.PACE_CTL_FLOOR ctl) (if getB Fl.PACE_CTL_EN ctl = false then cap
      else if cap = 0 then getF Fl.PACE_CTL_RATE ctl else min (getF Fl.PACE_CTL_RATE ctl) cap)) := by
  cases hen : getB Fl.PACE_CTL_EN ctl <;> by_cases hcap : cap = 0 <;>
    simp [paceEffective, hen, hcap, Nat.max_comm (getF Fl.PACE_CTL_FLOOR ctl)]

/-- The effective rate fits its field: caps, FLOOR and the minimum rate have 16 bits. -/
theorem paceEffective_lt (ctl : Word) {cap : Nat} (hcap : cap < 2 ^ 16) : (paceEffective ctl cap).1 < 2 ^ 16 := by
  have hrate : getF Fl.PACE_CTL_RATE ctl < 2 ^ 16 := getF_lt _ _
  have hfloor : getF Fl.PACE_CTL_FLOOR ctl < 2 ^ 16 := getF_lt _ _
  rw [paceEffective_fst]
  split
  · decide
  · split
    · omega
    · split <;> omega

/-- The rate that a credit of core `c` puts into force, and whether it was raised. -/
def paceNow (d : Dev) (c : Nat) : Nat × Bool :=
  paceEffective (rg d (coreDie c) (Reg.PACE_CTL (coreTile d c))) (fld d (coreDie c) (Reg.PACE_STATUS (coreTile d c)) Fl.PACE_STATUS_PKG_CAP)

/-- A credit writes EFFECTIVE, and CLAMPED when the rate was raised, and fills the bucket. -/
theorem paceCredit_eq (c : Nat) (d : Dev) : paceCredit c d =
    updCore c (fun x => { x with tokens := min (paceDepth (rg d (coreDie c) (Reg.PACE_CTL (coreTile d c)))) (x.tokens + ((paceNow d c).1 : Int)) })
      (doIf (paceNow d c).2 (setFlg (coreDie c) (Reg.PACE_STATUS (coreTile d c)) Fl.PACE_STATUS_CLAMPED true)
        (setFld (coreDie c) (Reg.PACE_STATUS (coreTile d c)) Fl.PACE_STATUS_EFFECTIVE (paceNow d c).1 d)) := rfl

theorem fld_paceCredit_effective (c : Nat) (d : Dev) :
    fld (paceCredit c d) (coreDie c) (Reg.PACE_STATUS (coreTile d c)) Fl.PACE_STATUS_EFFECTIVE = (paceNow d c).1 := by
  have hset (w : Word) : getF Fl.PACE_STATUS_EFFECTIVE (setF Fl.PACE_STATUS_EFFECTIVE (paceNow d c).1 w) = (paceNow d c).1 := by
    rw [getF_setF_same _ _ _ (by decide)]
    exact Nat.mod_eq_of_lt (paceEffective_lt _ (getF_lt Fl.PACE_STATUS_PKG_CAP _))
  rw [paceCredit_eq, fld, rg_updCore, doIf]
  split
  · rw [rg_setFlg_same, setB, getF_setF_other _ _ _ _ (by decide) (by decide), rg_setFld_same, hset]
  · rw [rg_setFld_same, hset]

theorem flg_paceCredit_clamped {c : Nat} {d : Dev} (h : (paceNow d c).2 = true) :
    flg (paceCredit c d) (coreDie c) (Reg.PACE_STATUS (coreTile d c)) Fl.PACE_STATUS_CLAMPED = true := by
  rw [paceCredit_eq, flg, rg_updCore, doIf, if_pos h, rg_setFlg_same, getB_setB_same _ _ _ (by decide) (by decide)]

theorem coreSt_paceCredit (c : Nat) (d : Dev) : coreSt (paceCredit c d) c = { coreSt d c with
    tokens := min (paceDepth (rg d (coreDie c) (Reg.PACE_CTL (coreTile d c)))) ((coreSt d c).tokens + ((paceNow d c).1 : Int)) } := by
  rw [paceCredit_eq, coreSt_updCore_same, doIf]
  split <;> rfl

theorem coresBut_paceCredit (c : Nat) (d : Dev) : CoresBut d (paceCredit c d) c := by
  intro b hb
  rw [paceCredit_eq, coreSt_updCore_other _ _ _ hb, doIf]
  split <;> rfl

theorem regsBut_paceCredit (c : Nat) (d : Dev) : RegsBut d (paceCredit c d) [regKey (coreDie c) (Reg.PACE_STATUS (coreTile d c))] := by
  have hset := regsBut_setFld (List.mem_singleton.2 rfl) Fl.PACE_STATUS_EFFECTIVE (paceNow d c).1 d
    (D := coreDie c) (off := Reg.PACE_STATUS (coreTile d c))
  rw [paceCredit_eq, doIf]
  split
  · exact hset.trans (regsBut_setFlg (List.mem_singleton.2 rfl) _ _ _)
  · exact hset

/-- A credit changes no cache, no slice, no queue and no byte of DRAM. -/
theorem paceCredit_keeps (c : Nat) (d : Dev) : (paceCredit c d).caches = d.caches ∧ (paceCredit c d).homes = d.homes
    ∧ (paceCredit c d).queues = d.queues ∧ (paceCredit c d).mem = d.mem := by
  rw [paceCredit_eq, doIf]
  split <;> exact ⟨rfl, rfl, rfl, rfl⟩

/-! ### Arbitration recording (R45 to R48) -/

/-- The keys of the two recording registers of a die. -/
abbrev arbKeys (D : Nat) : List Nat := [regKey D Reg.ARBREC_CTL, regKey D Reg.ARBREC_STATUS]

theorem arbCtl_ne_arbStatus (D : Nat) : regKey D Reg.ARBREC_CTL ≠ regKey D Reg.ARBREC_STATUS := regKey_ne (by decide) (by decide) (by decide)

/-- A change of MODE writes MODE and no other field of ARBREC_CTL. -/
theorem rg_arbMode_ctl (D m : Nat) (d : Dev) : rg (arbMode D m d) D Reg.ARBREC_CTL = setF Fl.ARBREC_CTL_MODE m (rg d D Reg.ARBREC_CTL) := by
  have hne := arbCtl_ne_arbStatus D
  unfold arbMode
  dsimp only
  split
  · rw [rg_setFld_other _ _ _ _ _ hne, rg_setFlg_other _ _ _ _ _ hne, rg_setFld_same]
  · rw [rg_setFlg_other _ _ _ _ _ hne, rg_setFld_same]

/-- In ARBREC_STATUS a change of MODE writes ACTIVE, and clears RECORDS when MODE differs from before (R45). -/
theorem rg_arbMode_status (D m : Nat) (d : Dev) : ∃ b : Bool, rg (arbMode D m d) D Reg.ARBREC_STATUS =
    (if b then setF Fl.ARBREC_STATUS_RECORDS 0 else id) (setB Fl.ARBREC_STATUS_ACTIVE (m == 1 || m == 2) (rg d D Reg.ARBREC_STATUS)) := by
  refine ⟨fld d D Reg.ARBREC_CTL Fl.ARBREC_CTL_MODE != m, ?_⟩
  unfold arbMode
  dsimp only
  split
  · rw [rg_setFld_same, rg_setFlg_same, rg_setFld_other _ _ _ _ _ (arbCtl_ne_arbStatus D).symm]
  · rw [rg_setFlg_same, rg_setFld_other _ _ _ _ _ (arbCtl_ne_arbStatus D).symm]; rfl

/-- A flag of ARBREC_STATUS after a change of MODE reads as it does with ACTIVE written: RECORDS shares no bit with it. -/
theorem flg_arbMode_status (D m : Nat) (d : Dev) {f : Fld} (hlo : 32 ≤ f.lo) (hf : f.lo + f.width ≤ 64) :
    flg (arbMode D m d) D Reg.ARBREC_STATUS f = getB f (setB Fl.ARBREC_STATUS_ACTIVE (m == 1 || m == 2) (rg d D Reg.ARBREC_STATUS)) := by
  obtain ⟨b, hb⟩ := rg_arbMode_status D m d
  have hapart : Fl.ARBREC_STATUS_RECORDS.lo + Fl.ARBREC_STATUS_RECORDS.width ≤ f.lo := hlo
  rw [flg, hb]
  cases b
  · rfl
  · simp [getB, getF_setF_other _ _ _ _ (.inr hapart) hf]

theorem flg_arbMode_active (D m : Nat) (d : Dev) :
    flg (arbMode D m d) D Reg.ARBREC_STATUS Fl.ARBREC_STATUS_ACTIVE = (m == 1 || m == 2) := by
  rw [flg_arbMode_status _ _ _ (by decide) (by decide), getB_setB_same _ _ _ (by decide) (by decide)]

theorem regsBut_arbMode (D m : Nat) (d : Dev) : RegsBut d (arbMode D m d) (arbKeys D) := by
  have h : RegsBut d (setFlg D Reg.ARBREC_STATUS Fl.ARBREC_STATUS_ACTIVE (m == 1 || m == 2)
      (setFld D Reg.ARBREC_CTL Fl.ARBREC_CTL_MODE m d)) (arbKeys D) :=
    (regsBut_setFld (by simp) _ _ d).trans (regsBut_setFlg (by simp) _ _ _)
  unfold arbMode
  dsimp only
  split
  · exact h.trans (regsBut_setFld (by simp) _ _ _)
  · exact h

theorem quiet_arbMode (D m : Nat) (d : Dev) : Quiet d (arbMode D m d) := by
  unfold arbMode
  dsimp only
  split <;> exact ⟨rfl, rfl, rfl, rfl, rfl, rfl⟩

/-- The writable bits of ARBREC_CTL beside MODE. -/
def arbMask : Word := Fl.ARBREC_CTL_GROUP.mask ||| Fl.ARBREC_CTL_QID.mask ||| Fl.ARBREC_CTL_REPLAY_TO.mask

/-- The mode that a write of MODE `m` leaves (R48). -/
def arbModeTo (d : Dev) (m : Nat) : Nat := if arbAllowed d m then m else 0

/-- The fields of ARBREC_CTL beside MODE as a write of `v` leaves them, MODE not changed yet. -/
def arbFields (D : Nat) (v : Word) (d : Dev) : Dev :=
  wr D Reg.ARBREC_CTL (setF Fl.ARBREC_CTL_MODE (getF Fl.ARBREC_CTL_MODE (rg d D Reg.ARBREC_CTL)) (v &&& arbMask)) d

/-- A write of ARBREC_CTL: the other fields, then the mode that it may set, then DENIED if that is not the mode written. -/
theorem arbWrite_eq (D m : Nat) (v : Word) (d : Dev) : arbWrite D m v d =
    doIf (!arbAllowed d m) (setFlg D Reg.ARBREC_STATUS Fl.ARBREC_STATUS_DENIED true) (arbMode D (arbModeTo d m) (arbFields D v d)) := by
  unfold arbWrite doIf arbModeTo arbFields arbMask
  cases arbAllowed d m <;> rfl

theorem rg_arbWrite_ctl (D m : Nat) (v : Word) (d : Dev) : rg (arbWrite D m v d) D Reg.ARBREC_CTL =
    setF Fl.ARBREC_CTL_MODE (arbModeTo d m) (setF Fl.ARBREC_CTL_MODE (getF Fl.ARBREC_CTL_MODE (rg d D Reg.ARBREC_CTL)) (v &&& arbMask)) := by
  have h := rg_arbMode_ctl D (arbModeTo d m) (arbFields D v d)
  rw [arbFields, rg_wr_same] at h
  rw [arbWrite_eq, doIf]
  split
  · rw [rg_setFlg_other _ _ _ _ _ (arbCtl_ne_arbStatus D)]; exact h
  · exact h

/-- Each of the other fields is written, whether or not the mode may be. -/
theorem fld_arbWrite_other (D m : Nat) (v : Word) (d : Dev) {f : Fld} (hlo : 2 ≤ f.lo) (hf : f.lo + f.width ≤ 64)
    (hm : f.mask &&& arbMask = f.mask) : fld (arbWrite D m v d) D Reg.ARBREC_CTL f = getF f v := by
  have hapart : Fl.ARBREC_CTL_MODE.lo + Fl.ARBREC_CTL_MODE.width ≤ f.lo := hlo
  rw [fld, rg_arbWrite_ctl, getF_setF_other _ _ _ _ (.inr hapart) hf, getF_setF_other _ _ _ _ (.inr hapart) hf,
    getF_and_of_covers _ _ _ hf hm]

theorem fld_arbWrite_mode (D : Nat) {m : Nat} (v : Word) (d : Dev) (h : m < 4) :
    fld (arbWrite D m v d) D Reg.ARBREC_CTL Fl.ARBREC_CTL_MODE = arbModeTo d m := by
  have hm : arbModeTo d m < 2 ^ Fl.ARBREC_CTL_MODE.width := by
    unfold arbModeTo
    split
    · exact h
    · decide
  rw [fld, rg_arbWrite_ctl, getF_setF_same _ _ _ (by decide), Nat.mod_eq_of_lt hm]

theorem flg_arbWrite_active (D m : Nat) (v : Word) (d : Dev) :
    flg (arbWrite D m v d) D Reg.ARBREC_STATUS Fl.ARBREC_STATUS_ACTIVE = (arbModeTo d m == 1 || arbModeTo d m == 2) := by
  rw [arbWrite_eq, doIf]
  split
  · rw [flg, rg_setFlg_same, getB_setB_other _ _ _ _ (by decide) (by decide)]
    exact flg_arbMode_active _ _ _
  · exact flg_arbMode_active _ _ _

/-- A mode that may not be written sets DENIED (R48). -/
theorem flg_arbWrite_denied {D m : Nat} {v : Word} {d : Dev} (h : arbAllowed d m = false) :
    flg (arbWrite D m v d) D Reg.ARBREC_STATUS Fl.ARBREC_STATUS_DENIED = true := by
  rw [arbWrite_eq, h, Bool.not_false, doIf, if_pos rfl, flg, rg_setFlg_same, getB_setB_same _ _ _ (by decide) (by decide)]

theorem regsBut_arbWrite (D m : Nat) (v : Word) (d : Dev) : RegsBut d (arbWrite D m v d) (arbKeys D) := by
  have h : RegsBut d (arbMode D (arbModeTo d m) (arbFields D v d)) (arbKeys D) :=
    (regsBut_wr (by simp) _ d).trans (regsBut_arbMode _ _ _)
  rw [arbWrite_eq, doIf]
  split
  · exact h.trans (regsBut_setFlg (by simp) _ _ _)
  · exact h

theorem quiet_arbWrite (D m : Nat) (v : Word) (d : Dev) : Quiet d (arbWrite D m v d) := by
  have h : Quiet d (arbMode D (arbModeTo d m) (arbFields D v d)) := (quiet_wr _ _ _ d).trans (quiet_arbMode _ _ _)
  rw [arbWrite_eq, doIf]
  split
  · exact h.trans (quiet_setFlg _ _ _ _ _)
  · exact h

theorem replayTimeout_of_replay {D : Nat} {d : Dev} (h : fld d D Reg.ARBREC_CTL Fl.ARBREC_CTL_MODE = 2) :
    replayTimeout D d = raise D 506 (arbMode D 0 (setFlg D Reg.ARBREC_STATUS Fl.ARBREC_STATUS_DIVERGED true d)) := if_pos h

/-! ### A debugger's halt request (R82, R331) -/

theorem coreSt_debugHalt (c : Nat) (d : Dev) : coreSt (debugHalt c d) c = { coreSt d c with
    wfe := none, halted := (coreSt d c).halted || (dbgControl d (!nsOf d c) && (coreSt d c).run) } := by
  unfold debugHalt
  dsimp only
  split
  next h => simp [h]
  next h => simp [h]

theorem coresBut_debugHalt (c : Nat) (d : Dev) : CoresBut d (debugHalt c d) c := by
  intro b hb
  unfold debugHalt
  dsimp only
  split
  · rw [coreSt_updCore_other _ _ _ hb, coreSt_updCore_other _ _ _ hb]
  · rw [coreSt_updCore_other _ _ _ hb]

/-- A halt request changes no register, no cache, no slice, no queue and no byte of DRAM. -/
theorem debugHalt_keeps (c : Nat) (d : Dev) : (debugHalt c d).regs = d.regs ∧ (debugHalt c d).caches = d.caches
    ∧ (debugHalt c d).homes = d.homes ∧ (debugHalt c d).queues = d.queues ∧ (debugHalt c d).mem = d.mem := by
  unfold debugHalt
  dsimp only
  split <;> exact ⟨rfl, rfl, rfl, rfl, rfl⟩

/-! ### The four commands -/

theorem completes_paceCredit (s : State) (c : CoreId) : Completes (.paceCredit c) s fun t =>
    coreSt t c = { coreSt s.dev c with
      tokens := min (paceDepth (rg s.dev (coreDie c) (Reg.PACE_CTL (coreTile s.dev c)))) ((coreSt s.dev c).tokens + ((paceNow s.dev c).1 : Int)) }
    ∧ CoresBut s.dev t c
    ∧ fld t (coreDie c) (Reg.PACE_STATUS (coreTile s.dev c)) Fl.PACE_STATUS_EFFECTIVE = (paceNow s.dev c).1
    ∧ ((paceNow s.dev c).2 = true → flg t (coreDie c) (Reg.PACE_STATUS (coreTile s.dev c)) Fl.PACE_STATUS_CLAMPED = true)
    ∧ RegsBut s.dev t [regKey (coreDie c) (Reg.PACE_STATUS (coreTile s.dev c))]
    ∧ t.caches = s.dev.caches ∧ t.homes = s.dev.homes ∧ t.queues = s.dev.queues ∧ t.mem = s.dev.mem :=
  completes_onDev (f := paceCredit c) rfl ⟨coreSt_paceCredit c s.dev, coresBut_paceCredit c s.dev, fld_paceCredit_effective c s.dev,
    flg_paceCredit_clamped, regsBut_paceCredit c s.dev, paceCredit_keeps c s.dev⟩

/-- What a command that writes ARBREC_CTL with a mode of 0, 1 or 2 leaves. -/
theorem completes_arbWrite {i : Instr} {s : State} {D m : Nat} {v : Word} (he : exec i s = onDev s (arbWrite D m v)) (hm : m < 3) :
    Completes i s fun t => RegsBut s.dev t (arbKeys D) ∧ Quiet s.dev t
      ∧ (∀ f ∈ [Fl.ARBREC_CTL_GROUP, Fl.ARBREC_CTL_QID, Fl.ARBREC_CTL_REPLAY_TO], fld t D Reg.ARBREC_CTL f = getF f v)
      ∧ fld t D Reg.ARBREC_CTL Fl.ARBREC_CTL_MODE = (if arbAllowed s.dev m then m else 0)
      ∧ flg t D Reg.ARBREC_STATUS Fl.ARBREC_STATUS_ACTIVE = (arbAllowed s.dev m && m != 0)
      ∧ (arbAllowed s.dev m = false → flg t D Reg.ARBREC_STATUS Fl.ARBREC_STATUS_DENIED = true) := by
  have hactive : (arbModeTo s.dev m == 1 || arbModeTo s.dev m == 2) = (arbAllowed s.dev m && m != 0) := by
    unfold arbModeTo
    cases arbAllowed s.dev m
    · rfl
    · interval_cases m <;> rfl
  refine completes_onDev he ⟨regsBut_arbWrite D m v s.dev, quiet_arbWrite D m v s.dev, fun f hf => ?_,
    fld_arbWrite_mode D v s.dev (by omega), (flg_arbWrite_active D m v s.dev).trans hactive, flg_arbWrite_denied⟩
  simp only [List.mem_cons, List.not_mem_nil, or_false] at hf
  obtain rfl | rfl | rfl := hf <;> exact fld_arbWrite_other D m v s.dev (by decide) (by decide) (by decide)

theorem completes_replayTimeout {s : State} {D : Die} (h : fld s.dev D Reg.ARBREC_CTL Fl.ARBREC_CTL_MODE = 2) :
    Completes (.replayTimeout D) s fun t => fld t D Reg.ARBREC_CTL Fl.ARBREC_CTL_MODE = 0
      ∧ flg t D Reg.ARBREC_STATUS Fl.ARBREC_STATUS_DIVERGED = true ∧ flg t D Reg.ARBREC_STATUS Fl.ARBREC_STATUS_ACTIVE = false
      ∧ Raised t D 506 ∧ RegsBut s.dev t (arbKeys D) ∧ Quiet s.dev t := by
  refine completes_onDev (f := replayTimeout D) rfl ?_
  rw [replayTimeout_of_replay h]
  generalize hd : setFlg D Reg.ARBREC_STATUS Fl.ARBREC_STATUS_DIVERGED true s.dev = d
  have hmode : fld (arbMode D 0 d) D Reg.ARBREC_CTL Fl.ARBREC_CTL_MODE = 0 := by
    rw [fld, rg_arbMode_ctl, getF_setF_same _ _ _ (by decide), Nat.zero_mod]
  have hdiverged : flg (arbMode D 0 d) D Reg.ARBREC_STATUS Fl.ARBREC_STATUS_DIVERGED = true := by
    rw [flg_arbMode_status _ _ _ (by decide) (by decide), getB_setB_other _ _ _ _ (by decide) (by decide), ← hd, rg_setFlg_same,
      getB_setB_same _ _ _ (by decide) (by decide)]
  have hregs : RegsBut s.dev d (arbKeys D) := hd ▸ regsBut_setFlg (by simp) _ _ _
  have hquiet : Quiet s.dev d := hd ▸ quiet_setFlg _ _ _ _ _
  exact ⟨hmode, hdiverged, flg_arbMode_active D 0 d, raised_genSync (raised_raise_same D 506 (arbMode D 0 d)) s.dev,
    hregs.trans (regsBut_arbMode D 0 d), (hquiet.trans (quiet_arbMode D 0 d)).trans (quiet_raise D 506 _)⟩

theorem completes_debugHaltRequest (s : State) (c : CoreId) : Completes (.debugHaltRequest c) s fun t =>
    coreSt t c = { coreSt s.dev c with
      wfe := none, halted := (coreSt s.dev c).halted || (dbgControl s.dev (!nsOf s.dev c) && (coreSt s.dev c).run) }
    ∧ CoresBut s.dev t c ∧ t.regs = s.dev.regs ∧ t.caches = s.dev.caches ∧ t.homes = s.dev.homes ∧ t.queues = s.dev.queues
    ∧ t.mem = s.dev.mem :=
  completes_onDev (f := debugHalt c) rfl ⟨coreSt_debugHalt c s.dev, coresBut_debugHalt c s.dev, debugHalt_keeps c s.dev⟩

/-- Settles O35: a credit by the rules of R39, a write of ARBREC_CTL by R48, a replay's timeout by R47, a halt request by R82 and R331. -/
theorem paceRecordingAndDebugHalt : Obligations.PaceRecordingAndDebugHalt := by
  intro s
  refine ⟨?_, ?_, fun D h => completes_replayTimeout h, completes_debugHaltRequest s⟩
  · rintro c ctl off e rfl rfl rfl
    obtain ⟨t, hstep, hpending, htokens, hcores, heffective, hrest⟩ := completes_paceCredit s c
    exact ⟨t, hstep, hpending, heffective.trans (paceEffective_fst _ _), htokens, hcores, heffective, hrest⟩
  · intro D v i m hi
    simp only [List.mem_cons, List.not_mem_nil, or_false, Prod.mk.injEq] at hi
    obtain ⟨rfl, rfl⟩ | ⟨rfl, rfl⟩ | ⟨rfl, rfl⟩ := hi <;> exact completes_arbWrite rfl (by decide)

end Sys2Proof.Machine
end

section
/-! SUPPORT. Laws of exception entry (R87, R88), and what an instruction leaves that meets an exception, writes a result or jumps. -/

namespace Sys2Proof.Safety

open Sys2Proof.Machine

theorem Completes.mono {i : Instr} {s : State} {P Q : Dev → Prop} (h : Completes i s P) (hPQ : ∀ t, P t → Q t) : Completes i s Q := by
  obtain ⟨t, hexec, hpending, hP⟩ := h
  exact ⟨t, hexec, hpending, hPQ _ hP⟩

end Sys2Proof.Safety

namespace Sys2Proof.Machine

open Sys2Proof.Safety

/-! ### Numbers of the saved registers of a level -/

/-- The per-level registers lie above the performance counters. -/
@[simp] theorem isPmc_copy (l n : Nat) : isPmc (Sr.copy l n) = false := by
  have h : 0x841 ≤ Sr.copy l n := by unfold Sr.copy; omega
  have h0 : Sr.copy l n ≠ Sr.PMCTL := by unfold Sr.PMCTL; omega
  have h8 : ¬ Sr.copy l n < Sr.PMC0 + 8 := by unfold Sr.PMC0; omega
  simp [isPmc, h0, h8]

theorem copy_eq_pstate (l n : Nat) : (Sr.copy l n = Sr.PSTATE) = False := by
  unfold Sr.copy Sr.PSTATE
  exact eq_false (by omega)

/-- The copies of two per-level registers at one level are one register when the two are, counted from 0x401 on. -/
theorem copy_eq_copy (l m n : Nat) : (Sr.copy l m = Sr.copy l n) = (m - 0x401 = n - 0x401) := by
  unfold Sr.copy
  exact propext (by omega)

/-- A field of one bit is its truth value as a number. -/
theorem b2n_getB (f : Fld) (w : Word) (h : f.width = 1) : b2n (getB f w) = getF f w := by
  have hlt : getF f w < 2 ^ f.width := getF_lt f w
  rw [h] at hlt
  unfold getB b2n
  split
  · simp_all; omega
  · simp_all

/-! ### PSTATE after an entry (R88) -/

theorem getF_entryPstate_PL (ps : Word) {l : Nat} (h : l < 4) : getF Ps.PL (entryPstate ps l) = l := by
  simp (disch := decide) only [entryPstate, getB, setB, apply_ite (getF Ps.PL), getF_setF_same, getF_setF_other, ite_self]
  exact Nat.mod_eq_of_lt h

theorem getB_entryPstate_NS (ps : Word) (l : Nat) : getB Ps.NS (entryPstate ps l) = if l = 3 then false else getB Ps.NS ps := by
  simp (disch := decide) only [entryPstate, getB, setB, apply_ite (getF Ps.NS), getF_setF_same, getF_setF_other, ite_self]
  split <;> simp [b2n]

theorem getB_entryPstate_IEN (ps : Word) (l : Nat) : getB Ps.IEN (entryPstate ps l) = false := by
  simp (disch := decide) only [entryPstate, getB, setB, apply_ite (getF Ps.IEN), getF_setF_same, getF_setF_other, ite_self]
  rfl

theorem getB_entryPstate_SS (ps : Word) (l : Nat) : getB Ps.SS (entryPstate ps l) = false := getB_setB_same _ _ _ (by decide) (by decide)

theorem getB_entryPstate_VEN (ps : Word) (l : Nat) : getB Ps.VEN (entryPstate ps l) = getB Ps.VEN ps := by
  simp (disch := decide) only [entryPstate, getB, setB, apply_ite (getF Ps.VEN), getF_setF_other, ite_self]

/-- IES is kept where the entry leads to the normal world, and cleared where it leads to the secure one. -/
theorem getB_entryPstate_IES (ps : Word) (l : Nat) :
    getB Ps.IES (entryPstate ps l) = if getB Ps.NS (entryPstate ps l) = true then getB Ps.IES ps else false := by
  simp (disch := decide) only [entryPstate, getB, setB, apply_ite (getF Ps.IES), apply_ite (getF Ps.NS), getF_setF_same, getF_setF_other,
    ite_self]
  split <;> simp_all [b2n]

/-! ### The registers that an entry writes, and what follows them -/

/-- The device after the register writes of an entry to level `l`, with the predictor not yet flushed and no service timer armed. -/
def entered (c l : Nat) (cause addr ret : Word) (d : Dev) : Dev :=
  let vec := sr d c (Sr.copy l Sr.EVEC) &&& 0xFFFFFFFFFFFFF000#64
  setPc c (if cause.msb then vec + 0x200 else vec) (setSr c Sr.PSTATE (entryPstate (pstate d c) l)
    (setSr c (Sr.copy l Sr.EADDR) addr
      (setSr c (Sr.copy l Sr.ECAUSE) (cause ||| BitVec.ofNat 64 (getF Ps.PL (pstate d c) * 2 ^ 8 + getF Ps.NS (pstate d c) * 2 ^ 10))
        (setSr c (Sr.copy l Sr.EPSTATE) (pstate d c) (setSr c (Sr.copy l Sr.EPC) ret d)))))

/-- An entry is its register writes, then the arming of the service timer, then the flush of the predictor. -/
theorem enter_eq (c l : Nat) (cause addr ret : Word) (svc : Option Nat) (d : Dev) : enter c l cause addr ret svc d =
    flushOnChange c (getF Ps.PL (pstate d c)) (getB Ps.NS (pstate d c))
      (if l = 3 ∧ getB Ps.NS (pstate d c) = true then armService c svc (entered c l cause addr ret d) else entered c l cause addr ret d) := by
  unfold enter entered
  rfl

theorem still_flushOnChange (c pl : Nat) (ns : Bool) (d : Dev) : Still d (flushOnChange c pl ns d) c := by
  unfold flushOnChange
  split
  · have hflush : Still d (flushPred c d) c := still_updCore d fun _ => rfl
    exact still_trans hflush (still_pmcCount c _ _)
  · exact still_refl d c

/-- Arming the service timer writes SVC_STATUS and the world entry record, no architectural register. -/
@[simp] theorem arch_armService (c : Nat) (svc : Option Nat) (d : Dev) (b : Nat) : arch (armService c svc d) b = arch d b := by
  unfold armService
  simp only [arch, setFlg, setFld, coreSt_wr]
  exact arch_updCore d b fun _ => rfl

@[simp] theorem pmcAdd_mem (c n k : Nat) (d : Dev) : (pmcAdd c n k d).mem = d.mem := by
  unfold pmcAdd
  dsimp only
  split <;> rfl

@[simp] theorem pmcCount_mem (c : Nat) (evs : List (Nat × Nat)) (d : Dev) : (pmcCount c evs d).mem = d.mem := by
  unfold pmcCount
  split
  · rfl
  · refine forAll_keeps (fun e => e.mem = d.mem) _ (fun n e he => ?_) _ rfl
    dsimp only
    split
    · exact he
    · split
      · exact (pmcAdd_mem _ _ _ _).trans he
      · split
        · split
          · exact he
          · exact (pmcAdd_mem _ _ _ _).trans he
        · exact he

@[simp] theorem flushOnChange_mem (c pl : Nat) (ns : Bool) (d : Dev) : (flushOnChange c pl ns d).mem = d.mem := by
  unfold flushOnChange
  split
  · exact pmcCount_mem _ _ _
  · rfl

@[simp] theorem armService_mem (c : Nat) (svc : Option Nat) (d : Dev) : (armService c svc d).mem = d.mem := by
  simp only [armService, setFlg, setFld, wr_mem, updCore_mem]

@[simp] theorem entered_mem (c l : Nat) (cause addr ret : Word) (d : Dev) : (entered c l cause addr ret d).mem = d.mem := by
  simp only [entered, setPc, setSr, updArch, updCore_mem]

@[simp] theorem enter_mem (c l : Nat) (cause addr ret : Word) (svc : Option Nat) (d : Dev) : (enter c l cause addr ret svc d).mem = d.mem := by
  rw [enter_eq, flushOnChange_mem]
  split
  · rw [armService_mem, entered_mem]
  · rw [entered_mem]

/-- Where every core's registers and DRAM are the same, nothing that a frame speaks of has changed. -/
theorem frame_of_arch {d t : Dev} (c : Nat) (h : ∀ b, arch t b = arch d b) (hm : t.mem = d.mem) : Frame d t c [] [] [] [] [] where
  g r _ := gReg_congr (h c) r
  f r _ := fReg_congr (h c) r
  v r _ := vReg_congr (h c) r
  k r _ := kReg_congr (h c) r
  sr n _ _ := sr_congr (h c) n
  others b _ := h b
  mem a := by simp [memByte, hm]

/-- What follows an entry's register writes changes nothing that a frame speaks of. -/
theorem frame_enter (c l : Nat) (cause addr ret : Word) (svc : Option Nat) (d : Dev) :
    Frame (entered c l cause addr ret d) (enter c l cause addr ret svc d) c [] [] [] [] [] := by
  rw [enter_eq]
  split
  · exact (frame_of_arch c (arch_armService c svc _) (armService_mem c svc _)).trans_still (still_flushOnChange c _ _ _)
  · exact (still_flushOnChange c _ _ _).fr

theorem pcOf_enter_eq_entered (c l : Nat) (cause addr ret : Word) (svc : Option Nat) (d : Dev) :
    pcOf (enter c l cause addr ret svc d) c = pcOf (entered c l cause addr ret d) c := by
  rw [enter_eq, (still_flushOnChange c _ _ _).pc]
  split
  · exact pcOf_congr (arch_armService c svc _ c)
  · rfl

/-! ### What the registers read after the register writes of an entry -/

section
variable (c l : Nat) (cause addr ret : Word) (d : Dev)

theorem pstate_entered : pstate (entered c l cause addr ret d) c = entryPstate (pstate d c) l := by
  simp only [entered, pstate, sr_setPc, sr_setSr_same]

/-- The saved registers of the level that an entry leads to (R88). -/
theorem saved_entered :
    sr (entered c l cause addr ret d) c (Sr.copy l Sr.EPC) = ret
    ∧ sr (entered c l cause addr ret d) c (Sr.copy l Sr.EPSTATE) = pstate d c
    ∧ sr (entered c l cause addr ret d) c (Sr.copy l Sr.EADDR) = addr
    ∧ sr (entered c l cause addr ret d) c (Sr.copy l Sr.ECAUSE)
      = cause ||| BitVec.ofNat 64 (plOf d c * 2 ^ 8 + b2n (nsOf d c) * 2 ^ 10) := by
  simp (decide := true) only [entered, sr_setPc, sr_setSr_same, sr_setSr_other, ne_eq, copy_eq_pstate, copy_eq_copy, not_false_eq_true,
    plOf, nsOf, b2n_getB, and_self]

theorem pcOf_entered : pcOf (entered c l cause addr ret d) c
    = (sr d c (Sr.copy l Sr.EVEC) &&& 0xFFFFFFFFFFFFF000#64) + (if cause.msb = true then 0x200#64 else 0#64) := by
  rw [entered, pcOf_setPc_same]
  split
  · rfl
  · rw [BitVec.add_zero]

theorem gReg_entered (r : Nat) : gReg (entered c l cause addr ret d) c r = gReg d c r := by
  simp only [entered, gReg_setPc, gReg_setSr]

theorem fReg_entered (r : Nat) : fReg (entered c l cause addr ret d) c r = fReg d c r := by
  simp only [entered, fReg_setPc, fReg_setSr]

theorem arch_entered {b : Nat} (h : b ≠ c) : arch (entered c l cause addr ret d) b = arch d b := by
  simp only [entered, setPc, setSr, arch_updArch_other _ _ _ h]

end

/-! ### What the registers read after an entry -/

section
variable (c l : Nat) (cause addr ret : Word) (svc : Option Nat) (d : Dev)

theorem sr_enter {n : Nat} (h : isPmc n = false) :
    sr (enter c l cause addr ret svc d) c n = sr (entered c l cause addr ret d) c n :=
  (frame_enter c l cause addr ret svc d).sr n List.not_mem_nil h

theorem pstate_enter : pstate (enter c l cause addr ret svc d) c = entryPstate (pstate d c) l :=
  (sr_enter c l cause addr ret svc d (by decide)).trans (pstate_entered c l cause addr ret d)

theorem plOf_enter (h : l ≤ 3) : plOf (enter c l cause addr ret svc d) c = l := by
  rw [plOf, pstate_enter, getF_entryPstate_PL _ (by omega)]

/-- The saved registers of the level that an entry leads to (R88). -/
theorem saved_enter :
    sr (enter c l cause addr ret svc d) c (Sr.copy l Sr.EPC) = ret
    ∧ sr (enter c l cause addr ret svc d) c (Sr.copy l Sr.EPSTATE) = pstate d c
    ∧ sr (enter c l cause addr ret svc d) c (Sr.copy l Sr.EADDR) = addr
    ∧ sr (enter c l cause addr ret svc d) c (Sr.copy l Sr.ECAUSE)
      = cause ||| BitVec.ofNat 64 (plOf d c * 2 ^ 8 + b2n (nsOf d c) * 2 ^ 10) := by
  simp only [sr_enter, isPmc_copy]
  exact saved_entered c l cause addr ret d

/-- The program counter is at the level's vector, and 0x200 above it for an event. -/
theorem pcOf_enter : pcOf (enter c l cause addr ret svc d) c
    = (sr d c (Sr.copy l Sr.EVEC) &&& 0xFFFFFFFFFFFFF000#64) + (if cause.msb = true then 0x200#64 else 0#64) :=
  (pcOf_enter_eq_entered c l cause addr ret svc d).trans (pcOf_entered c l cause addr ret d)

theorem gReg_enter (r : Nat) : gReg (enter c l cause addr ret svc d) c r = gReg d c r :=
  ((frame_enter c l cause addr ret svc d).g r List.not_mem_nil).trans (gReg_entered c l cause addr ret d r)

theorem fReg_enter (r : Nat) : fReg (enter c l cause addr ret svc d) c r = fReg d c r :=
  ((frame_enter c l cause addr ret svc d).f r List.not_mem_nil).trans (fReg_entered c l cause addr ret d r)

theorem arch_enter_other {b : Nat} (h : b ≠ c) : arch (enter c l cause addr ret svc d) b = arch d b :=
  ((frame_enter c l cause addr ret svc d).others b h).trans (arch_entered c l cause addr ret d h)

end

/-! ### Synchronous exceptions (R87) -/

theorem plOf_lt (d : Dev) (c : Nat) : plOf d c < 4 := getF_lt Ps.PL (pstate d c)

/-- A synchronous exception with no further cause bits enters the higher of its cause's level and the current one. -/
theorem takeExn_of (c code : Nat) (addr : Word) (d : Dev) : takeExn c (Exn.of code addr) d =
    enter c (max (defaultLevel code) (plOf d c)) (BitVec.ofNat 64 code) addr
      (if 0x14 ≤ code ∧ code ≤ 0x17 then pcOf d c + 4 else pcOf d c) (some 0) d := by
  simp only [takeExn, Exn.of, Nat.add_zero, Nat.zero_div]
  rfl

/-- The level that a synchronous exception is taken to. -/
theorem exnLevel_le (code : Nat) (d : Dev) (c : Nat) : max (defaultLevel code) (plOf d c) ≤ 3 := by
  have hpl := plOf_lt d c
  have hdef : defaultLevel code ≤ 3 := by
    unfold defaultLevel
    split
    · decide
    · split <;> decide
  omega

/-- The code, the level and the world do not overlap in the cause that an entry saves. -/
theorem toNat_savedCause {code pl : Nat} (hcode : code < 256) (hpl : pl < 4) (ns : Bool) :
    (BitVec.ofNat 64 code ||| BitVec.ofNat 64 (pl * 2 ^ 8 + b2n ns * 2 ^ 10)).toNat = code + 2 ^ 8 * (pl + 4 * b2n ns) := by
  have hns : b2n ns ≤ 1 := by cases ns <;> decide
  have hsum : pl * 2 ^ 8 + b2n ns * 2 ^ 10 = 2 ^ 8 * (pl + 4 * b2n ns) := by omega
  rw [BitVec.toNat_or, BitVec.toNat_ofNat, BitVec.toNat_ofNat, Nat.mod_eq_of_lt (by omega), Nat.mod_eq_of_lt (by omega), hsum,
    Nat.or_comm, ← Nat.two_pow_add_eq_or_of_lt hcode, Nat.add_comm]

theorem savedCause_fields {code pl : Nat} (hcode : code < 256) (hpl : pl < 4) (ns : Bool) :
    bitsOf (BitVec.ofNat 64 code ||| BitVec.ofNat 64 (pl * 2 ^ 8 + b2n ns * 2 ^ 10)) 7 0 = code
    ∧ bitsOf (BitVec.ofNat 64 code ||| BitVec.ofNat 64 (pl * 2 ^ 8 + b2n ns * 2 ^ 10)) 9 8 = pl := by
  simp only [bitsOf, getF, Fld.width, toNat_savedCause hcode hpl ns, Nat.shiftRight_eq_div_pow]
  omega

/-! ### Instructions that meet an exception, and instructions that retire -/

section
variable {i : Instr} {s : State} {c : Nat} {d d2 : Dev} {tokens : Dev → Nat} {body : Act Ret}

/-- An instruction whose effect meets an exception enters the exception's level from where its effect ends. -/
theorem completes_of_exn {code : Nat} {addr : Word} (h : Begins s c d) (he : exec i s = onDev s (instr c tokens body))
    (hb : body d = (d2, .exn (Exn.of code addr))) :
    Completes i s fun t => Still (takeExn c (Exn.of code addr) (winClear c d2)) t c := by
  refine completes_onDev he ?_
  rw [instr_exn h hb]
  exact still_genSync s.dev _ c

/-- An instruction whose effect meets an exception, having changed no register, traps. -/
theorem traps_of_exn {code : Nat} {addr : Word} (h : Begins s c d) (he : exec i s = onDev s (instr c tokens body))
    (hb : body d = (d2, .exn (Exn.of code addr))) (hd : Still d d2 c) (hcode : code < 256) :
    Traps i s c d code addr (if 0x14 ≤ code ∧ code ≤ 0x17 then pcOf d c + 4 else pcOf d c) := by
  have hw : Still d (winClear c d2) c := still_trans hd (still_winClear c d2)
  have hsr {n : Nat} (hn : isPmc n = false) : sr (winClear c d2) c n = sr d c n := hw.fr.sr n List.not_mem_nil hn
  have hps : pstate (winClear c d2) c = pstate d c := hsr (by decide)
  have hpl : plOf (winClear c d2) c = plOf d c := by rw [plOf, hps, plOf]
  have hns : nsOf (winClear c d2) c = nsOf d c := by rw [nsOf, hps, nsOf]
  have hmsb : (BitVec.ofNat 64 code).msb = false := by rw [BitVec.msb_eq_decide, BitVec.toNat_ofNat]; simp; omega
  refine (completes_of_exn h he hb).mono fun t ht => ?_
  rw [takeExn_of, hpl, hw.pc] at ht
  obtain ⟨hepc, hepstate, headdr, hecause⟩ := saved_enter c (max (defaultLevel code) (plOf d c)) (BitVec.ofNat 64 code) addr
    (if 0x14 ≤ code ∧ code ≤ 0x17 then pcOf d c + 4 else pcOf d c) (some 0) (winClear c d2)
  have hlevel := plOf_enter c _ (BitVec.ofNat 64 code) addr (if 0x14 ≤ code ∧ code ≤ 0x17 then pcOf d c + 4 else pcOf d c) (some 0)
    (winClear c d2) (exnLevel_le code d c)
  obtain ⟨hfield, hfrom⟩ := savedCause_fields hcode (plOf_lt d c) (nsOf d c)
  have ht_sr {n : Nat} (hn : isPmc n = false) := ht.fr.sr n List.not_mem_nil hn
  have ht_pl : plOf t c = max (defaultLevel code) (plOf d c) := by rw [← hlevel, plOf, plOf, pstate, pstate, ht_sr (by decide)]
  dsimp only
  rw [ht_pl, ht.pc, pcOf_enter, hmsb, hsr (isPmc_copy _ _), ht_sr (isPmc_copy _ _), ht_sr (isPmc_copy _ _), ht_sr (isPmc_copy _ _),
    ht_sr (isPmc_copy _ _), hepc, headdr, hepstate, hecause, hpl, hns, hfield, hfrom, hps]
  simp

/-- An exception writes no general register. -/
theorem gReg_of_exn {code : Nat} {addr : Word} (h : Begins s c d) (he : exec i s = onDev s (instr c tokens body))
    (hb : body d = (d2, .exn (Exn.of code addr))) (hd : Still d d2 c) : Completes i s fun t => ∀ r, gReg t c r = gReg d c r := by
  refine (completes_of_exn h he hb).mono fun t ht r => ?_
  rw [ht.fr.g r List.not_mem_nil, takeExn_of, gReg_enter]
  exact (still_trans hd (still_winClear c d2)).fr.g r List.not_mem_nil

/-- An instruction whose effect succeeds retires from where its effect ends, to the next instruction or to the address it names. -/
theorem completes_of_ok {r : Ret} (h : Begins s c d) (he : exec i s = onDev s (instr c tokens body)) (hb : body d = (d2, .ok r)) :
    Completes i s fun t => pcOf t c = r.npc.getD (pcOf d2 c + 4) ∧ Frame d2 t c [] [] [] [] [] ∧ Units d2 t := by
  have hw := still_winClear c d2
  have hg := still_genSync s.dev (retire c (tokens d) false r (winClear c d2)) c
  refine completes_onDev he ?_
  rw [instr_begins h hb]
  refine ⟨?_, (hw.fr.comp (retire_frame c (tokens d) r _)).trans_still hg, (hw.un.trans (retire_units c (tokens d) r _)).trans hg.un⟩
  rw [hg.pc, retire_pc, hw.pc]

end

/-- A write of register `rd` reads back as the value, g0 as zero (R54). -/
theorem gReg_setG_operand (c : Nat) (rd : BitVec 5) (v : Word) (d : Dev) : gReg (setG c rd.toNat v d) c rd.toNat = if rd = 0 then 0 else v := by
  rw [gReg_setG_same]
  exact if_congr (BitVec.toNat_inj (y := 0#5)) rfl rfl

/-- An instruction whose effect changes no register and names the next address. -/
theorem completes_jump {i : Instr} {s : State} {c : Nat} {d d2 : Dev} {tokens : Dev → Nat} {body : Act Ret} {pc : Word}
    {evs : List (Nat × Nat)} {uops : Nat} {sync : Bool} (h : Begins s c d) (he : exec i s = onDev s (instr c tokens body))
    (hb : body d = (d2, .ok ⟨some pc, evs, uops, sync⟩)) (hd : Still d d2 c) :
    Completes i s fun t => pcOf t c = pc ∧ Frame d t c [] [] [] [] [] ∧ Units d t := by
  refine (completes_of_ok h he hb).mono ?_
  rintro t ⟨hpc, hframe, hunits⟩
  exact ⟨hpc, hd.fr.comp hframe, hd.un.trans hunits⟩

/-- An instruction whose effect writes `rd` over a device with the same registers and names the next address. -/
theorem completes_link {i : Instr} {s : State} {c : Nat} {d d1 : Dev} {tokens : Dev → Nat} {body : Act Ret} {pc v : Word} {rd : BitVec 5}
    {evs : List (Nat × Nat)} {uops : Nat} {sync : Bool} (h : Begins s c d) (he : exec i s = onDev s (instr c tokens body))
    (hb : body d = (setG c rd.toNat v d1, .ok ⟨some pc, evs, uops, sync⟩)) (hd : Still d d1 c) :
    Completes i s fun t => pcOf t c = pc ∧ gReg t c rd.toNat = (if rd = 0 then 0 else v) ∧ Frame d t c [rd.toNat] [] [] [] [] ∧ Units d t := by
  refine (completes_of_ok h he hb).mono ?_
  rintro t ⟨hpc, hframe, hunits⟩
  have hwrite : Frame d (setG c rd.toNat v d1) c [rd.toNat] [] [] [] [] := (hd.fr.weaken _ _ _ _ _).comp (frame_setG c rd.toNat v d1)
  exact ⟨hpc, (hframe.g _ List.not_mem_nil).trans (gReg_setG_operand c rd v d1), hwrite.comp (hframe.weaken _ _ _ _ _),
    (hd.un.trans (units_setG c rd.toNat v d1)).trans hunits⟩

/-! ### Instructions with a result, and words without one (R57, R59) -/

section
variable {j : Instr} {s : State} {c : Nat} {d : Dev} {rd : BitVec 5} {word : Nat} {res : Dev → Option Word}

theorem writesG_of_result {v : Word} (h : Begins s c d)
    (he : exec j s = onDev s (instr1 c (fun d => writeOrIllegal c rd word (res d) d))) (hv : res d = some v) : WritesG j s c d rd v :=
  writesG_instr1 h he (by rw [hv]; rfl)

theorem traps_of_noResult (h : Begins s c d)
    (he : exec j s = onDev s (instr1 c (fun d => writeOrIllegal c rd word (res d) d))) (hv : res d = none) :
    Traps j s c d 1 (BitVec.ofNat 64 word) (pcOf d c) := by
  have hb : (fun d => writeOrIllegal c rd word (res d) d) d = (d, .exn (Exn.of 1 (BitVec.ofNat 64 word))) := by
    dsimp only
    rw [hv]
    rfl
  exact traps_of_exn (tokens := fun _ => 1) h he hb (still_refl d c) (by decide)

/-- An instruction that writes a result or has none: it writes it, or it takes the illegal-instruction exception. -/
theorem writesG_or_traps (h : Begins s c d)
    (he : exec j s = onDev s (instr1 c (fun d => writeOrIllegal c rd word (res d) d))) :
    (∃ v, WritesG j s c d rd v) ∨ ∃ w, Traps j s c d 1 w (pcOf d c) := by
  cases hv : res d with
  | some v => exact .inl ⟨v, writesG_of_result h he hv⟩
  | none => exact .inr ⟨_, traps_of_noResult h he hv⟩

end

end Sys2Proof.Machine
end

section
/-! PROOFS. Exception entry, the results of the integer instructions, branches and jumps (R58, R59, R77, R78, R88, R135, R137). -/

namespace Sys2Proof.Machine

open Sys2Proof.Safety

/-- Settles O4: the register writes of an entry by R88, none of which its service timer or its flush of the predictor undoes. -/
theorem exceptionEntry : Obligations.ExceptionEntry := by
  rintro d _ c l cause addr ret svc - hl rfl
  obtain ⟨hepc, hepstate, headdr, hecause⟩ := saved_enter c l cause addr ret svc d
  have hps := pstate_enter c l cause addr ret svc d
  have hns : nsOf (enter c l cause addr ret svc d) c = getB Ps.NS (entryPstate (pstate d c) l) := congrArg (getB Ps.NS) hps
  rw [hns, hps]
  exact ⟨hepc, hepstate, headdr, hecause, plOf_enter c l cause addr ret svc d hl, getB_entryPstate_NS _ l, getB_entryPstate_IEN _ l,
    getB_entryPstate_IES _ l, getB_entryPstate_SS _ l, getB_entryPstate_VEN _ l, pcOf_enter c l cause addr ret svc d,
    fun r => ⟨gReg_enter c l cause addr ret svc d r, fReg_enter c l cause addr ret svc d r⟩,
    fun _ hb => arch_enter_other c l cause addr ret svc d hb, enter_mem c l cause addr ret svc d⟩

/-! ### Sign extension -/

/-- The sign extension of an `n`-bit immediate (R56). -/
theorem sext_toNat {n : Nat} (hn : 0 < n) (v : BitVec n) : sext n v.toNat = v.signExtend 64 := by
  obtain ⟨m, rfl⟩ : ∃ m, n = m + 1 := ⟨n - 1, by omega⟩
  have hpow : 2 ^ (m + 1) = 2 * 2 ^ m := Nat.pow_succ'
  unfold sext BitVec.signExtend
  simp only [Nat.mod_eq_of_lt v.isLt, BitVec.toInt_eq_toNat_cond, Nat.add_sub_cancel]
  split
  · rw [if_pos (by omega)]; rfl
  · rw [if_neg (by omega)]

/-- The low 32 bits of a sum with a sign-extended immediate are the sum of the low 32 bits (R59). -/
theorem sext32_add_signExtend (z : Word) {n : Nat} (v : BitVec n) :
    sext32 (z + v.signExtend 64) = (z.setWidth 32 + v.signExtend 32).signExtend 64 := by
  have hlow : (v.signExtend 64).setWidth 32 = v.signExtend 32 := by
    ext i hi
    simp only [BitVec.getElem_setWidth, BitVec.getLsbD_signExtend, BitVec.getElem_signExtend, show i < 64 by omega, decide_true,
      Bool.true_and]
    split
    · exact BitVec.getLsbD_eq_getElem _
    · rfl
  unfold sext32
  rw [BitVec.truncate_eq_setWidth, BitVec.setWidth_add _ _ (by decide), hlow]

/-! ### Results of the integer groups by FUNC (R58, R59) -/

/-- The result of an INT word: the operation of bits 10:6, on 32 bits with bit 5 set; bits 4:0 are zero, and an operation with one source
has g0 as rs2. -/
theorem intResult_of_op {f : BitVec 11} {rs2 : BitVec 5} {a b v : Word} (hlow : f.toNat % 32 = 0) (hu : f.toNat / 64 < 16 ∨ rs2 = 0)
    (hv : (if f.toNat / 32 % 2 = 1 then intOpW (f.toNat / 64) a b else intOp (f.toNat / 64) a b) = some v) : intResult f rs2 a b = some v := by
  unfold intResult
  dsimp only
  rw [if_neg, hv]
  simp only [intUnary, decide_eq_true_eq]
  rintro (h | ⟨hop, hrs2⟩)
  · exact h hlow
  · exact hu.elim (by omega) hrs2

theorem mulResult_of_op {f : BitVec 11} {a b v : Word} (hlow : f.toNat % 32 = 0)
    (hv : (if f.toNat / 32 % 2 = 1 then mulOpW (f.toNat / 64) a b else mulOp (f.toNat / 64) a b) = some v) : mulResult f a b = some v := by
  unfold mulResult
  rw [if_neg (not_not_intro hlow), hv]

/-- The quotient truncated toward zero; a zero divisor gives all ones (R59). -/
theorem divS_eq (w : Nat) (a b : BitVec w) : divS w a b = if b = 0 then BitVec.allOnes w else BitVec.ofInt w (a.toInt.tdiv b.toInt) := by
  have h : a.sdiv b = BitVec.ofInt w (a.toInt.tdiv b.toInt) :=
    BitVec.eq_of_toInt_eq (by rw [BitVec.toInt_sdiv, BitVec.toInt_ofInt])
  rw [divS, h]

/-- The remainder that belongs to the truncated quotient; a zero divisor gives the dividend (R59). -/
theorem remS_eq (w : Nat) (a b : BitVec w) : remS w a b = if b = 0 then a else BitVec.ofInt w (a.toInt.tmod b.toInt) := by
  rw [remS, ← BitVec.toInt_srem, BitVec.ofInt_toInt]

theorem divU_eq (w : Nat) (a b : BitVec w) : divU w a b = if b = 0 then BitVec.allOnes w else BitVec.ofNat w (a.toNat / b.toNat) := by
  rw [divU, BitVec.udiv_eq, BitVec.udiv_def]

theorem remU_eq (w : Nat) (a b : BitVec w) : remU w a b = if b = 0 then a else BitVec.ofNat w (a.toNat % b.toNat) := by
  rw [remU, BitVec.umod_eq, BitVec.umod_def]

/-- The W forms of the quotients and of the remainders, sign-extended (R59). -/
theorem signExtend_divS (a b : BitVec 32) : (divS 32 a b).signExtend 64 =
    if b = 0 then BitVec.allOnes 64 else (BitVec.ofInt 32 (a.toInt.tdiv b.toInt)).signExtend 64 := by
  rw [divS_eq, apply_ite (BitVec.signExtend 64)]
  rfl

theorem signExtend_divU (a b : BitVec 32) : (divU 32 a b).signExtend 64 =
    if b = 0 then BitVec.allOnes 64 else (BitVec.ofNat 32 (a.toNat / b.toNat)).signExtend 64 := by
  rw [divU_eq, apply_ite (BitVec.signExtend 64)]
  rfl

theorem signExtend_remS (a b : BitVec 32) : (remS 32 a b).signExtend 64 =
    if b = 0 then a.signExtend 64 else (BitVec.ofInt 32 (a.toInt.tmod b.toInt)).signExtend 64 := by
  rw [remS_eq, apply_ite (BitVec.signExtend 64)]

theorem signExtend_remU (a b : BitVec 32) : (remU 32 a b).signExtend 64 =
    if b = 0 then a.signExtend 64 else (BitVec.ofNat 32 (a.toNat % b.toNat)).signExtend 64 := by
  rw [remU_eq, apply_ite (BitVec.signExtend 64)]

/-- The most negative number divided by −1 gives itself and remainder 0 (R59). -/
theorem divS_intMin : divS 64 (BitVec.intMin 64) (BitVec.allOnes 64) = BitVec.intMin 64 := by decide
theorem remS_intMin : remS 64 (BitVec.intMin 64) (BitVec.allOnes 64) = 0 := by decide

theorem clz_zero (n : Nat) : clz n 0 = n := by
  simp [clz, SF.blen]

theorem ctz_zero (n : Nat) : ctz n 0 = n := by
  simp [ctz, List.find?_eq_none.2]

theorem intResult_countZero_of_zero {f : BitVec 11} {rs2 : BitVec 5} {x : Word} (hrs2 : rs2 = 0) (hx : x = 0) (hf : f = 1024 ∨ f = 1088)
    (y : Word) : intResult f rs2 x y = some 64 := by
  obtain hf | hf := hf <;> refine intResult_of_op (by rw [hf]; rfl) (.inr hrs2) ?_ <;> rw [hf, hx]
  · exact congrArg (fun k => some (BitVec.ofNat 64 k)) (clz_zero 64)
  · exact congrArg (fun k => some (BitVec.ofNat 64 k)) (ctz_zero 64)

theorem intResult_countZero_of_zero_W {f : BitVec 11} {rs2 : BitVec 5} {x : Word} (hrs2 : rs2 = 0) (hx : x.setWidth 32 = 0#32)
    (hf : f = 1056 ∨ f = 1120) (y : Word) : intResult f rs2 x y = some 32 := by
  have hclz : clz 32 (x.setWidth 32).toNat = 32 := by rw [hx]; exact clz_zero 32
  have hctz : ctz 32 (x.setWidth 32).toNat = 32 := by rw [hx]; exact ctz_zero 32
  obtain hf | hf := hf <;> refine intResult_of_op (by rw [hf]; rfl) (.inr hrs2) ?_ <;> rw [hf]
  · exact congrArg (fun k => some (BitVec.ofNat 64 k)) hclz
  · exact congrArg (fun k => some (BitVec.ofNat 64 k)) hctz

/-- ADDI with W adds in 32 bits and sign-extends the sum. -/
theorem addiResult_W {f : BitVec 2} (hf : f = 1) (z : Word) (imm : BitVec 14) :
    addiResult f z imm = some ((z.setWidth 32 + imm.signExtend 32).signExtend 64) := by
  rw [← sext32_add_signExtend, ← sext_toNat (by decide), hf]
  rfl

/-- SHIFTI with IMM14[6] set shifts the low 32 bits by IMM14[4:0]. -/
theorem shiftiResult_W {f : BitVec 2} {imm : BitVec 14} {n : Nat} (hn : n < 32) (himm : imm.toNat = 64 + n) (z : Word) :
    shiftiResult f z imm = intOpW (5 + f.toNat) z (BitVec.ofNat 64 n) := by
  have hmod : (64 + n) % 64 = n := by omega
  unfold shiftiResult
  dsimp only
  rw [himm, if_neg (by omega), if_pos (by omega), hmod]

/-- Settles O3: each result by the operation of its FUNC (R58, R59). -/
theorem integerResultRules : Obligations.IntegerResultRules := by
  rintro s c d a i x y z lx ly lz h hx hy hz rfl rfl rfl
  have hint (v : Word) (hv : intResult a.func a.rs2 x y = some v) : WritesG (.int c a) s c d a.rd v :=
    writesG_of_result h rfl (by rw [← hx, ← hy, hv])
  have hmul (v : Word) (hv : mulResult a.func x y = some v) : WritesG (.muldiv c a) s c d a.rd v :=
    writesG_of_result h rfl (by rw [← hx, ← hy, hv])
  simp only [BitVec.ofNat_toNat]
  refine ⟨fun v hv => hint v ?_, fun hrs2 => ⟨fun hx0 hf => hint _ (intResult_countZero_of_zero hrs2 hx0 hf y),
      fun hx0 hf => hint _ (intResult_countZero_of_zero_W hrs2 hx0 hf y)⟩, fun v hv => hmul v ?_,
    fun hmin hneg => ⟨fun hf => hmul _ ?_, fun hf => hmul _ ?_⟩, fun hf => writesG_of_result h rfl ?_,
    fun n v hn himm hv => writesG_of_result h rfl ?_, fun j rd hj => ?_⟩
  · simp only [List.mem_cons, List.not_mem_nil, or_false, Prod.mk.injEq] at hv
    obtain ⟨hf, rfl⟩ | ⟨hf, rfl⟩ | ⟨hf, rfl⟩ | ⟨hf, rfl⟩ | ⟨hf, rfl⟩ | ⟨hf, rfl⟩ | ⟨hf, rfl⟩ | ⟨hf, rfl⟩ | ⟨hf, rfl⟩ | ⟨hf, rfl⟩ | ⟨hf, rfl⟩
      | ⟨hf, rfl⟩ := hv <;> exact intResult_of_op (by rw [hf]) (.inl (by rw [hf]; decide)) (by rw [hf]; rfl)
  · simp only [← divS_eq, ← divU_eq, ← remS_eq, ← remU_eq, ← signExtend_divS, ← signExtend_divU, ← signExtend_remS, ← signExtend_remU,
      List.mem_cons, List.not_mem_nil, or_false, Prod.mk.injEq] at hv
    obtain ⟨hf, rfl⟩ | ⟨hf, rfl⟩ | ⟨hf, rfl⟩ | ⟨hf, rfl⟩ | ⟨hf, rfl⟩ | ⟨hf, rfl⟩ | ⟨hf, rfl⟩ | ⟨hf, rfl⟩ | ⟨hf, rfl⟩ | ⟨hf, rfl⟩ := hv
      <;> exact mulResult_of_op (by rw [hf]) (by rw [hf]; rfl)
  · rw [hf, hmin, hneg]
    exact congrArg some divS_intMin
  · rw [hf, hmin, hneg]
    exact congrArg some remS_intMin
  · rw [← hz, addiResult_W hf]
  · have hsh : (BitVec.ofNat 64 n).toNat % 32 = n := by rw [BitVec.toNat_ofNat]; omega
    rw [← hz, shiftiResult_W hn himm]
    simp only [List.mem_cons, List.not_mem_nil, or_false, Prod.mk.injEq] at hv
    obtain ⟨hf, rfl⟩ | ⟨hf, rfl⟩ | ⟨hf, rfl⟩ | ⟨hf, rfl⟩ := hv <;> simp only [hf, intOpW, hsh, BitVec.truncate_eq_setWidth]
  · simp only [List.mem_cons, List.not_mem_nil, or_false, Prod.mk.injEq] at hj
    obtain ⟨rfl, rfl⟩ | ⟨rfl, rfl⟩ | ⟨rfl, rfl⟩ | ⟨rfl, rfl⟩ | ⟨rfl, rfl⟩ | ⟨rfl, rfl⟩ | ⟨rfl, rfl⟩ := hj <;> exact writesG_or_traps h rfl

/-! ### Branches and jumps (R77, R78, R135) -/

theorem still_setPred (c : Nat) (f : Pred → Pred) (d : Dev) : Still d (setPred c f d) c := still_updCore d fun _ => rfl

theorem still_branchPredict (c : Nat) (pc target : Word) (hint : Nat) (taken : Bool) (d : Dev) :
    Still d (branchPredict c pc target hint taken d) c := still_updCore d fun _ => rfl

theorem completes_conditionalBranch {s : State} {c : CoreId} {d : Dev} (h : Begins s c d) (cond : Fin 6) (a : FmtB) :
    Completes (.conditionalBranch c cond a) s fun t =>
      pcOf t c = (if branchTaken cond (gReg d c a.rs.toNat) then pcOf d c + 4 * sext 19 a.off.toNat else pcOf d c + 4)
        ∧ Frame d t c [] [] [] [] [] ∧ Units d t :=
  completes_jump (tokens := fun _ => 1) (body := branchBody c cond a) h rfl rfl (still_branchPredict c _ _ _ _ d)

theorem completes_jal {s : State} {c : CoreId} {d : Dev} (h : Begins s c d) (a : FmtB) (hH : a.h = 0) :
    Completes (.jal c a) s fun t => pcOf t c = pcOf d c + 4 * sext 19 a.off.toNat
      ∧ gReg t c a.rs.toNat = (if a.rs = 0 then 0 else pcOf d c + 4) ∧ Frame d t c [a.rs.toNat] [] [] [] [] ∧ Units d t :=
  completes_link (tokens := fun _ => 1) (body := jalBody c a) h rfl (if_neg (not_not_intro hH)) (still_setPred c _ d)

/-- The target of a JALR (R78). -/
abbrev jalrTarget (d : Dev) (c : Nat) (a : FmtI) : Word := gReg d c a.rs1.toNat + sext 14 a.imm.toNat

theorem completes_jalr {s : State} {c : CoreId} {d : Dev} (h : Begins s c d) (a : FmtI) (hfunc : a.func = 0)
    (ht : bitsOf (jalrTarget d c a) 1 0 = 0) :
    Completes (.jalr c a) s fun t => pcOf t c = jalrTarget d c a
      ∧ gReg t c a.rd.toNat = (if a.rd = 0 then 0 else pcOf d c + 4) ∧ Frame d t c [a.rd.toNat] [] [] [] [] ∧ Units d t :=
  completes_link (tokens := fun _ => 1) (body := jalrBody c a) h rfl ((if_neg (not_not_intro hfunc)).trans (if_neg (not_not_intro ht)))
    (still_setPred c _ d)

theorem jalrBody_misaligned {d : Dev} {c : Nat} {a : FmtI} (hfunc : a.func = 0) (ht : bitsOf (jalrTarget d c a) 1 0 ≠ 0) :
    jalrBody c a d = (d, .exn (Exn.of 3 (jalrTarget d c a))) := (if_neg (not_not_intro hfunc)).trans (if_pos ht)

/-- The resolution of a misprediction gives the history the branch's actual direction and restores the return stack (R135, R137). -/
theorem resolveMisp_of_some {c : Nat} {d : Dev} {gh : Word} {ras : List Word} {taken : Bool}
    (h : (coreSt d c).misp = some (gh, ras, taken)) : resolveMisp c d =
      updCore c (fun x => { x with misp := none, pred := { x.pred with gh := (gh <<< 1) ||| BitVec.ofNat 64 (b2n taken), ras := ras } }) d := by
  unfold resolveMisp
  rw [h]

theorem arch_resolveMisp (c : Nat) (d : Dev) (b : Nat) : arch (resolveMisp c d) b = arch d b := by
  unfold resolveMisp
  split
  · rfl
  · exact arch_updCore d b fun _ => rfl

theorem completes_misprediction {s : State} {c : CoreId} {gh : Word} {ras : List Word} {taken : Bool}
    (h : (coreSt s.dev c).misp = some (gh, ras, taken)) :
    Completes (.misprediction c) s fun t => (coreSt t c).pred.gh = (gh <<< 1) ||| (if taken then 1 else 0)
      ∧ (coreSt t c).pred.ras = ras ∧ (coreSt t c).misp = none ∧ (∀ c', arch t c' = arch s.dev c') ∧ (∀ a, memByte t a = memByte s.dev a) := by
  refine completes_onDev (f := resolveMisp c) rfl ?_
  have harch := arch_resolveMisp c s.dev
  rw [resolveMisp_of_some h] at harch ⊢
  rw [coreSt_genSync, coreSt_updCore_same]
  refine ⟨?_, rfl, rfl, harch, fun _ => rfl⟩
  cases taken <;> rfl

/-- Settles O13: the effect of each instruction by R77 and R78, and the resolution of a misprediction by R135 and R137. -/
theorem branchesAndJumps : Obligations.BranchesAndJumps := by
  refine fun s c d => ⟨fun h => ⟨completes_conditionalBranch h, completes_jal h, completes_jalr h, fun a hfunc ht => ?_, fun a hH => ?_,
    fun a hfunc => ?_⟩, fun gh ras taken hm => completes_misprediction hm⟩
  · have hb := jalrBody_misaligned hfunc ht
    exact ⟨traps_of_exn (tokens := fun _ => 1) h rfl hb (still_refl d c) (by decide),
      (gReg_of_exn (tokens := fun _ => 1) h rfl hb (still_refl d c)).mono fun t hg => hg _⟩
  · have hb : jalBody c a d = (d, .exn (exIll (a.word 0x16))) := if_pos hH
    exact traps_of_exn (tokens := fun _ => 1) h rfl hb (still_refl d c) (by decide)
  · have hb : jalrBody c a d = (d, .exn (exIll (a.word 0x17))) := if_pos hfunc
    exact traps_of_exn (tokens := fun _ => 1) h rfl hb (still_refl d c) (by decide)

end Sys2Proof.Machine
end
